-- ==== Sys2Proof/Word.lean ====
section
/-! DEFINITION. The word and byte types of the machine (00 R7) and the register-name widths (00 R13). -/

namespace Sys2Proof

/-- A 64-bit register or memory word. -/
abbrev Word := BitVec 64

/-- One byte. -/
abbrev Byte := BitVec 8

/-- A scalar register name, x0-x31 (00 R13). -/
abbrev XReg := BitVec 5

/-- A vector register name, v0-v63 (00 R13). -/
abbrev VReg := BitVec 6

/-- A walker register name, w0-w15 (00 R13). -/
abbrev WReg := BitVec 4

end Sys2Proof
end

