-- ==== Sys2Proof/Syntax.lean ====
section
/-! DEFINITION. The instruction syntax: operand codes (10 R254-R267) and one constructor of `Instr` for every row of
the opcode table: strand instructions, control words, walker words and the events that happen to the device. -/

namespace Sys2Proof

/-- Scalar integer access type TI (10 R254). -/
inductive TI where | i8 | n8 | i16 | n16 | i32 | n32 | i64 | n64
  deriving DecidableEq, Repr

/-- The integer element types I and N (10 R254). -/
inductive ITy where | i | n
  deriving DecidableEq, Repr

/-- The floating-point element types (10 R254). -/
inductive FTy where | f16 | bf16 | f32 | f64
  deriving DecidableEq, Repr

/-- The type codes of a scalar FCVT (10 R254, R259): I64, N64 or a floating-point type. -/
inductive SType where | i64 | n64 | f (t : FTy)
  deriving DecidableEq, Repr

/-- The element types of VMERGE, VCONV and the extended instructions (10 R254). -/
inductive ElTy where | i | n | f (t : FTy)
  deriving DecidableEq, Repr

/-- The scopes (05 R122, 10 R254). -/
inductive Scope where | str | clu | die | dev | fab
  deriving DecidableEq, Repr

/-- Element widths of VCFG (02 R39, 10 R260). -/
inductive Sew where | w4 | w6 | w8 | w16 | w32 | w64
  deriving DecidableEq, Repr

/-- The prefix rounding override RMO (10 R255). -/
inductive Rmo where | none | rne | rtz | rdn | rup | rna | efr
  deriving DecidableEq, Repr

/-- The fields of a prefix word other than the register bits HD, HA and HB, which stand in the register names
(10 R255). -/
structure Pfx where
  /-- rounding override -/
  rmo : Rmo
  /-- saturate the result -/
  sat : Bool
  /-- write zero to masked-off elements -/
  mz : Bool
  /-- mask by v(MK) in place of v0 -/
  mke : Bool
  /-- the mask register named when MKE = 1 -/
  mreg : VReg
  /-- the fourth vector operand -/
  vc : VReg
  deriving DecidableEq, Repr

/-- The control bits of a vector base word and its prefix, if it has one (10 R251, R253, R255). -/
structure VCtl where
  /-- chains the next instruction into the convoy -/
  c : Bool
  /-- tail agnostic -/
  tp : Bool
  /-- masked-off agnostic -/
  mp : Bool
  /-- masked -/
  m : Bool
  /-- the prefix word, when the unit is a prefix unit -/
  pfx : Option Pfx
  deriving DecidableEq, Repr

/-- The control bits of an extended vector instruction (10 R264). -/
structure ECtl where
  /-- chains the next instruction into the convoy -/
  c : Bool
  /-- tail agnostic -/
  tp : Bool
  /-- masked-off agnostic -/
  mp : Bool
  /-- masked -/
  m : Bool
  /-- the mask register K -/
  mreg : VReg
  deriving DecidableEq, Repr

/-- VCMP conditions (10 R261). -/
inductive ICond where | eq | ne | lt | ge
  deriving DecidableEq, Repr

/-- FCMP and VFCMP conditions (10 R259, R261). -/
inductive FCond where | eq | lt | le | un
  deriving DecidableEq, Repr

/-- VRED operators (10 R262). -/
inductive RedOp where | add | min | max | and | or | xor
  deriving DecidableEq, Repr

/-- VFRED and FAMO operators (10 R262). -/
inductive FRedOp where | sum | min | max
  deriving DecidableEq, Repr

/-- VSCAN operators under an integer or a floating-point type (10 R262). -/
inductive ScanOp where | int (op : RedOp) (t : ITy) | flt (op : FRedOp) (f : FTy)
  deriving DecidableEq, Repr

/-- BFP block lengths (10 R261). -/
inductive BlkLen where | l32 | l64 | l128
  deriving DecidableEq, Repr

/-- The A operand of an extended instruction: a scalar register, or the literal of LEN = 0b11 (10 R264). -/
inductive AOp where | reg (r : XReg) | lit (v : Word)
  deriving DecidableEq, Repr

/-- What XSTAT reads (14 R364): the completed identifier of a channel, or the DONE of an engine. -/
inductive XSrc where | chan (c : BitVec 3) | eng (e : BitVec 4)
  deriving DecidableEq, Repr

/-- What XWAIT waits for (14 R364). -/
inductive XWMode where
  /-- the identifier in A on a channel -/
  | chan (c : BitVec 3)
  /-- the leading-element count in B of the transfer A on a channel -/
  | lead (c : BitVec 3) (xb : XReg)
  /-- the sequence number in A of an engine -/
  | eng (e : BitVec 4)
  deriving DecidableEq, Repr

/-- Integer atomic operations (14 R361). -/
inductive AmoOp where | add | and | or | xor | min | max | swap
  deriving DecidableEq, Repr

/-- The attributes of an atomic (14 R361). -/
structure AmoCtl where
  /-- 64-bit width -/
  w64 : Bool
  /-- acquire -/
  aq : Bool
  /-- release -/
  rl : Bool
  /-- remote -/
  remote : Bool
  deriving DecidableEq, Repr

/-- WCMP conditions (16 R403). -/
inductive WCond where | eq | lt | ltn | ne
  deriving DecidableEq, Repr

/-- The fields of a control word other than LEN and OP (10 R265). -/
structure CW where
  /-- D -/
  d : BitVec 6
  /-- A -/
  a : BitVec 6
  /-- B -/
  b : BitVec 6
  /-- C -/
  c : BitVec 6
  /-- cycles the next word waits -/
  stall : BitVec 3
  /-- the tag a V word takes -/
  talloc : BitVec 3
  /-- the tags the word waits for; bit 0 is tag 1 -/
  twait : BitVec 7
  /-- the immediate -/
  imm : BitVec 17
  deriving DecidableEq, Repr

/-- A PCIe function (17 R429). -/
inductive HostFn where | pf | vf (n : Nat)
  deriving DecidableEq, Repr

/-- Who writes a register of device register space (17 R431). -/
inductive RegAgent where | supervisor | mgmt | host (fn : HostFn)
  deriving DecidableEq, Repr

/-- The failing check a unit outside the core reports for an engine command (03 R77). -/
structure FaultReply where
  /-- trap cause code of R88 -/
  cause : BitVec 8
  /-- secondary cause -/
  sub : BitVec 8
  /-- element of the command -/
  elem : Nat
  /-- TRAPADDR -/
  addr : Word
  deriving DecidableEq, Repr

/-- What a patrol-scrub access finds (04 R112). -/
inductive ScrubOutcome where | clean | corrected | uncorrectable
  deriving DecidableEq, Repr

/-- Why a monitor entry ends (07 R196). -/
inductive WakeReason where | write | evict | resume | timeout
  deriving DecidableEq, Repr

/-- The kinds of remote operation performed at a target (05 R134, 17 R416). -/
inductive RemoteKind where
  /-- a remote load or gather element -/
  | load
  /-- a remote store or scatter element -/
  | store (data : Word)
  /-- a store with ORD: its ORDSEQ and its source strand context -/
  | ordStore (data : Word) (ordSeq ctx : Nat)
  /-- an atomic, as ATOP gives it -/
  | amo (op : AmoOp) (signed : Bool) (data : Word)
  /-- a compare-and-swap -/
  | cas (cmp new : Word)
  /-- a floating-point atomic -/
  | famo (op : FRedOp) (data : Word)
  /-- a read of `count` payload elements of a message forme -/
  | payload (count : Nat)
  deriving DecidableEq, Repr

/-- A remote operation that reaches this module as its target (07 R183). -/
structure RemoteReq where
  /-- source module -/
  src : Nat
  /-- forme number -/
  forme : Nat
  /-- element index -/
  elem : Nat
  /-- element width in bytes -/
  width : Nat
  /-- operation -/
  kind : RemoteKind
  deriving DecidableEq, Repr

/-- What a target answers (05 R134, 07 R183). -/
inductive RemoteAnswer where
  /-- performed; the old or loaded value -/
  | ok (val : Word)
  /-- a check of R183 failed -/
  | forme (sub : BitVec 8)
  /-- not ready, retried (17 R424) -/
  | notReady
  deriving DecidableEq, Repr

/-- The answer to one outstanding remote element of this module. -/
structure RemoteResp where
  /-- which outstanding element -/
  tagno : Nat
  /-- the answer -/
  answer : RemoteAnswer
  deriving DecidableEq, Repr

/-- A packet at an input port: its route header (17 R416); its contents are carried unread. -/
structure Packet where
  /-- SRC -/
  src : Nat
  /-- DST -/
  dst : Nat
  /-- VIA, 0x3FF for none -/
  via : Nat
  /-- GEN -/
  gen : Nat
  /-- HOP -/
  hop : Nat
  /-- PHASE -/
  phase : Bool
  /-- CLASS: 0 request, 1 response, 2 message; any other stands for a transaction of a type that is not used (17 R415) -/
  cls : Nat
  /-- the port it came in on; 32 for a packet of this module -/
  port : Nat
  /-- the name word and payload -/
  body : List Byte
  deriving DecidableEq, Repr

/-- A message that arrives at this module (17 R417). -/
structure Msg where
  /-- source module -/
  src : Nat
  /-- source endpoint -/
  sep : Nat
  /-- destination endpoint -/
  dep : Nat
  /-- PATH: 0 eager, 1 deferred, 2 rendezvous -/
  path : Nat
  /-- TAG -/
  tag : BitVec 32
  /-- LENGTH -/
  len : Nat
  /-- PSEQ -/
  pseq : BitVec 32
  /-- FREF -/
  fref : Word
  /-- the payload of an eager message -/
  payload : List Byte
  deriving DecidableEq, Repr

/-- Every operation and event of the opcode table. -/
inductive Instr where
  -- Strand scalar, control-flow and system instructions (11).
  /-- ADD (R278): Wrapped 64-bit sum of xa and xb. -/
  | add (xd xa xb : XReg)
  /-- SUB (R278): Wrapped difference of xa and xb. -/
  | sub (xd xa xb : XReg)
  /-- MUL (R278): Low 64 bits of the product. -/
  | mul (xd xa xb : XReg)
  /-- MULH (R278): High 64 bits of the signed product. -/
  | mulh (xd xa xb : XReg)
  /-- MULHN (R278): High 64 bits of the natural product. -/
  | mulhn (xd xa xb : XReg)
  /-- DIV (R278): Signed quotient under R230. -/
  | div (xd xa xb : XReg)
  /-- DIVN (R278): Natural quotient under R230. -/
  | divn (xd xa xb : XReg)
  /-- REM (R278): Signed remainder under R230. -/
  | rem (xd xa xb : XReg)
  /-- REMN (R278): Natural remainder under R230. -/
  | remn (xd xa xb : XReg)
  /-- AND (R278): Bitwise AND. -/
  | and (xd xa xb : XReg)
  /-- OR (R278): Bitwise OR. -/
  | or (xd xa xb : XReg)
  /-- XOR (R278): Bitwise XOR. -/
  | xor (xd xa xb : XReg)
  /-- SHL (R278): Shift left by xb[5:0]. -/
  | shl (xd xa xb : XReg)
  /-- SHR (R278): Logical shift right by xb[5:0]. -/
  | shr (xd xa xb : XReg)
  /-- SHA (R278): Arithmetic shift right by xb[5:0]. -/
  | sha (xd xa xb : XReg)
  /-- SLT (R278): Signed less-than, giving 1 or 0. -/
  | slt (xd xa xb : XReg)
  /-- SLTN (R278): Natural less-than, giving 1 or 0. -/
  | sltn (xd xa xb : XReg)
  /-- MIN (R278): Signed minimum. -/
  | min (xd xa xb : XReg)
  /-- MAX (R278): Signed maximum. -/
  | max (xd xa xb : XReg)
  /-- MINN (R278): Natural minimum. -/
  | minn (xd xa xb : XReg)
  /-- MAXN (R278): Natural maximum. -/
  | maxn (xd xa xb : XReg)
  /-- CLZ (R278): Count of leading zero bits. -/
  | clz (xd xa : XReg)
  /-- CTZ (R278): Count of trailing zero bits. -/
  | ctz (xd xa : XReg)
  /-- POPC (R278): Count of one bits. -/
  | popc (xd xa : XReg)
  /-- LEA_INDEXED (R278): Indexed address sum xa + xb, with no memory access. -/
  | leaIndexed (xd xa xb : XReg)
  /-- ADDI (R279): Add a sign-extended 11-bit immediate. -/
  | addi (xd xa : XReg) (imm : BitVec 11)
  /-- ANDI (R279): AND with a sign-extended immediate. -/
  | andi (xd xa : XReg) (imm : BitVec 11)
  /-- ORI (R279): OR with a sign-extended immediate. -/
  | ori (xd xa : XReg) (imm : BitVec 11)
  /-- XORI (R279): XOR with a sign-extended immediate. -/
  | xori (xd xa : XReg) (imm : BitVec 11)
  /-- SHLI (R279): Shift left by an immediate amount. -/
  | shli (xd xa : XReg) (sh : BitVec 6)
  /-- SHRI (R279): Logical shift right by an immediate amount. -/
  | shri (xd xa : XReg) (sh : BitVec 6)
  /-- SHAI (R279): Arithmetic shift right by an immediate amount. -/
  | shai (xd xa : XReg) (sh : BitVec 6)
  /-- SLTI (R279): Signed compare with an immediate. -/
  | slti (xd xa : XReg) (imm : BitVec 11)
  /-- SLTNI (R279): Natural compare with a sign-extended immediate. -/
  | sltni (xd xa : XReg) (imm : BitVec 11)
  /-- LEA (R279): xa plus the immediate times 16. -/
  | lea (xd xa : XReg) (imm : BitVec 11)
  /-- LD (R281): Scalar load with a scaled offset, sign- or zero-extended. -/
  | ld (ti : TI) (xd xa : XReg) (off : BitVec 8)
  /-- ST (R281): Scalar store with a scaled offset. -/
  | st (ti : TI) (xd xa : XReg) (off : BitVec 8)
  /-- LD_INDEXED (R281): Scalar load at xa + xb (MEMX, bit 31 = 0). -/
  | ldIndexed (ti : TI) (xd xa xb : XReg)
  /-- ST_INDEXED (R281): Scalar store at xa + xb (MEMX, bit 31 = 1). -/
  | stIndexed (ti : TI) (xd xa xb : XReg)
  /-- LDA (R282): Acquire load at its scope. -/
  | lda (ti : TI) (sc : Scope) (xd xa : XReg)
  /-- STL (R282): Release store at its scope. -/
  | stl (ti : TI) (sc : Scope) (xd xa : XReg)
  /-- FADD (R285): Scalar floating add. -/
  | fadd (f : FTy) (xd xa xb : XReg)
  /-- FSUB (R285): Scalar floating subtract. -/
  | fsub (f : FTy) (xd xa xb : XReg)
  /-- FMUL (R285): Scalar floating multiply. -/
  | fmul (f : FTy) (xd xa xb : XReg)
  /-- FDIV (R285): Scalar floating divide. -/
  | fdiv (f : FTy) (xd xa xb : XReg)
  /-- FMIN (R285): Scalar floating minimum. -/
  | fmin (f : FTy) (xd xa xb : XReg)
  /-- FMAX (R285): Scalar floating maximum. -/
  | fmax (f : FTy) (xd xa xb : XReg)
  /-- FSQRT (R285): Scalar floating square root. -/
  | fsqrt (f : FTy) (xd xa : XReg)
  /-- FCLASS (R288): Class mask of a scalar floating value. -/
  | fclass (f : FTy) (xd xa : XReg)
  /-- FFMA (R286): Fused multiply-add into xd. -/
  | ffma (f : FTy) (xd xa xb : XReg)
  /-- FCMP (R287): Floating compare giving 1 or 0. -/
  | fcmp (c : FCond) (f : FTy) (xd xa xb : XReg)
  /-- FCVT (R289): Scalar conversion between types. -/
  | fcvt (dt st : SType) (xd xa : XReg)
  /-- BEQ (R290): Branch if equal. -/
  | beq (xa xb : XReg) (disp : BitVec 11)
  /-- BNE (R290): Branch if not equal. -/
  | bne (xa xb : XReg) (disp : BitVec 11)
  /-- BLT (R290): Branch if signed less. -/
  | blt (xa xb : XReg) (disp : BitVec 11)
  /-- BGE (R290): Branch if signed greater or equal. -/
  | bge (xa xb : XReg) (disp : BitVec 11)
  /-- BLTN (R290): Branch if natural less. -/
  | bltn (xa xb : XReg) (disp : BitVec 11)
  /-- BGEN (R290): Branch if natural greater or equal. -/
  | bgen (xa xb : XReg) (disp : BitVec 11)
  /-- JAL (R291): Jump and link, PC-relative. -/
  | jal (xd : XReg) (imm : BitVec 16)
  /-- JALR (R291): Jump and link to a register target. -/
  | jalr (xd xa : XReg) (imm : BitVec 11)
  /-- CSRR (R292): Read a system register. -/
  | csrr (xd : XReg) (num : BitVec 12)
  /-- CSRW (R292): Swap xd with a system register. -/
  | csrw (xd : XReg) (num : BitVec 12)
  /-- CSRS (R292): Set bits of a system register and return the old value. -/
  | csrs (xd : XReg) (num : BitVec 12)
  /-- CSRC (R292): Clear bits of a system register and return the old value. -/
  | csrc (xd : XReg) (num : BitVec 12)
  /-- TRAP (R293): Waits for the lanes, then raises TRAPI with its code. -/
  | trap (code : BitVec 16)
  /-- ERET (R294): Leaves the handler and resumes at the refetch PC. -/
  | eret
  /-- DONE (R295): Waits for the lanes, then ends the thread. -/
  | done
  /-- NOP (R296): Does nothing but take a sequence number. -/
  | nop
  /-- VCFG (R298): Sets the register count and element width, and zeroes every vector register. -/
  | vcfg (xd : XReg) (sew : Sew) (nregs : BitVec 2)
  /-- SETVL (R299): Grants a vector length from xa. -/
  | setvl (xd xa : XReg)
  /-- SETVLI (R299): Grants a vector length from an immediate. -/
  | setvli (xd : XReg) (imm : BitVec 16)
  /-- LIT (R280): Loads a 64-bit literal into xd. -/
  | lit (xd : XReg) (lit : Word)
  /-- SAFEPT (R55): Marks a safe point with a live-register map. -/
  | safept (map : Word)
  -- Vector instructions (12, 13).
  /-- VADD (R307): Vector integer add. -/
  | vadd (k : VCtl) (t : ITy) (vd va vb : VReg)
  /-- VSUB (R307): Vector integer subtract. -/
  | vsub (k : VCtl) (t : ITy) (vd va vb : VReg)
  /-- VMUL (R307): Vector integer multiply. -/
  | vmul (k : VCtl) (t : ITy) (vd va vb : VReg)
  /-- VMULH (R307): Vector integer multiply high. -/
  | vmulh (k : VCtl) (t : ITy) (vd va vb : VReg)
  /-- VMADD (R309): Vector integer multiply-add with the addend in vc. -/
  | vmadd (k : VCtl) (t : ITy) (vd va vb : VReg)
  /-- VMIN (R307): Vector integer minimum. -/
  | vmin (k : VCtl) (t : ITy) (vd va vb : VReg)
  /-- VMAX (R307): Vector integer maximum. -/
  | vmax (k : VCtl) (t : ITy) (vd va vb : VReg)
  /-- VAND (R308): Vector bitwise AND. -/
  | vand (k : VCtl) (vd va vb : VReg)
  /-- VOR (R308): Vector bitwise OR. -/
  | vor (k : VCtl) (vd va vb : VReg)
  /-- VXOR (R308): Vector bitwise XOR. -/
  | vxor (k : VCtl) (vd va vb : VReg)
  /-- VSHL (R308): Vector shift left, optionally saturating. -/
  | vshl (k : VCtl) (vd va vb : VReg)
  /-- VSHA (R308): Vector arithmetic shift right. -/
  | vsha (k : VCtl) (vd va vb : VReg)
  /-- VSHR (R308): Vector logical shift right. -/
  | vshr (k : VCtl) (vd va vb : VReg)
  /-- VSADD (R307): Vector saturating add. -/
  | vsadd (k : VCtl) (t : ITy) (vd va vb : VReg)
  /-- VSSUB (R307): Vector saturating subtract. -/
  | vssub (k : VCtl) (t : ITy) (vd va vb : VReg)
  /-- VAVG (R307): Vector rounding average. -/
  | vavg (k : VCtl) (t : ITy) (vd va vb : VReg)
  /-- VABS (R307): Vector integer absolute value. -/
  | vabs (k : VCtl) (vd va : VReg)
  /-- VNEG (R307): Vector integer negate. -/
  | vneg (k : VCtl) (t : ITy) (vd va : VReg)
  /-- VFADD (R310): Vector floating add. -/
  | vfadd (k : VCtl) (f : FTy) (vd va vb : VReg)
  /-- VFSUB (R310): Vector floating subtract. -/
  | vfsub (k : VCtl) (f : FTy) (vd va vb : VReg)
  /-- VFMUL (R310): Vector floating multiply. -/
  | vfmul (k : VCtl) (f : FTy) (vd va vb : VReg)
  /-- VFDIV (R310): Vector floating divide. -/
  | vfdiv (k : VCtl) (f : FTy) (vd va vb : VReg)
  /-- VFFMA (R311): Vector fused multiply-add. -/
  | vffma (k : VCtl) (f : FTy) (vd va vb : VReg)
  /-- VFFMS (R311): Vector fused multiply-subtract. -/
  | vffms (k : VCtl) (f : FTy) (vd va vb : VReg)
  /-- VFNMA (R311): Vector negated fused multiply-add. -/
  | vfnma (k : VCtl) (f : FTy) (vd va vb : VReg)
  /-- VFMIN (R310): Vector floating minimum. -/
  | vfmin (k : VCtl) (f : FTy) (vd va vb : VReg)
  /-- VFMAX (R310): Vector floating maximum. -/
  | vfmax (k : VCtl) (f : FTy) (vd va vb : VReg)
  /-- VFSQRT (R312): Vector square root. -/
  | vfsqrt (k : VCtl) (f : FTy) (vd va : VReg)
  /-- VFABS (R312): Vector sign clear. -/
  | vfabs (k : VCtl) (f : FTy) (vd va : VReg)
  /-- VFNEG (R312): Vector sign invert. -/
  | vfneg (k : VCtl) (f : FTy) (vd va : VReg)
  /-- VFCLASS (R312): Vector class mask. -/
  | vfclass (k : VCtl) (f : FTy) (vd va : VReg)
  /-- VFRCP (R312): Vector reciprocal. -/
  | vfrcp (k : VCtl) (f : FTy) (vd va : VReg)
  /-- VFRSQ (R312): Vector reciprocal square root. -/
  | vfrsq (k : VCtl) (f : FTy) (vd va : VReg)
  /-- VFEXP2 (R248): Vector base-2 exponential. -/
  | vfexp2 (k : VCtl) (f : FTy) (vd va : VReg)
  /-- VFLOG2 (R248): Vector base-2 logarithm. -/
  | vflog2 (k : VCtl) (f : FTy) (vd va : VReg)
  /-- VFSINPI (R249): Vector sin(pi x). -/
  | vfsinpi (k : VCtl) (f : FTy) (vd va : VReg)
  /-- VFCOSPI (R249): Vector cos(pi x). -/
  | vfcospi (k : VCtl) (f : FTy) (vd va : VReg)
  /-- VCMP (R313): Vector integer compare into a mask. -/
  | vcmp (k : VCtl) (c : ICond) (t : ITy) (vd va vb : VReg)
  /-- VFCMP (R313): Vector floating compare into a mask. -/
  | vfcmp (k : VCtl) (c : FCond) (f : FTy) (vd va vb : VReg)
  /-- MAND (R314): Mask AND. -/
  | mand (k : VCtl) (vd va vb : VReg)
  /-- MOR (R314): Mask OR. -/
  | mor (k : VCtl) (vd va vb : VReg)
  /-- MXOR (R314): Mask XOR. -/
  | mxor (k : VCtl) (vd va vb : VReg)
  /-- MANDN (R314): Mask AND NOT. -/
  | mandn (k : VCtl) (vd va vb : VReg)
  /-- MPOPC (R315): Rendezvous count of set mask bits into xd. -/
  | mpopc (k : VCtl) (xd : XReg) (va : VReg)
  /-- MFIRST (R315): Rendezvous lowest set mask index into xd. -/
  | mfirst (k : VCtl) (xd : XReg) (va : VReg)
  /-- VMERGE (R316): Vector select under a mask. -/
  | vmerge (k : VCtl) (t : ElTy) (vd va vb : VReg)
  /-- VCVT (R318): Vector conversion between types. -/
  | vcvt (k : VCtl) (dt st : ElTy) (vd va : VReg)
  /-- VCVTE (R321): Vector conversion by error-feedback rounding, as a rendezvous. -/
  | vcvte (k : VCtl) (dt st : ElTy) (vd va : VReg)
  /-- VWIDEN (R319): Exact widening conversion. -/
  | vwiden (k : VCtl) (dt st : ElTy) (vd va : VReg)
  /-- VNARROW (R320): Narrowing conversion to half the width. -/
  | vnarrow (k : VCtl) (dt st : ElTy) (vd va : VReg)
  /-- VPACK (R322): Packs F32 blocks into BFP mantissas and exponents. -/
  | vpack (k : VCtl) (m : BitVec 3) (l : BlkLen) (vd va : VReg)
  /-- VUNPACK (R323): Unpacks BFP blocks to F32. -/
  | vunpack (k : VCtl) (m : BitVec 3) (l : BlkLen) (vd va : VReg)
  /-- VSCALE (R324): Scales by a power of two. -/
  | vscale (k : VCtl) (f : FTy) (vd va vb : VReg)
  /-- VSCACC (R325): Adds a scaled integer partial to an accumulator. -/
  | vscacc (k : VCtl) (f : FTy) (vd va vb : VReg)
  /-- VLD (R326): Unit-stride vector load. -/
  | vld (k : VCtl) (off : BitVec 5) (xa : XReg) (vd : VReg)
  /-- VLDS (R326): Strided vector load. -/
  | vlds (k : VCtl) (xb xa : XReg) (vd : VReg)
  /-- VLDX (R326): Indexed vector load. -/
  | vldx (k : VCtl) (vb : VReg) (xa : XReg) (vd : VReg)
  /-- VLDO (R326): Ordered indexed vector load. -/
  | vldo (k : VCtl) (vb : VReg) (xa : XReg) (vd : VReg)
  /-- VPRF (R330): Unit-stride prefetch hint. -/
  | vprf (k : VCtl) (off : BitVec 5) (xa : XReg)
  /-- VPRF_STRIDED (R330): Strided prefetch hint. -/
  | vprfStrided (k : VCtl) (xb xa : XReg)
  /-- VLDA (R329): Vector acquire load. -/
  | vlda (k : VCtl) (sc : Scope) (off : BitVec 5) (xa : XReg) (vd : VReg)
  /-- VST (R326): Unit-stride vector store. -/
  | vst (k : VCtl) (off : BitVec 5) (xa : XReg) (vs : VReg)
  /-- VSTS (R326): Strided vector store. -/
  | vsts (k : VCtl) (xb xa : XReg) (vs : VReg)
  /-- VSTX (R326): Indexed vector store. -/
  | vstx (k : VCtl) (vb : VReg) (xa : XReg) (vs : VReg)
  /-- VSTXO (R118): Ordered indexed vector store. -/
  | vstxo (k : VCtl) (vb : VReg) (xa : XReg) (vs : VReg)
  /-- VSTL (R329): Vector release store. -/
  | vstl (k : VCtl) (sc : Scope) (off : BitVec 5) (xa : XReg) (vs : VReg)
  /-- VRLD (R332): Remote vector load from a forme. -/
  | vrld (k : VCtl) (vb : VReg) (xa : XReg) (vd : VReg)
  /-- VRST (R333): Remote vector store to a forme. -/
  | vrst (k : VCtl) (vb : VReg) (xa : XReg) (vd : VReg)
  /-- VRST_ORD (R333): Remote vector store with ORD. -/
  | vrstOrd (k : VCtl) (vb : VReg) (xa : XReg) (vd : VReg)
  /-- VFGATH (R331): Fabric-spanning gather through a distribution entry. -/
  | vfgath (k : VCtl) (vb : VReg) (xa : XReg) (vd : VReg)
  /-- VFSCAT (R333): Fabric-spanning scatter through a distribution entry. -/
  | vfscat (k : VCtl) (vb : VReg) (xa : XReg) (vd : VReg)
  /-- TLD (R335): Loads from the lane's tile-store slice. -/
  | tld (k : VCtl) (off : BitVec 5) (xa : XReg) (vd : VReg)
  /-- TST (R335): Stores to the lane's tile-store slice. -/
  | tst (k : VCtl) (off : BitVec 5) (xa : XReg) (vd : VReg)
  /-- TROT (R336): Copies slice elements to the next member of the team. -/
  | trot (k : VCtl) (xb xa : XReg)
  /-- TFILL (R335): Fills slice elements from xb. -/
  | tfill (k : VCtl) (off : BitVec 5) (xa xb : XReg)
  /-- VPERM (R340): Rendezvous permute by an index vector. -/
  | vperm (k : VCtl) (vd va vb : VReg)
  /-- VSLUP (R340): Rendezvous slide up. -/
  | vslup (k : VCtl) (vd va : VReg) (xb : XReg)
  /-- VSLDN (R340): Rendezvous slide down. -/
  | vsldn (k : VCtl) (vd va : VReg) (xb : XReg)
  /-- VBCAST (R340): Broadcasts a scalar to every element. -/
  | vbcast (k : VCtl) (vd : VReg) (xb : XReg)
  /-- VEXTR (R340): Rendezvous extracting one element into xd. -/
  | vextr (k : VCtl) (xd : XReg) (va : VReg) (xb : XReg)
  /-- VINS (R340): Inserts a scalar at one element. -/
  | vins (k : VCtl) (vd : VReg) (xa xb : XReg)
  /-- VIDX (R340): Writes the element index into each element. -/
  | vidx (k : VCtl) (vd : VReg)
  /-- VRED (R341): Rendezvous integer reduction into xd. -/
  | vred (k : VCtl) (op : RedOp) (t : ITy) (xd : XReg) (va : VReg)
  /-- VFRED (R342): Rendezvous floating reduction in a fixed tree. -/
  | vfred (k : VCtl) (op : FRedOp) (f : FTy) (xd : XReg) (va : VReg)
  /-- VSCAN (R343): Rendezvous inclusive scan. -/
  | vscan (k : VCtl) (op : ScanOp) (vd va : VReg)
  /-- VCOMP (R344): Compresses the active elements. -/
  | vcomp (k : VCtl) (vd va : VReg)
  /-- VEXPD (R344): Expands elements into the active positions. -/
  | vexpd (k : VCtl) (vd va : VReg)
  /-- VNZIDX (R344): Lists the indices of nonzero active elements. -/
  | vnzidx (k : VCtl) (t : ElTy) (vd va : VReg)
  /-- VTOPK (R345): Rendezvous top-k selection of values and indices. -/
  | vtopk (e : ECtl) (nonzero : Bool) (t : ElTy) (vd vq va : VReg) (xd : XReg) (count : BitVec 32)
  /-- VISECT (R346): Rendezvous intersection of two sorted chunks. -/
  | visect (e : ECtl) (t : ITy) (vd va vb : VReg) (xs xn : XReg)
  -- Synchronisation, atomic and engine instructions of a strand (14).
  /-- SEMTAS (R351): Waits for a sem bit and clears it. -/
  | semtas (sem : BitVec 6)
  /-- SEMTRY (R351): Takes a sem bit if set, returning 1 or 0. -/
  | semtry (xd : XReg) (sem : BitVec 6)
  /-- SEMSET (R351): Sets a sem bit as a release. -/
  | semset (sem : BitVec 6)
  /-- SEMCLR (R351): Clears a sem bit as a release. -/
  | semclr (sem : BitVec 6)
  /-- BOXR (R353): Reads a communication box. -/
  | boxr (xd : XReg) (box : BitVec 4)
  /-- BOXW (R353): Writes a communication box. -/
  | boxw (box : BitVec 4) (xa : XReg)
  /-- BAR (R354): Barrier of the member or the team at its scope. -/
  | bar (sc : Scope)
  /-- FENCE (R355): Orders the named kinds of access at its scope. -/
  | fence (sc : Scope) (kind : BitVec 5)
  /-- CAPSTART (R216): Opens a capture window. -/
  | capstart
  /-- CAPSTOP (R216): Closes a capture window and writes its record. -/
  | capstop (xa : XReg)
  /-- SAMPLE (R372): Writes a MARK record while sampling is enabled. -/
  | sample (xa : XReg)
  /-- XCOPY (R363): Queues a tensor copy on a copy channel. -/
  | xcopy (sc : Scope) (xd : XReg) (a : AOp) (xb : XReg) (chan : BitVec 3) (sem : BitVec 6) (semv vlcap : Bool)
  /-- XCHAIN (R364): Starts a chain of linked transfer records on a channel. -/
  | xchain (a : AOp) (chan : BitVec 3)
  /-- XSTAT (R364): Returns a channel's completed identifier or an engine's DONE. -/
  | xstat (sc : Scope) (xd : XReg) (src : XSrc)
  /-- XWAIT (R364): Blocks until a transfer, a leading count or an engine number is reached. -/
  | xwait (sc : Scope) (a : AOp) (mode : XWMode)
  /-- BIN (R205): Bins rows by length into class lists and launches variants. -/
  | bin (sc : Scope) (a : AOp)
  /-- WALK (R365): Starts the format walker on a program. -/
  | walk (sc : Scope) (a : AOp) (xb : XReg)
  /-- STCHK (R366): Compares an input with a stored tile and replays its output on a hit. -/
  | stchk (xd : XReg) (a : AOp) (xb xq : XReg)
  /-- STKEEP (R202): Installs an input and output tile in the stereotype cache. -/
  | stkeep (a : AOp) (xb xq : XReg)
  /-- STDROP (R366): Invalidates stereotype entries by key, block or region. -/
  | stdrop (xq : XReg) (mode : BitVec 2)
  /-- MSEND (R368): Sends a tagged message to an endpoint. -/
  | msend (a : AOp) (xb xq : XReg) (ep : Option (BitVec 14))
  /-- MPOST (R369): Posts a receive, or matches an unexpected message at once. -/
  | mpost (a : AOp)
  /-- MPROBE (R371): Probes the unexpected queue without consuming. -/
  | mprobe (xd : XReg) (a : AOp)
  /-- MTEST (R371): Reports the state of a receive. -/
  | mtest (xd : XReg) (a : AOp) (ep : Option (BitVec 14))
  /-- MCANCEL (R371): Withdraws an unmatched receive. -/
  | mcancel (xd : XReg) (a : AOp) (ep : Option (BitVec 14))
  /-- MWAIT (R356): Monitored wait on a memory value. -/
  | mwait (xd : XReg) (a : AOp) (xb : XReg) (size : BitVec 2) (trapTo : Bool) (timeout : BitVec 32)
  /-- VWAIT (R357): Vector wait on many memory elements. -/
  | vwait (e : ECtl) (t : ITy) (zeroCond trapTo : Bool) (xd : XReg) (vq : VReg) (xa : XReg) (vb : VReg) (timeout : BitVec 32)
  /-- WMPUB (R358): Publishes a watermark count as a release. -/
  | wmpub (sc : Scope) (a : AOp) (entry : BitVec 8)
  /-- WMCHK (R358): Reads a watermark count as an acquire. -/
  | wmchk (xd : XReg) (entry : BitVec 8)
  /-- TKPOST (R359): Posts a token to a token queue. -/
  | tkpost (a : AOp) (xb : XReg)
  /-- TKTAKE (R359): Takes a token, blocking while the queue is empty. -/
  | tktake (xd : XReg) (a : AOp)
  /-- LAUNCH (R360): Appends a launch token to a leaf region's queue. -/
  | launch (a : AOp) (region : BitVec 12)
  /-- AMO (R361): Far integer atomic at the home slice. -/
  | amo (op : AmoOp) (t : ITy) (sc : Scope) (q : AmoCtl) (xd : XReg) (a : AOp) (xb : XReg)
  /-- AMOCAS (R361): Far compare-and-swap. -/
  | amocas (t : ITy) (sc : Scope) (q : AmoCtl) (xd : XReg) (a : AOp) (xb xq : XReg)
  /-- FAMO (R361): Far floating atomic. -/
  | famo (op : FRedOp) (f64 : Bool) (sc : Scope) (q : AmoCtl) (xd : XReg) (a : AOp) (xb : XReg)
  /-- VAMO (R362): Vector of far atomics. -/
  | vamo (e : ECtl) (op : AmoOp) (t : ITy) (sc : Scope) (q : AmoCtl) (vd : VReg) (xa : XReg) (vb vq : VReg)
  /-- VAMOCAS (R362): Vector of far compare-and-swaps. -/
  | vamocas (e : ECtl) (t : ITy) (sc : Scope) (q : AmoCtl) (vd vb va vq : VReg)
  -- Walker words (16).
  /-- WLI (R403): Walker load immediate. -/
  | wli (wd : WReg) (imm : BitVec 14)
  /-- WMOV (R403): Walker move, keeping the poison flag. -/
  | wmov (wd wa : WReg)
  /-- WADD (R403): Walker add. -/
  | wadd (wd wa wb : WReg)
  /-- WADDI (R403): Walker add immediate. -/
  | waddi (wd wa : WReg) (imm : BitVec 14)
  /-- WSUB (R403): Walker subtract. -/
  | wsub (wd wa wb : WReg)
  /-- WSHL (R403): Walker shift left. -/
  | wshl (wd wa : WReg) (sh : BitVec 6)
  /-- WSHR (R403): Walker shift right. -/
  | wshr (wd wa : WReg) (sh : BitVec 6)
  /-- WAND (R403): Walker AND. -/
  | wand (wd wa wb : WReg)
  /-- WOR (R403): Walker OR. -/
  | wor (wd wa wb : WReg)
  /-- WCMP (R403): Walker compare. -/
  | wcmp (c : WCond) (wd wa wb : WReg)
  /-- WLD (R405): Walker metadata load. -/
  | wld (wd wa : WReg) (sz : BitVec 3) (imm : BitVec 14)
  /-- WLDV (R405): Walker value element load. -/
  | wldv (wd wa wb : WReg)
  /-- WBMP (R405): Walker bitmap word load. -/
  | wbmp (wd wa wb : WReg)
  /-- WFFS (R404): Walker find lowest set bit. -/
  | wffs (wd wa : WReg)
  /-- WPOPC (R404): Walker population count. -/
  | wpopc (wd wa : WReg)
  /-- WEMIT (R406): Writes one element or exponent of the open buffer. -/
  | wemit (isExp : Bool) (wa wb : WReg)
  /-- WROW (R407): Advances the walker to the next row. -/
  | wrow
  /-- WFLUSH (R408): Emits the open buffer, sets its FULL bit and opens the next buffer. -/
  | wflush
  /-- WBR (R409): Walker branch if nonzero. -/
  | wbr (wa : WReg) (imm : BitVec 14)
  /-- WJMP (R409): Walker jump. -/
  | wjmp (imm : BitVec 14)
  /-- WLOOP (R409): Walker decrement and branch. -/
  | wloop (wd : WReg) (imm : BitVec 14)
  /-- WHALT (R410): Ends the walk, discarding the open buffer, and completes the WALK. -/
  | whalt
  -- Control-core words (15); every one carries its whole control word (10 R265).
  /-- CC_ADD (R381): Control-core add. -/
  | ccAdd (w : CW)
  /-- CC_SUB (R381): Control-core subtract. -/
  | ccSub (w : CW)
  /-- CC_MUL (R381): Control-core multiply. -/
  | ccMul (w : CW)
  /-- CC_MULH (R381): Control-core signed multiply high. -/
  | ccMulh (w : CW)
  /-- CC_MULHN (R381): Control-core natural multiply high. -/
  | ccMulhn (w : CW)
  /-- CC_DIV (R381): Control-core signed divide. -/
  | ccDiv (w : CW)
  /-- CC_DIVN (R381): Control-core natural divide. -/
  | ccDivn (w : CW)
  /-- CC_REM (R381): Control-core signed remainder. -/
  | ccRem (w : CW)
  /-- CC_REMN (R381): Control-core natural remainder. -/
  | ccRemn (w : CW)
  /-- CC_AND (R381): Control-core AND. -/
  | ccAnd (w : CW)
  /-- CC_OR (R381): Control-core OR. -/
  | ccOr (w : CW)
  /-- CC_XOR (R381): Control-core XOR. -/
  | ccXor (w : CW)
  /-- CC_SHL (R381): Control-core shift left. -/
  | ccShl (w : CW)
  /-- CC_SHR (R381): Control-core logical shift right. -/
  | ccShr (w : CW)
  /-- CC_SHA (R381): Control-core arithmetic shift right. -/
  | ccSha (w : CW)
  /-- CC_SLT (R381): Control-core signed less-than. -/
  | ccSlt (w : CW)
  /-- CC_SLTN (R381): Control-core natural less-than. -/
  | ccSltn (w : CW)
  /-- CC_MIN (R381): Control-core signed minimum. -/
  | ccMin (w : CW)
  /-- CC_MAX (R381): Control-core signed maximum. -/
  | ccMax (w : CW)
  /-- CC_MINN (R381): Control-core natural minimum. -/
  | ccMinn (w : CW)
  /-- CC_MAXN (R381): Control-core natural maximum. -/
  | ccMaxn (w : CW)
  /-- CC_CLZ (R381): Control-core leading-zero count. -/
  | ccClz (w : CW)
  /-- CC_CTZ (R381): Control-core trailing-zero count. -/
  | ccCtz (w : CW)
  /-- CC_POPC (R381): Control-core population count. -/
  | ccPopc (w : CW)
  /-- CC_LEA (R381): Control-core address sum. -/
  | ccLea (w : CW)
  /-- CC_LIT (R381): Control-core sign-extended immediate. -/
  | ccLit (w : CW)
  /-- CC_LD (R381): Control-core load. -/
  | ccLd (w : CW)
  /-- CC_ST (R381): Control-core store. -/
  | ccSt (w : CW)
  /-- CC_LDA (R381): Control-core acquire load. -/
  | ccLda (w : CW)
  /-- CC_STL (R381): Control-core release store. -/
  | ccStl (w : CW)
  /-- CC_AMO (R350): Control-core far atomic. -/
  | ccAmo (w : CW)
  /-- CC_AMOCAS (R350): Control-core far compare-and-swap. -/
  | ccAmocas (w : CW)
  /-- CC_FAMO (R350): Control-core far floating atomic. -/
  | ccFamo (w : CW)
  /-- CC_FENCE (R350): Control-core fence. -/
  | ccFence (w : CW)
  /-- CC_FADD (R381): Control-core floating add. -/
  | ccFadd (w : CW)
  /-- CC_FSUB (R381): Control-core floating subtract. -/
  | ccFsub (w : CW)
  /-- CC_FMUL (R381): Control-core floating multiply. -/
  | ccFmul (w : CW)
  /-- CC_FDIV (R381): Control-core floating divide. -/
  | ccFdiv (w : CW)
  /-- CC_FSQRT (R381): Control-core square root. -/
  | ccFsqrt (w : CW)
  /-- CC_FMIN (R381): Control-core floating minimum. -/
  | ccFmin (w : CW)
  /-- CC_FMAX (R381): Control-core floating maximum. -/
  | ccFmax (w : CW)
  /-- CC_FFMA (R381): Control-core fused multiply-add. -/
  | ccFfma (w : CW)
  /-- CC_FCMP (R381): Control-core floating compare. -/
  | ccFcmp (w : CW)
  /-- CC_FCVT (R381): Control-core conversion. -/
  | ccFcvt (w : CW)
  /-- CC_FCLASS (R381): Control-core class mask. -/
  | ccFclass (w : CW)
  /-- CC_BEQ (R381): Control-core branch if equal. -/
  | ccBeq (w : CW)
  /-- CC_BNE (R381): Control-core branch if not equal. -/
  | ccBne (w : CW)
  /-- CC_BLT (R381): Control-core branch if signed less. -/
  | ccBlt (w : CW)
  /-- CC_BGE (R381): Control-core branch if signed greater or equal. -/
  | ccBge (w : CW)
  /-- CC_BLTN (R381): Control-core branch if natural less. -/
  | ccBltn (w : CW)
  /-- CC_BGEN (R381): Control-core branch if natural greater or equal. -/
  | ccBgen (w : CW)
  /-- CC_JAL (R381): Control-core jump and link. -/
  | ccJal (w : CW)
  /-- CC_JALR (R381): Control-core register jump and link. -/
  | ccJalr (w : CW)
  /-- CC_CSRR (R381): Control-core system-register read. -/
  | ccCsrr (w : CW)
  /-- CC_CSRW (R381): Control-core system-register write. -/
  | ccCsrw (w : CW)
  /-- CC_CSRS (R381): Control-core system-register bit set. -/
  | ccCsrs (w : CW)
  /-- CC_CSRC (R381): Control-core system-register bit clear. -/
  | ccCsrc (w : CW)
  /-- CC_TRAP (R381): Control-core TRAP instruction. -/
  | ccTrap (w : CW)
  /-- CC_ERET (R381): Control-core handler return. -/
  | ccEret (w : CW)
  /-- CC_DONE (R381): Ends the control thread. -/
  | ccDone (w : CW)
  /-- CC_NOP (R381): Control-core no operation. -/
  | ccNop (w : CW)
  /-- CC_SAFEPT (R380): Control-core safe point. -/
  | ccSafept (w : CW)
  /-- CC_SEMTAS (R350): Control-core semaphore take. -/
  | ccSemtas (w : CW)
  /-- CC_SEMTRY (R350): Control-core semaphore try. -/
  | ccSemtry (w : CW)
  /-- CC_SEMSET (R350): Control-core semaphore set. -/
  | ccSemset (w : CW)
  /-- CC_SEMCLR (R350): Control-core semaphore clear. -/
  | ccSemclr (w : CW)
  /-- CC_BOXR (R350): Control-core box read. -/
  | ccBoxr (w : CW)
  /-- CC_BOXW (R350): Control-core box write. -/
  | ccBoxw (w : CW)
  /-- CC_BAR (R350): Control-core barrier. -/
  | ccBar (w : CW)
  /-- CC_MWAIT (R350): Control-core monitored wait. -/
  | ccMwait (w : CW)
  /-- CC_WMPUB (R350): Control-core watermark publish. -/
  | ccWmpub (w : CW)
  /-- CC_TKPOST (R350): Control-core token post. -/
  | ccTkpost (w : CW)
  /-- CC_TKTAKE (R350): Control-core token take. -/
  | ccTktake (w : CW)
  /-- CC_CAPSTART (R350): Control-core capture start. -/
  | ccCapstart (w : CW)
  /-- CC_CAPSTOP (R350): Control-core capture stop. -/
  | ccCapstop (w : CW)
  /-- CC_SAMPLE (R350): Control-core sample mark. -/
  | ccSample (w : CW)
  /-- CC_XCOPY (R350): Control-core copy command. -/
  | ccXcopy (w : CW)
  /-- CC_XSTAT (R350): Control-core copy or engine status. -/
  | ccXstat (w : CW)
  /-- CC_XWAIT (R350): Control-core copy or engine wait. -/
  | ccXwait (w : CW)
  /-- CC_WALK (R350): Control-core walker start. -/
  | ccWalk (w : CW)
  /-- CC_BIN (R350): Control-core binning command. -/
  | ccBin (w : CW)
  /-- CC_LAUNCH (R350): Control-core launch. -/
  | ccLaunch (w : CW)
  /-- CC_MSEND (R350): Control-core message send. -/
  | ccMsend (w : CW)
  /-- CC_MPOST (R350): Control-core receive post. -/
  | ccMpost (w : CW)
  /-- CC_MPROBE (R350): Control-core message probe. -/
  | ccMprobe (w : CW)
  /-- CC_MTEST (R350): Control-core receive test. -/
  | ccMtest (w : CW)
  /-- CC_MCANCEL (R350): Control-core receive cancel. -/
  | ccMcancel (w : CW)
  /-- CC_STCHK (R350): Control-core stereotype check. -/
  | ccStchk (w : CW)
  /-- CC_STKEEP (R350): Control-core stereotype keep. -/
  | ccStkeep (w : CW)
  /-- CC_STDROP (R350): Control-core stereotype drop. -/
  | ccStdrop (w : CW)
  /-- MMA (R385): Platen 128 x 128 multiply-accumulate into an accumulator tile. -/
  | mma (w : CW)
  /-- MMAZ (R385): Platen multiply-accumulate that skips zero A elements. -/
  | mmaz (w : CW)
  /-- MMAG (R387): Grouped platen multiply with per-group B operands. -/
  | mmag (w : CW)
  /-- SCACC (R388): Applies block scales to an I32 partial tile into an F32 accumulator. -/
  | scacc (w : CW)
  /-- ACCLD (R389): Loads an accumulator tile from memory. -/
  | accld (w : CW)
  /-- ACCST (R389): Stores an accumulator tile to memory. -/
  | accst (w : CW)
  /-- ACCCVT (R390): Converts and stores an accumulator tile, optionally by error feedback. -/
  | acccvt (w : CW)
  /-- ACCZERO (R391): Zeroes an accumulator tile and clears its poison. -/
  | acczero (w : CW)
  /-- HGEMV (R396): Near-memory GEMV into an accumulator tile. -/
  | hgemv (w : CW)
  /-- HPREP (R395): Writes the bank-resident image for near-memory GEMV. -/
  | hprep (w : CW)
  /-- SEQW (R397): Writes a completion mark after earlier platen and engine work completes. -/
  | seqw (w : CW)
  /-- SEQWAIT (R398): Waits on a memory word or an engine's DONE. -/
  | seqwait (w : CW)
  -- Events: what happens to the device other than by an instruction it fetches (95).
  /-- MODULE_RESET (R31): Module reset brings the device up through firmware verification, die and SRAM test, HBM training, host link and port start-up, and sets every state item to its reset value. -/
  | moduleReset (bank0Ok bank1Ok : Bool) (deadDies : BitVec 4) (badChannels : List (Nat × Nat))
  /-- PORT_TRAINING (R428): A fabric port trains and reports its neighbour, then joins the fabric or goes to MISWIRED, DOWN or withdrawn. -/
  | portTraining (port nbr width : Nat) (trained : Bool)
  /-- PORT_DOWN (R428): A port goes DOWN, and its queued packets are NAKed for re-injection. -/
  | portDown (port : Nat)
  /-- PORT_WIDTH_LOSS (R428): A port loses lane width; it stays UP with its path weights scaled, or goes to MGMT. -/
  | portWidthLoss (port width : Nat) (reservesHeld : Bool)
  /-- CONVOY_FETCH (R146): Fetch appends a whole convoy to the strand queue when the queue has room; a fetch fault marks the convoy instead of trapping. -/
  | convoyFetch (thr : Nat)
  /-- BROADCAST (R148): The arbiter grants a ready vector convoy, which is broadcast into every bound galley with its scalar operands captured. -/
  | broadcast (die cluster : Nat)
  /-- LANE_COMMIT (R46): A lane commits a convoy once every element is written and every store is accepted, ORs in its flags and advances its commit pointer. -/
  | laneCommit (thr lane : Nat)
  /-- RENDEZVOUS_DELIVERY (R51): A FULL slot delivers every destination, clears the pending bits and holds, and goes through DELIVERED to EMPTY. -/
  | rendezvousDelivery (thr slot : Nat)
  /-- TRAP_RECORD (R49): After the lanes drain, the trap record and trap block are written for the oldest faulting convoy. -/
  | trapRecord (thr : Nat)
  /-- ENGINE_FAULT (R77): An engine meets a fault condition and stops at an element boundary, keeping its position. -/
  | engineFault (cmd : Nat) (rep : FaultReply)
  /-- ENGINE_FAULT_REPORT (R77): At the issuing thread's next convoy boundary, the thread drains and the engine fault record is written. -/
  | engineFaultReport (thr : Nat)
  /-- MEMBER_RESUME (R50): A supervisor core resumes a stopped member; the replay window is re-broadcast and issue continues from the refetch PC. -/
  | memberResume (mem : Nat)
  /-- SCHEDULING_PASS (R166): The region scheduler runs a pass every 256 cycles and at its other trigger events, placing, reserving or choosing victims for head launches. -/
  | schedulingPass (die : Nat)
  /-- LAUNCH_QUEUE_HEAD (R152): A token reaches the head of a launch queue; it is checked, refused or made to wait for its dependence. -/
  | launchQueueHead (rid : Nat)
  /-- SAFE_POINT_SAVE (R56): Once every thread of the team is at a safe point, ended or blocked, the team's state is saved. -/
  | safePointSave (team : Nat)
  /-- FORCED_SAVE (R57): The region's pre-emption deadline expires and the scheduler forces a save of every thread. -/
  | forcedSave (team : Nat)
  /-- SAVE_COMPLETE (R172): Every member has written its areas, and member 0's scheduler writes the save-complete release. -/
  | saveComplete (team : Nat)
  /-- SPACE_CLEARING_END (R172): Clearing of a departed member's tile-store and accumulator space ends, and a member waiting for it may start. -/
  | spaceClearingEnd (mem : Nat)
  /-- TEAM_RESUME (R59): A pre-empted team resumes, possibly on other clusters or another die, and its contexts become active after the switch. -/
  | teamResume (team : Nat)
  /-- MEMBER_END (R295): A member ends when every thread has executed DONE and every engine command it issued has completed. -/
  | memberEnd (mem : Nat)
  /-- TEAM_END (R153): A team ends when every member has ended, and the scheduler writes its completion record and signals the host. -/
  | teamEnd (team : Nat)
  /-- FAULT_DOMAIN_END (R179): System software does not resume a trap, and every team of the fault domain is ended with code 0x10 or 0x11. -/
  | faultDomainEnd (team : Nat)
  /-- LAUNCH_DOORBELL (R149): A host write of a new TAIL to a region's doorbell makes the scheduler read tokens, or sets OVF when the TAIL is too far ahead. -/
  | launchDoorbell (fn : HostFn) (rid tail : Nat)
  /-- HOST_RING_READ (R150): The scheduler reads host-ring tokens into a launch queue as entries free, and updates HEAD. -/
  | hostRingRead (rid : Nat)
  /-- TABLE_WRITE (R173): A table command with OP = 0b00 writes an entry image into the selected table, on every die for module-wide tables. -/
  | tableWrite (die : Nat)
  /-- TABLE_INVALIDATE (R173): A table command with OP = 0b01 invalidates a table entry. -/
  | tableInvalidate (die : Nat)
  /-- TABLE_READ (R173): A table command with OP = 0b10 reads an entry back into the image. -/
  | tableRead (die : Nat)
  /-- TLB_INVALIDATE_ALL (R107): An invalidation command with SCOPE = 0b00 removes the translations of all regions on every die. -/
  | tlbInvalidateAll (die : Nat)
  /-- TLB_INVALIDATE_REGION (R107): An invalidation command with SCOPE = 0b01 removes the translations of one region. -/
  | tlbInvalidateRegion (die : Nat)
  /-- TLB_INVALIDATE_RANGE (R107): An invalidation command with SCOPE = 0b10 removes one region's translations over a page range. -/
  | tlbInvalidateRange (die : Nat)
  /-- RT_WRITE_STANDBY (R425): RTCTL OP = 0b00 writes a STANDBY routing entry from RTADDR, or sets ERR when the entry breaks R421. -/
  | rtWriteStandby
  /-- RT_READ_ACTIVE (R425): RTCTL OP = 0b01 reads the ACTIVE routing entry into the image. -/
  | rtReadActive
  /-- RT_BEGIN_SWAP (R426): RTCTL OP = 0b10 begins a routing-table swap: new requests use STANDBY, and SWAPSTART is sent. -/
  | rtBeginSwap
  /-- SWAPSTART (R426): A router receives a SWAPSTART management message and relays it if it is new. -/
  | swapstart (origin : Nat)
  /-- DRAINED (R426): A router receives a DRAINED message, relays it, and once all modules are DRAINED makes STANDBY ACTIVE. -/
  | drained (origin : Nat)
  /-- OLD_GENERATION_DRAINED (R426): A router whose count of old-generation packets reaches 0 after all SWAPSTARTs sends DRAINED. -/
  | oldGenerationDrained
  /-- PORTSTAT_WDRAW_WRITE (R425): Writing WDRAW = 1 withdraws a port, which passes to OFF at the next swap. -/
  | portstatWdrawWrite (port : Nat) (val : Bool)
  /-- DIGEST_CLEAR (R225): Writing PDIGCTL.CLR zeroes a port's ORD, SUM and CNT in one cycle. -/
  | digestClear (port : Nat)
  /-- DEBUG_ENTRY_WRITE (R431): DBGCTL OP = 0 writes a debug entry of the selected context from DBGW0 and DBGW1. -/
  | debugEntryWrite (die : Nat)
  /-- DEBUG_ENTRY_READ (R431): DBGCTL OP = 1 reads a debug entry into DBGW0 and DBGW1. -/
  | debugEntryRead (die : Nat)
  /-- DBGNONCE_READ (R431): A read of DBGNONCE at 0x820 draws a fresh 32-byte nonce. -/
  | dbgnonceRead
  /-- SVCREQ (R445): The mailbox command SVCREQ queues a service action and returns its request number. -/
  | svcreq (fn : HostFn) (action target statusAddr : Word)
  /-- SVCSTAT (R432): The mailbox command SVCSTAT returns whether a service request is pending, in progress or ended. -/
  | svcstat (fn : HostFn) (request : Word)
  /-- KEYLOAD (R435): The mailbox command KEYLOAD decrypts and checks a key blob, and loads a confidential region's key slot. -/
  | keyload (fn : HostFn) (rid blob ownerKey : Word)
  /-- CPASSIGN (R436): The mailbox command CPASSIGN zeroes pages and marks them to a confidential region. -/
  | cpassign (fn : HostFn) (rid page pages : Word)
  /-- CPRELEASE (R436): The mailbox command CPRELEASE invalidates the range's translations, zeroes the pages and clears their marks. -/
  | cprelease (fn : HostFn) (rid page pages : Word)
  /-- FWLOAD (R433): The mailbox command FWLOAD writes and verifies an image in the inactive bank, activates it and restarts the management controller. -/
  | fwload (fn : HostFn) (image length flags : Word)
  /-- LANE_SPARING (R445): Service action 1 pre-empts the cluster's teams and brings a spare lane into the lane's position. -/
  | laneSparing (request durationMs : Nat)
  /-- CLUSTER_RETIREMENT (R446): Service action 2 migrates the cluster's teams and maps the cluster to a spare, or lowers the enabled count. -/
  | clusterRetirement (request durationMs : Nat)
  /-- SLICE_RETIREMENT (R447): Service action 3 recalls, writes back and moves a home slice's contents to its partner slice. -/
  | sliceRetirement (request durationMs : Nat)
  /-- PSEUDO_CHANNEL_RETIREMENT (R448): Service action 4 checks that no leaf maps the pseudo-channel, then makes its addresses absent. -/
  | pseudoChannelRetirement (request durationMs : Nat)
  /-- PORT_WITHDRAWAL (R445): Service action 5 sets WDRAW on a port so that it passes to OFF at the next swap. -/
  | portWithdrawal (request durationMs : Nat)
  /-- FIRMWARE_UPDATE_ACTION (R445): Service action 6 performs a firmware update under R433. -/
  | firmwareUpdateAction (request durationMs : Nat)
  /-- CAPPING_WINDOW (R441): At the end of each 1 ms window the capping loop raises or lowers one die's clock step. -/
  | cappingWindow (power : Nat) (diePower : List Nat)
  /-- THERMAL_LIMIT (R442): A sensor at the first threshold raises its die's step by one per window and sets THERM. -/
  | thermalLimit (die : Nat) (reached : Bool)
  /-- THERMAL_STOP (R442): A sensor at the second threshold sends every die to step 16 and stops new placement. -/
  | thermalStop
  /-- THERMAL_POWER_OFF (R442): A sensor held at the third threshold for 10 ms powers the module off. -/
  | thermalPowerOff (sensor : Nat)
  /-- DROOP_STRETCH (R443): A supply droop makes the cluster stretch its clock cycles until the supply recovers. -/
  | droopStretch (die cluster cycles : Nat)
  /-- PATROL_SCRUB (R112): Patrol scrub reads a sector when its interval comes, writes back corrected data, and poisons an uncorrectable one. -/
  | patrolScrub (sector : Nat) (outcome : ScrubOutcome)
  /-- MONITOR_WAKE (R196): A monitor entry ends on a write, an eviction, a resume or a timeout, and the reason reaches its waiter, which resumes or retries. -/
  | monitorWake (die slice index : Nat) (reason : WakeReason)
  /-- MWAIT_TIMEOUT (R356): An MWAIT's timeout expires and the waiter sends a cancellation to the home slice. -/
  | mwaitTimeout (thr : Nat)
  /-- VWAIT_POLL (R357): A lane re-reads its unsatisfied VWAIT elements at least once in every 64 cycles. -/
  | vwaitPoll (thr : Nat)
  /-- VWAIT_TIMEOUT (R357): A VWAIT's timeout expires; unsatisfied elements are read once more and the results are written. -/
  | vwaitTimeout (thr : Nat)
  /-- REMOTE_REQUEST (R183): A remote load, store, atomic or payload read reaches its target, which checks and performs the element, in ORD order where needed. -/
  | remoteRequest (req : RemoteReq)
  /-- REMOTE_RESPONSE (R332): A remote reply or acknowledgement returns: the element becomes valid, the store is acknowledged, or a fault traps the lane. -/
  | remoteResponse (resp : RemoteResp)
  /-- REMOTE_TIMEOUT (R332): A remote element with no reply within 2^24 cycles traps FABRIC. -/
  | remoteTimeout (tagno : Nat)
  /-- PACKET_FORWARD (R422): A router forwards a packet by the routing table of its generation, or answers NAK. -/
  | packetForward (pkt : Packet)
  /-- NAK (R427): A source receives a NAK and re-injects the request under its ACTIVE generation. -/
  | nak (tagno : Nat)
  /-- MESSAGE_ARRIVAL (R162): A message reaches the receive engine; it is matched, held, queued as unexpected, or answered NOT-READY or DEFER. -/
  | messageArrival (msg : Msg)
  /-- MESSAGE_RETRY (R164): After a NOT-READY, the sending die retries the message when its backoff delay expires. -/
  | messageRetry (cmd : Nat)
  /-- MESSAGE_ACCEPT_ACK (R163): The receiver's acceptance acknowledgement completes an eager MSEND. -/
  | messageAcceptAck (cmd : Nat)
  /-- MESSAGE_PAYLOAD_DONE (R163): The receive engine finishes writing a payload and writes the completion object. -/
  | messagePayloadDone (cmd : Nat) (data : List Byte) (trunc poisoned : Bool)
  /-- ENGINE_COMPLETION (R127): An engine command completes and publishes its sequence number or identifier, sets its sem bit and frees its interlock entries. -/
  | engineCompletion (cmd : Nat)
  /-- CHAIN_RECORD_READ (R158): The copy engine reads the record that the chain register names and consumes it, or parks the channel. -/
  | chainRecordRead (mem chan : Nat)
  /-- WALKER_BUFFER_OPEN (R411): The walker takes a buffer's EMPTY bit once it is 1, zeroes the buffer and resets ROW. -/
  | walkerBufferOpen (die cluster : Nat)
  /-- PLATEN_OP_START (R383): The platen starts the next operation from a platen queue, alternating between queues. -/
  | platenOpStart (thr : Nat)
  /-- PLATEN_OP_COMPLETE (R382): A platen operation completes, its results become visible and its flags are ORed into FFLAGS. -/
  | platenOpComplete (thr : Nat)
  /-- RESULT_DELIVERY (R375): A variable-latency control-word result arrives and writes its window slot and register, and clears its tag. -/
  | resultDelivery (thr seq : Nat)
  /-- STKEEP_SPACE_FREE (R202): A STKEEP waiting for space held by running replays installs its entry once those replays end. -/
  | stkeepSpaceFree (die : Nat)
  /-- SAMPLE_RECORD (R219): A thread's sample countdown reaches 0, and a SAMPLE record is written for that convoy or word. -/
  | sampleRecord (thr : Nat)
  /-- SAMPTAIL_WRITE (R218): A SAMPTAIL write moves the consumed offset, may lower the period, and traps BOUNDS when out of range. -/
  | samptailWrite (thr : Nat) (val : Word)
  /-- HOST_MEMORY_READ (R429): A host read through PF BAR2 reaches HBM through the home slices, or returns all ones for a confidential page. -/
  | hostMemoryRead (addr len : Nat)
  /-- HOST_MEMORY_WRITE (R429): A host write through PF BAR2 reaches HBM, or is discarded for a confidential page. -/
  | hostMemoryWrite (addr : Nat) (data : List Byte)
  /-- REGISTER_WRITE (R431): A write to a device register that has no behaviour of its own sets its writable fields. -/
  | registerWrite (who : RegAgent) (offset : Nat) (val : Word)
  /-- GET_VERSION (R434): SPDM GET_VERSION request to the PF responder. -/
  | getVersion
  /-- GET_CAPABILITIES (R434): SPDM GET_CAPABILITIES request. -/
  | getCapabilities
  /-- NEGOTIATE_ALGORITHMS (R434): SPDM NEGOTIATE_ALGORITHMS request. -/
  | negotiateAlgorithms (offer : List Byte)
  /-- GET_DIGESTS (R434): SPDM GET_DIGESTS request. -/
  | getDigests
  /-- GET_CERTIFICATE (R434): SPDM GET_CERTIFICATE request. -/
  | getCertificate (slot offset length : Nat)
  /-- CHALLENGE (R434): SPDM CHALLENGE request, signed by the device identity key. -/
  | challenge (nonce : List Byte)
  /-- GET_MEASUREMENTS (R434): SPDM GET_MEASUREMENTS request returning the measurement indices. -/
  | getMeasurements (index : Nat) (nonce : List Byte)
  /-- IDDIFY_ATTACH (R227): iddify attaches to a team and sets STATUS.DBG in every thread. -/
  | iddifyAttach (team : Nat)
  /-- CONFIDENTIAL_ATTACH (R438): An owner-signed nonce is verified, and iddify attaches to a confidential team. -/
  | confidentialAttach (team : Nat) (signature : List Byte)
  /-- DEBUG_HALT (R227): The debugger halts every thread of the team without saving. -/
  | debugHalt (team : Nat)
  /-- DEBUG_RESUME (R227): The debugger resumes a halted team. -/
  | debugResume (team : Nat)
  /-- CONVOY_STEP (R227): The debugger issues one convoy or control word with SLIP 0, then traps STEP. -/
  | convoyStep (thr : Nat)
  /-- STEP_TO_ALIGN (R227): Lanes behind TRAPSEQ run their replay window up to TRAPSEQ, a fault or a blocked rendezvous. -/
  | stepToAlign (thr : Nat)
  /-- DEFER_ANSWER (R417): The sending die receives a DEFER answer, lends a message forme and sends a header-only message with PATH = 1 and the same PSEQ. -/
  | deferAnswer (cmd : Nat)
  /-- ORD_STORE_RETRY (R424): An ORD store answered NOT-READY because it fell outside the target's reorder window is sent again when its backoff delay expires. -/
  | ordStoreRetry (tagno : Nat)
  /-- THERMAL_STOP_END (R442): Once every sensor stands 5 degrees C below its threshold, the thermal stop ends and the schedulers may place new teams again. -/
  | thermalStopEnd
  /-- UNKNOWN_COMMAND_CODE (R432): A mailbox GO with a CODE that the table does not assign completes with RESULT 0x01 and changes no other state. -/
  | unknownCommandCode (fn : HostFn) (code : Nat)
  deriving DecidableEq, Repr

end Sys2Proof
end

