-- ==== Sys2Proof/Decode.lean ====
section
/-! DEFINITION. The three decoders and the encoder (10 R250-R267): from instruction words to `Instr`, rejecting by name,
and back. Words are natural numbers below 2^32 (control words below 2^64). -/

namespace Sys2Proof

/-- Why a strand unit, a control word or a walker word has no instruction (10 R256 checks 2-7, R265, R267). -/
inductive DecodeErr where
  /-- check 2: the first word is all zero -/
  | zeroWord
  /-- check 3: a first word with LEN = 0b00 and P = 1 -/
  | orphanFirst
  /-- check 4: P = 1 with LEN not 0b00, or LEN and MAJOR disagree -/
  | badLength
  /-- check 5: a prefix unit whose second word has P = 0 -/
  | orphanPrefix
  /-- check 6: a prefix unit with a bad second word -/
  | badPrefixBase
  /-- check 7, or a control or walker word no row assigns -/
  | illegal
  /-- fewer words than the unit has -/
  | truncated
  deriving DecidableEq, Repr

/-- Bits lo + n - 1 : lo of w. -/
def fld (w lo n : Nat) : Nat := w / 2 ^ lo % 2 ^ n

/-- Bit k of w. -/
def bitAt (w k : Nat) : Bool := w / 2 ^ k % 2 == 1

/-- The register or immediate of n bits that starts at bit lo. -/
def bvAt (n w lo : Nat) : BitVec n := BitVec.ofNat n (w / 2 ^ lo)

/-- A Bool as a bit. -/
def bitOf (b : Bool) : Nat := if b then 1 else 0

/-! ### Code fields (10 R254) -/

/-- TI. -/
def decTI : Nat → TI
  | 0 => .i8 | 1 => .n8 | 2 => .i16 | 3 => .n16 | 4 => .i32 | 5 => .n32 | 6 => .i64 | _ => .n64
/-- TI. -/
def encTI : TI → Nat
  | .i8 => 0 | .n8 => 1 | .i16 => 2 | .n16 => 3 | .i32 => 4 | .n32 => 5 | .i64 => 6 | .n64 => 7
/-- T in an integer major. -/
def decITy : Nat → Option ITy
  | 0 => some .i | 1 => some .n | _ => none
/-- T in an integer major. -/
def encITy : ITy → Nat
  | .i => 0 | .n => 1
/-- T in a floating-point major. -/
def decFTy : Nat → Option FTy
  | 2 => some .f16 | 3 => some .bf16 | 4 => some .f32 | 5 => some .f64 | _ => none
/-- T in a floating-point major. -/
def encFTy : FTy → Nat
  | .f16 => 2 | .bf16 => 3 | .f32 => 4 | .f64 => 5
/-- FT or scalar ST of FCVT. -/
def decSType : Nat → Option SType
  | 0 => some .i64 | 1 => some .n64 | 2 => some (.f .f16) | 3 => some (.f .bf16) | 4 => some (.f .f32)
  | 5 => some (.f .f64) | _ => none
/-- FT or scalar ST of FCVT. -/
def encSType : SType → Nat
  | .i64 => 0 | .n64 => 1 | .f t => encFTy t
/-- T or ST of a conversion, VMERGE, VNZIDX and VTOPK. -/
def decElTy : Nat → Option ElTy
  | 0 => some .i | 1 => some .n | 2 => some (.f .f16) | 3 => some (.f .bf16) | 4 => some (.f .f32)
  | 5 => some (.f .f64) | _ => none
/-- T or ST of a conversion, VMERGE, VNZIDX and VTOPK. -/
def encElTy : ElTy → Nat
  | .i => 0 | .n => 1 | .f t => encFTy t
/-- SCOPE. -/
def decScope : Nat → Option Scope
  | 0 => some .str | 1 => some .clu | 2 => some .die | 3 => some .dev | 4 => some .fab | _ => none
/-- SCOPE. -/
def encScope : Scope → Nat
  | .str => 0 | .clu => 1 | .die => 2 | .dev => 3 | .fab => 4
/-- SEW of VCFG, coded as VDEF (02 R39). -/
def decSew : Nat → Option Sew
  | 0 => some .w4 | 1 => some .w6 | 2 => some .w8 | 3 => some .w16 | 4 => some .w32 | 5 => some .w64 | _ => none
/-- SEW of VCFG. -/
def encSew : Sew → Nat
  | .w4 => 0 | .w6 => 1 | .w8 => 2 | .w16 => 3 | .w32 => 4 | .w64 => 5
/-- RMO (10 R255). -/
def decRmo : Nat → Option Rmo
  | 0 => some .none | 1 => some .rne | 2 => some .rtz | 3 => some .rdn | 4 => some .rup | 5 => some .rna
  | 6 => some .efr | _ => none
/-- RMO. -/
def encRmo : Rmo → Nat
  | .none => 0 | .rne => 1 | .rtz => 2 | .rdn => 3 | .rup => 4 | .rna => 5 | .efr => 6
/-- COND of VCMP (10 R261). -/
def decICond : Nat → ICond
  | 0 => .eq | 1 => .ne | 2 => .lt | _ => .ge
/-- COND of VCMP. -/
def encICond : ICond → Nat
  | .eq => 0 | .ne => 1 | .lt => 2 | .ge => 3
/-- COND of FCMP and VFCMP (10 R259, R261). -/
def decFCond : Nat → Option FCond
  | 0 => some .eq | 1 => some .lt | 2 => some .le | 3 => some .un | _ => none
/-- COND of FCMP and VFCMP. -/
def encFCond : FCond → Nat
  | .eq => 0 | .lt => 1 | .le => 2 | .un => 3
/-- FN of VRED (10 R262). -/
def decRedOp : Nat → Option RedOp
  | 0 => some .add | 1 => some .min | 2 => some .max | 3 => some .and | 4 => some .or | 5 => some .xor | _ => none
/-- FN of VRED. -/
def encRedOp : RedOp → Nat
  | .add => 0 | .min => 1 | .max => 2 | .and => 3 | .or => 4 | .xor => 5
/-- FN of VFRED and op of FAMO. -/
def decFRedOp : Nat → Option FRedOp
  | 0 => some .sum | 1 => some .min | 2 => some .max | _ => none
/-- FN of VFRED and op of FAMO. -/
def encFRedOp : FRedOp → Nat
  | .sum => 0 | .min => 1 | .max => 2
/-- op of AMO (14 R361). -/
def decAmoOp : Nat → Option AmoOp
  | 0 => some .add | 1 => some .and | 2 => some .or | 3 => some .xor | 4 => some .min | 5 => some .max
  | 6 => some .swap | _ => none
/-- op of AMO. -/
def encAmoOp : AmoOp → Nat
  | .add => 0 | .and => 1 | .or => 2 | .xor => 3 | .min => 4 | .max => 5 | .swap => 6
/-- L of VPACK (10 R261). -/
def decBlkLen : Nat → Option BlkLen
  | 0 => some .l32 | 1 => some .l64 | 2 => some .l128 | _ => none
/-- L of VPACK. -/
def encBlkLen : BlkLen → Nat
  | .l32 => 0 | .l64 => 1 | .l128 => 2
/-- Condition of WCMP (16 R403). -/
def decWCond : Nat → WCond
  | 0 => .eq | 1 => .lt | 2 => .ltn | _ => .ne
/-- Condition of WCMP. -/
def encWCond : WCond → Nat
  | .eq => 0 | .lt => 1 | .ltn => 2 | .ne => 3

/-! ### Scalar base words (10 R253, R259, R260, R263) -/


/-- INT (major 0x01). -/
def decInt (w : Nat) : Option Instr :=
  match fld w 26 6 with
  | 0 => some (.add (bvAt 5 w 11) (bvAt 5 w 16) (bvAt 5 w 21))
  | 1 => some (.sub (bvAt 5 w 11) (bvAt 5 w 16) (bvAt 5 w 21))
  | 2 => some (.mul (bvAt 5 w 11) (bvAt 5 w 16) (bvAt 5 w 21))
  | 3 => some (.mulh (bvAt 5 w 11) (bvAt 5 w 16) (bvAt 5 w 21))
  | 4 => some (.mulhn (bvAt 5 w 11) (bvAt 5 w 16) (bvAt 5 w 21))
  | 5 => some (.div (bvAt 5 w 11) (bvAt 5 w 16) (bvAt 5 w 21))
  | 6 => some (.divn (bvAt 5 w 11) (bvAt 5 w 16) (bvAt 5 w 21))
  | 7 => some (.rem (bvAt 5 w 11) (bvAt 5 w 16) (bvAt 5 w 21))
  | 8 => some (.remn (bvAt 5 w 11) (bvAt 5 w 16) (bvAt 5 w 21))
  | 9 => some (.and (bvAt 5 w 11) (bvAt 5 w 16) (bvAt 5 w 21))
  | 10 => some (.or (bvAt 5 w 11) (bvAt 5 w 16) (bvAt 5 w 21))
  | 11 => some (.xor (bvAt 5 w 11) (bvAt 5 w 16) (bvAt 5 w 21))
  | 12 => some (.shl (bvAt 5 w 11) (bvAt 5 w 16) (bvAt 5 w 21))
  | 13 => some (.shr (bvAt 5 w 11) (bvAt 5 w 16) (bvAt 5 w 21))
  | 14 => some (.sha (bvAt 5 w 11) (bvAt 5 w 16) (bvAt 5 w 21))
  | 15 => some (.slt (bvAt 5 w 11) (bvAt 5 w 16) (bvAt 5 w 21))
  | 16 => some (.sltn (bvAt 5 w 11) (bvAt 5 w 16) (bvAt 5 w 21))
  | 17 => some (.min (bvAt 5 w 11) (bvAt 5 w 16) (bvAt 5 w 21))
  | 18 => some (.max (bvAt 5 w 11) (bvAt 5 w 16) (bvAt 5 w 21))
  | 19 => some (.minn (bvAt 5 w 11) (bvAt 5 w 16) (bvAt 5 w 21))
  | 20 => some (.maxn (bvAt 5 w 11) (bvAt 5 w 16) (bvAt 5 w 21))
  | 21 => if fld w 21 5 = 0 then some (.clz (bvAt 5 w 11) (bvAt 5 w 16)) else none
  | 22 => if fld w 21 5 = 0 then some (.ctz (bvAt 5 w 11) (bvAt 5 w 16)) else none
  | 23 => if fld w 21 5 = 0 then some (.popc (bvAt 5 w 11) (bvAt 5 w 16)) else none
  | 24 => some (.leaIndexed (bvAt 5 w 11) (bvAt 5 w 16) (bvAt 5 w 21))
  | _ => none

/-- FPR (major 0x11). -/
def decFpr (w : Nat) (f : FTy) : Option Instr :=
  match fld w 26 3 with
  | 0 => some (.fadd f (bvAt 5 w 11) (bvAt 5 w 16) (bvAt 5 w 21))
  | 1 => some (.fsub f (bvAt 5 w 11) (bvAt 5 w 16) (bvAt 5 w 21))
  | 2 => some (.fmul f (bvAt 5 w 11) (bvAt 5 w 16) (bvAt 5 w 21))
  | 3 => some (.fdiv f (bvAt 5 w 11) (bvAt 5 w 16) (bvAt 5 w 21))
  | 4 => some (.fmin f (bvAt 5 w 11) (bvAt 5 w 16) (bvAt 5 w 21))
  | 5 => some (.fmax f (bvAt 5 w 11) (bvAt 5 w 16) (bvAt 5 w 21))
  | 6 => if fld w 21 5 = 0 then some (.fsqrt f (bvAt 5 w 11) (bvAt 5 w 16)) else none
  | _ => if fld w 21 5 = 0 then some (.fclass f (bvAt 5 w 11) (bvAt 5 w 16)) else none

/-- FCVT (major 0x14): two integer codes trap ILLEGAL. -/
def decFcvt (w : Nat) : Option Instr :=
  match decSType (fld w 29 3), decSType (fld w 26 3) with
  | some dt, some st =>
    if fld w 21 5 = 0 ∧ (2 ≤ fld w 29 3 ∨ 2 ≤ fld w 26 3) then some (.fcvt dt st (bvAt 5 w 11) (bvAt 5 w 16)) else none
  | _, _ => none

/-- CSR (major 0x28). -/
def decCsr (w : Nat) : Option Instr :=
  match fld w 16 4 with
  | 0 => some (.csrr (bvAt 5 w 11) (bvAt 12 w 20))
  | 1 => some (.csrw (bvAt 5 w 11) (bvAt 12 w 20))
  | 2 => some (.csrs (bvAt 5 w 11) (bvAt 12 w 20))
  | 3 => some (.csrc (bvAt 5 w 11) (bvAt 12 w 20))
  | _ => none

/-- SYS (major 0x29). -/
def decSys (w : Nat) : Option Instr :=
  match fld w 11 5 with
  | 0 => some (.trap (bvAt 16 w 16))
  | 1 => if fld w 16 16 = 0 then some .eret else none
  | 2 => if fld w 16 16 = 0 then some .done else none
  | 3 => if fld w 16 16 = 0 then some .nop else none
  | _ => none

/-- SEM (major 0x68, 14 R351). -/
def decSem (w : Nat) : Option Instr :=
  if fld w 16 7 = 0 then
    match fld w 29 3 with
    | 0 => if fld w 11 5 = 0 then some (.semtas (bvAt 6 w 23)) else none
    | 1 => some (.semtry (bvAt 5 w 11) (bvAt 6 w 23))
    | 2 => if fld w 11 5 = 0 then some (.semset (bvAt 6 w 23)) else none
    | 3 => if fld w 11 5 = 0 then some (.semclr (bvAt 6 w 23)) else none
    | _ => none
  else none

/-- BOX (major 0x69, 14 R353). -/
def decBox (w : Nat) : Option Instr :=
  if fld w 21 4 = 0 then
    match fld w 29 3 with
    | 0 => if fld w 16 5 = 0 then some (.boxr (bvAt 5 w 11) (bvAt 4 w 25)) else none
    | 1 => if fld w 11 5 = 0 then some (.boxw (bvAt 4 w 25) (bvAt 5 w 16)) else none
    | _ => none
  else none

/-- BAR (major 0x6A, 14 R354): .STR and .FAB trap ILLEGAL. -/
def decBar (w : Nat) : Option Instr :=
  if fld w 11 18 = 0 then
    match fld w 29 3 with
    | 1 => some (.bar .clu)
    | 2 => some (.bar .die)
    | 3 => some (.bar .dev)
    | _ => none
  else none

/-- FENCE (major 0x6B, 14 R355). -/
def decFence (w : Nat) : Option Instr :=
  if fld w 11 13 = 0 ∧ fld w 24 5 ≠ 0 then
    (decScope (fld w 29 3)).map fun sc => .fence sc (bvAt 5 w 24)
  else none

/-- TRACE (major 0x6C, 14 R372). -/
def decTrace (w : Nat) : Option Instr :=
  if fld w 21 8 = 0 ∧ fld w 11 5 = 0 then
    match fld w 29 3 with
    | 0 => if fld w 16 5 = 0 then some .capstart else none
    | 1 => some (.capstop (bvAt 5 w 16))
    | 2 => some (.sample (bvAt 5 w 16))
    | _ => none
  else none

/-- MEMX (major 0x0E). -/
def decMemx (w : Nat) : Option Instr :=
  if fld w 29 2 = 0 then
    if bitAt w 31 then some (.stIndexed (decTI (fld w 26 3)) (bvAt 5 w 11) (bvAt 5 w 16) (bvAt 5 w 21))
    else some (.ldIndexed (decTI (fld w 26 3)) (bvAt 5 w 11) (bvAt 5 w 16) (bvAt 5 w 21))
  else none

/-- Shift immediates: bits 31:27 are 0. -/
def decShi (w : Nat) (f : XReg → XReg → BitVec 6 → Instr) : Option Instr :=
  if fld w 27 5 = 0 then some (f (bvAt 5 w 11) (bvAt 5 w 16) (bvAt 6 w 21)) else none

/-- SA format (majors 0x0F and 0x10). -/
def decSa (w : Nat) (f : TI → Scope → XReg → XReg → Instr) : Option Instr :=
  if fld w 21 5 = 0 then
    (decScope (fld w 26 3)).map fun sc => f (decTI (fld w 29 3)) sc (bvAt 5 w 11) (bvAt 5 w 16)
  else none

/-- A scalar base word of the given major (10 R259, R260, R263). The C bit stands apart: a scalar instruction with
C = 1 traps CONVOY at check 9. -/
def decScalar (maj w : Nat) : Option Instr :=
  match maj with
  | 0x01 => decInt w
  | 0x02 => some (.addi (bvAt 5 w 11) (bvAt 5 w 16) (bvAt 11 w 21))
  | 0x03 => some (.andi (bvAt 5 w 11) (bvAt 5 w 16) (bvAt 11 w 21))
  | 0x04 => some (.ori (bvAt 5 w 11) (bvAt 5 w 16) (bvAt 11 w 21))
  | 0x05 => some (.xori (bvAt 5 w 11) (bvAt 5 w 16) (bvAt 11 w 21))
  | 0x06 => decShi w .shli
  | 0x07 => decShi w .shri
  | 0x08 => decShi w .shai
  | 0x09 => some (.slti (bvAt 5 w 11) (bvAt 5 w 16) (bvAt 11 w 21))
  | 0x0a => some (.sltni (bvAt 5 w 11) (bvAt 5 w 16) (bvAt 11 w 21))
  | 0x0b => some (.lea (bvAt 5 w 11) (bvAt 5 w 16) (bvAt 11 w 21))
  | 0x0c => some (.ld (decTI (fld w 21 3)) (bvAt 5 w 11) (bvAt 5 w 16) (bvAt 8 w 24))
  | 0x0d => some (.st (decTI (fld w 21 3)) (bvAt 5 w 11) (bvAt 5 w 16) (bvAt 8 w 24))
  | 0x0e => decMemx w
  | 0x0f => decSa w .lda
  | 0x10 => decSa w .stl
  | 0x11 => (decFTy (fld w 29 3)).bind (decFpr w)
  | 0x12 => if fld w 26 3 = 0 then (decFTy (fld w 29 3)).map fun f => .ffma f (bvAt 5 w 11) (bvAt 5 w 16) (bvAt 5 w 21) else none
  | 0x13 =>
    match decFCond (fld w 26 3), decFTy (fld w 29 3) with
    | some c, some f => some (.fcmp c f (bvAt 5 w 11) (bvAt 5 w 16) (bvAt 5 w 21))
    | _, _ => none
  | 0x14 => decFcvt w
  | 0x20 => some (.beq (bvAt 5 w 11) (bvAt 5 w 16) (bvAt 11 w 21))
  | 0x21 => some (.bne (bvAt 5 w 11) (bvAt 5 w 16) (bvAt 11 w 21))
  | 0x22 => some (.blt (bvAt 5 w 11) (bvAt 5 w 16) (bvAt 11 w 21))
  | 0x23 => some (.bge (bvAt 5 w 11) (bvAt 5 w 16) (bvAt 11 w 21))
  | 0x24 => some (.bltn (bvAt 5 w 11) (bvAt 5 w 16) (bvAt 11 w 21))
  | 0x25 => some (.bgen (bvAt 5 w 11) (bvAt 5 w 16) (bvAt 11 w 21))
  | 0x26 => some (.jal (bvAt 5 w 11) (bvAt 16 w 16))
  | 0x27 => some (.jalr (bvAt 5 w 11) (bvAt 5 w 16) (bvAt 11 w 21))
  | 0x28 => decCsr w
  | 0x29 => decSys w
  | 0x2a => if fld w 21 11 = 0 then (decSew (fld w 18 3)).map fun sw => .vcfg (bvAt 5 w 11) sw (bvAt 2 w 16) else none
  | 0x2b => if fld w 21 11 = 0 then some (.setvl (bvAt 5 w 11) (bvAt 5 w 16)) else none
  | 0x2c => some (.setvli (bvAt 5 w 11) (bvAt 16 w 16))
  | 0x68 => decSem w
  | 0x69 => decBox w
  | 0x6a => decBar w
  | 0x6b => decFence w
  | 0x6c => decTrace w
  | _ => none

/-! ### Vector base words (10 R253, R261, R262) -/

/-- The high register bits HD, HA, HB of a prefix word. -/
structure HiBits where
  d : Bool
  a : Bool
  b : Bool
  deriving DecidableEq, Repr

/-- A 6-bit vector register name from its high bit and its five low bits. -/
def vreg (h : Bool) (w lo : Nat) : VReg := BitVec.ofNat 6 (bitOf h * 32 + fld w lo 5)

/-- The majors that round and so accept RMO (10 R255). -/
def rmoMajor (maj : Nat) : Bool :=
  (0x3d ≤ maj && maj ≤ 0x43) || maj == 0x46 || maj == 0x4b || maj == 0x4c || maj == 0x4e || maj == 0x4f ||
    maj == 0x63 || maj == 0x64

/-- The majors that accept SAT; 0x37 does only as VSHL (10 R255). -/
def satMajor (maj t : Nat) : Bool :=
  maj == 0x30 || maj == 0x31 || maj == 0x32 || maj == 0x34 || (maj == 0x37 && t == 3) || maj == 0x4b || maj == 0x4e

/-- The majors that accept VC (10 R255). -/
def vcMajor (maj : Nat) : Bool :=
  maj == 0x34 || maj == 0x41 || maj == 0x42 || maj == 0x43 || maj == 0x4c || maj == 0x4d

/-- The vector register fields a base word of major `maj`, type or mode `t`, uses: vd, va, vb (10 R261, R262). -/
def usesRegs (maj t : Nat) : HiBits :=
  match maj with
  | 0x3c | 0x46 | 0x4b | 0x4c | 0x4d | 0x64 | 0x65 => ⟨true, true, false⟩
  | 0x49 => if t = 4 ∨ t = 5 then ⟨false, true, false⟩ else ⟨true, true, true⟩
  | 0x50 => if t = 2 ∨ t = 3 then ⟨true, false, true⟩ else if t = 4 ∨ t = 5 then ⟨false, false, false⟩
            else ⟨true, false, false⟩
  | 0x51 | 0x53 => ⟨true, false, false⟩
  | 0x52 => if t = 2 ∨ t = 3 then ⟨true, false, true⟩ else ⟨true, false, false⟩
  | 0x54 => ⟨true, false, true⟩
  | 0x55 => if t = 0 ∨ t = 1 then ⟨true, false, false⟩ else ⟨false, false, false⟩
  | 0x61 => if t = 0 ∨ t = 1 then ⟨true, true, false⟩ else if t = 3 then ⟨false, true, false⟩
            else ⟨true, false, false⟩
  | 0x62 | 0x63 => ⟨false, true, false⟩
  | _ => ⟨true, true, true⟩

/-- Whether the prefix fields suit the base word (10 R255): `m` and `mp` are its bits, `fn2` bits 22:21. -/
def pfxOk (maj t fn2 : Nat) (m mp : Bool) (p : Pfx) (h : HiBits) : Bool :=
  let u := usesRegs maj t
  (p.rmo == .none || (rmoMajor maj &&
    (p.rmo != .efr || maj == 0x4c || (maj == 0x4b && fn2 != 2)) &&
    !(maj == 0x4b && fn2 == 1 && p.rmo != .efr))) &&
  (!p.sat || satMajor maj t) &&
  (!p.mz || (m && !mp)) && (!p.mke || m) && (p.mke || p.mreg == 0) &&
  (p.vc == 0 || vcMajor maj) && (!h.d || u.d) && (!h.a || u.a) && (!h.b || u.b)

/-- Bits 28:11 of a vector base word and its prefix. -/
structure VWord where
  w : Nat
  pfx : Option Pfx
  hi : HiBits

/-- The control bits of a base word whose bits 28 and 27 are TP and MP. -/
def VWord.k (v : VWord) : VCtl := ⟨bitAt v.w 2, bitAt v.w 28, bitAt v.w 27, bitAt v.w 26, v.pfx⟩
/-- The control bits of VCMP and VFCMP, which have no TP and MP. -/
def VWord.kc (v : VWord) : VCtl := ⟨bitAt v.w 2, false, false, bitAt v.w 26, v.pfx⟩
/-- vd. -/
def VWord.vd (v : VWord) : VReg := vreg v.hi.d v.w 11
/-- va. -/
def VWord.va (v : VWord) : VReg := vreg v.hi.a v.w 16
/-- vb. -/
def VWord.vb (v : VWord) : VReg := vreg v.hi.b v.w 21

/-- VIUN (major 0x3C). -/
def decViun (v : VWord) : Option Instr :=
  match fld v.w 21 5 with
  | 0 => if fld v.w 29 3 = 0 then some (.vabs v.k v.vd v.va) else none
  | 1 => (decITy (fld v.w 29 3)).map fun t => .vneg v.k t v.vd v.va
  | _ => none

/-- VFUN (major 0x46): FN 6-9 with F64 are ILLEGAL. -/
def decVfun (v : VWord) (f : FTy) : Option Instr :=
  match fld v.w 21 5 with
  | 0 => some (.vfsqrt v.k f v.vd v.va)
  | 1 => some (.vfabs v.k f v.vd v.va)
  | 2 => some (.vfneg v.k f v.vd v.va)
  | 3 => some (.vfclass v.k f v.vd v.va)
  | 4 => some (.vfrcp v.k f v.vd v.va)
  | 5 => some (.vfrsq v.k f v.vd v.va)
  | 6 => if f = .f64 then none else some (.vfexp2 v.k f v.vd v.va)
  | 7 => if f = .f64 then none else some (.vflog2 v.k f v.vd v.va)
  | 8 => if f = .f64 then none else some (.vfsinpi v.k f v.vd v.va)
  | 9 => if f = .f64 then none else some (.vfcospi v.k f v.vd v.va)
  | _ => none

/-- VMASK (major 0x49): M = 0 and MP = 0 except for MPOPC and MFIRST, which have no TP, MP or vb. -/
def decVmask (v : VWord) : Option Instr :=
  match fld v.w 29 3 with
  | 0 => if v.k.m then none else some (.mand v.k v.vd v.va v.vb)
  | 1 => if v.k.m then none else some (.mor v.k v.vd v.va v.vb)
  | 2 => if v.k.m then none else some (.mxor v.k v.vd v.va v.vb)
  | 3 => if v.k.m then none else some (.mandn v.k v.vd v.va v.vb)
  | 4 => if fld v.w 27 2 = 0 ∧ fld v.w 21 5 = 0 then some (.mpopc v.k (bvAt 5 v.w 11) v.va) else none
  | 5 => if fld v.w 27 2 = 0 ∧ fld v.w 21 5 = 0 then some (.mfirst v.k (bvAt 5 v.w 11) v.va) else none
  | _ => none

/-- VCONV (major 0x4B). -/
def decVconv (v : VWord) : Option Instr :=
  match decElTy (fld v.w 29 3), decElTy (fld v.w 23 3) with
  | some dt, some st =>
    match fld v.w 21 2 with
    | 0 => some (.vcvt v.k dt st v.vd v.va)
    | 1 => some (.vcvte v.k dt st v.vd v.va)
    | 2 => some (.vwiden v.k dt st v.vd v.va)
    | _ => some (.vnarrow v.k dt st v.vd v.va)
  | _, _ => none

/-- VPACK and VUNPACK (majors 0x4C, 0x4D): only as prefix units, with M and MP 0 (12 R322, R323). -/
def decVpk (v : VWord) (t : Nat) (f : VCtl → BitVec 3 → BlkLen → VReg → VReg → Instr) : Option Instr :=
  if fld v.w 29 3 = t ∧ fld v.w 23 3 ≠ 7 ∧ v.pfx.isSome ∧ fld v.w 26 2 = 0 then
    (decBlkLen (fld v.w 21 2)).map fun l => f v.k (bvAt 3 v.w 23) l v.vd v.va
  else none

/-- VLOAD (major 0x50); VPRF has vd, TP and MP zero (13 R330). -/
def decVload (v : VWord) : Option Instr :=
  match fld v.w 29 3 with
  | 0 => some (.vld v.k (bvAt 5 v.w 21) (bvAt 5 v.w 16) v.vd)
  | 1 => some (.vlds v.k (bvAt 5 v.w 21) (bvAt 5 v.w 16) v.vd)
  | 2 => some (.vldx v.k v.vb (bvAt 5 v.w 16) v.vd)
  | 3 => some (.vldo v.k v.vb (bvAt 5 v.w 16) v.vd)
  | 4 => if fld v.w 27 2 = 0 ∧ fld v.w 11 5 = 0 then some (.vprf v.k (bvAt 5 v.w 21) (bvAt 5 v.w 16)) else none
  | 5 => if fld v.w 27 2 = 0 ∧ fld v.w 11 5 = 0 then some (.vprfStrided v.k (bvAt 5 v.w 21) (bvAt 5 v.w 16)) else none
  | _ => none

/-- VSTORE (major 0x52): TP and MP are 0. -/
def decVstore (v : VWord) : Option Instr :=
  if fld v.w 27 2 = 0 then
    match fld v.w 29 3 with
    | 0 => some (.vst v.k (bvAt 5 v.w 21) (bvAt 5 v.w 16) v.vd)
    | 1 => some (.vsts v.k (bvAt 5 v.w 21) (bvAt 5 v.w 16) v.vd)
    | 2 => some (.vstx v.k v.vb (bvAt 5 v.w 16) v.vd)
    | 3 => some (.vstxo v.k v.vb (bvAt 5 v.w 16) v.vd)
    | _ => none
  else none

/-- VREMOTE (major 0x54): the stores have TP and MP 0. -/
def decVremote (v : VWord) : Option Instr :=
  match fld v.w 29 3 with
  | 0 => some (.vrld v.k v.vb (bvAt 5 v.w 16) v.vd)
  | 1 => if fld v.w 27 2 = 0 then some (.vrst v.k v.vb (bvAt 5 v.w 16) v.vd) else none
  | 2 => if fld v.w 27 2 = 0 then some (.vrstOrd v.k v.vb (bvAt 5 v.w 16) v.vd) else none
  | 3 => some (.vfgath v.k v.vb (bvAt 5 v.w 16) v.vd)
  | 4 => if fld v.w 27 2 = 0 then some (.vfscat v.k v.vb (bvAt 5 v.w 16) v.vd) else none
  | _ => none

/-- VTILE (major 0x55): TST, TROT and TFILL have TP and MP 0; TROT has vd 0; TFILL's vd field names xb (13 R334). -/
def decVtile (v : VWord) : Option Instr :=
  match fld v.w 29 3 with
  | 0 => some (.tld v.k (bvAt 5 v.w 21) (bvAt 5 v.w 16) v.vd)
  | 1 => if fld v.w 27 2 = 0 then some (.tst v.k (bvAt 5 v.w 21) (bvAt 5 v.w 16) v.vd) else none
  | 2 => if fld v.w 27 2 = 0 ∧ fld v.w 11 5 = 0 then some (.trot v.k (bvAt 5 v.w 21) (bvAt 5 v.w 16)) else none
  | 3 => if fld v.w 27 2 = 0 then some (.tfill v.k (bvAt 5 v.w 21) (bvAt 5 v.w 16) (bvAt 5 v.w 11)) else none
  | _ => none

/-- VMOVE (major 0x61, 13 R340). -/
def decVmove (v : VWord) : Option Instr :=
  match fld v.w 29 3 with
  | 0 => some (.vslup v.k v.vd v.va (bvAt 5 v.w 21))
  | 1 => some (.vsldn v.k v.vd v.va (bvAt 5 v.w 21))
  | 2 => if fld v.w 16 5 = 0 then some (.vbcast v.k v.vd (bvAt 5 v.w 21)) else none
  | 3 => if fld v.w 26 3 = 0 then some (.vextr v.k (bvAt 5 v.w 11) v.va (bvAt 5 v.w 21)) else none
  | 4 => if fld v.w 27 2 = 0 then some (.vins v.k v.vd (bvAt 5 v.w 16) (bvAt 5 v.w 21)) else none
  | 5 => if fld v.w 16 10 = 0 then some (.vidx v.k v.vd) else none
  | _ => none

/-- VSCAN (major 0x64). -/
def decVscan (v : VWord) : Option Instr :=
  match decITy (fld v.w 29 3), decFTy (fld v.w 29 3) with
  | some t, _ => (decRedOp (fld v.w 21 5)).map fun op => .vscan v.k (.int op t) v.vd v.va
  | none, some f => (decFRedOp (fld v.w 21 5)).map fun op => .vscan v.k (.flt op f) v.vd v.va
  | none, none => none

/-- VCOMPR (major 0x65, 13 R344, R339). -/
def decVcompr (v : VWord) : Option Instr :=
  match fld v.w 21 5 with
  | 0 => if fld v.w 29 3 = 0 ∧ v.k.m ∧ ¬ v.k.mp then some (.vcomp v.k v.vd v.va) else none
  | 1 => if fld v.w 29 3 = 0 ∧ v.k.m then some (.vexpd v.k v.vd v.va) else none
  | 2 => if v.k.mp then none else (decElTy (fld v.w 29 3)).map fun t => .vnzidx v.k t v.vd v.va
  | _ => none

/-- A vector base word of the given major. -/
def decVec (maj : Nat) (v : VWord) : Option Instr :=
  match maj with
  | 0x30 => (decITy (fld v.w 29 3)).map fun t => .vadd v.k t v.vd v.va v.vb
  | 0x31 => (decITy (fld v.w 29 3)).map fun t => .vsub v.k t v.vd v.va v.vb
  | 0x32 => (decITy (fld v.w 29 3)).map fun t => .vmul v.k t v.vd v.va v.vb
  | 0x33 => (decITy (fld v.w 29 3)).map fun t => .vmulh v.k t v.vd v.va v.vb
  | 0x34 => (decITy (fld v.w 29 3)).map fun t => .vmadd v.k t v.vd v.va v.vb
  | 0x35 => (decITy (fld v.w 29 3)).map fun t => .vmin v.k t v.vd v.va v.vb
  | 0x36 => (decITy (fld v.w 29 3)).map fun t => .vmax v.k t v.vd v.va v.vb
  | 0x37 =>
    match fld v.w 29 3 with
    | 0 => some (.vand v.k v.vd v.va v.vb)
    | 1 => some (.vor v.k v.vd v.va v.vb)
    | 2 => some (.vxor v.k v.vd v.va v.vb)
    | 3 => some (.vshl v.k v.vd v.va v.vb)
    | _ => none
  | 0x38 =>
    match fld v.w 29 3 with
    | 0 => some (.vsha v.k v.vd v.va v.vb)
    | 1 => some (.vshr v.k v.vd v.va v.vb)
    | _ => none
  | 0x39 => (decITy (fld v.w 29 3)).map fun t => .vsadd v.k t v.vd v.va v.vb
  | 0x3a => (decITy (fld v.w 29 3)).map fun t => .vssub v.k t v.vd v.va v.vb
  | 0x3b => (decITy (fld v.w 29 3)).map fun t => .vavg v.k t v.vd v.va v.vb
  | 0x3c => decViun v
  | 0x3d => (decFTy (fld v.w 29 3)).map fun t => .vfadd v.k t v.vd v.va v.vb
  | 0x3e => (decFTy (fld v.w 29 3)).map fun t => .vfsub v.k t v.vd v.va v.vb
  | 0x3f => (decFTy (fld v.w 29 3)).map fun t => .vfmul v.k t v.vd v.va v.vb
  | 0x40 => (decFTy (fld v.w 29 3)).map fun t => .vfdiv v.k t v.vd v.va v.vb
  | 0x41 => (decFTy (fld v.w 29 3)).map fun t => .vffma v.k t v.vd v.va v.vb
  | 0x42 => (decFTy (fld v.w 29 3)).map fun t => .vffms v.k t v.vd v.va v.vb
  | 0x43 => (decFTy (fld v.w 29 3)).map fun t => .vfnma v.k t v.vd v.va v.vb
  | 0x44 => (decFTy (fld v.w 29 3)).map fun t => .vfmin v.k t v.vd v.va v.vb
  | 0x45 => (decFTy (fld v.w 29 3)).map fun t => .vfmax v.k t v.vd v.va v.vb
  | 0x46 => (decFTy (fld v.w 29 3)).bind (decVfun v)
  | 0x47 => (decITy (fld v.w 29 3)).map fun t => .vcmp v.kc (decICond (fld v.w 27 2)) t v.vd v.va v.vb
  | 0x48 =>
    match decFCond (fld v.w 27 2), decFTy (fld v.w 29 3) with
    | some c, some f => some (.vfcmp v.kc c f v.vd v.va v.vb)
    | _, _ => none
  | 0x49 => decVmask v
  | 0x4a => if v.k.m ∧ ¬ v.k.mp then (decElTy (fld v.w 29 3)).map fun t => .vmerge v.k t v.vd v.va v.vb else none
  | 0x4b => decVconv v
  | 0x4c => decVpk v 6 .vpack
  | 0x4d => decVpk v 4 .vunpack
  | 0x4e => (decFTy (fld v.w 29 3)).map fun t => .vscale v.k t v.vd v.va v.vb
  | 0x4f => (decFTy (fld v.w 29 3)).map fun t => .vscacc v.k t v.vd v.va v.vb
  | 0x50 => decVload v
  | 0x51 => (decScope (fld v.w 29 3)).map fun sc => .vlda v.k sc (bvAt 5 v.w 21) (bvAt 5 v.w 16) v.vd
  | 0x52 => decVstore v
  | 0x53 =>
    if fld v.w 27 2 = 0 then
      (decScope (fld v.w 29 3)).map fun sc => .vstl v.k sc (bvAt 5 v.w 21) (bvAt 5 v.w 16) v.vd
    else none
  | 0x54 => decVremote v
  | 0x55 => decVtile v
  | 0x60 => if fld v.w 29 3 = 0 then some (.vperm v.k v.vd v.va v.vb) else none
  | 0x61 => decVmove v
  | 0x62 =>
    if fld v.w 27 2 = 0 then
      match decRedOp (fld v.w 21 5), decITy (fld v.w 29 3) with
      | some op, some t => some (.vred v.k op t (bvAt 5 v.w 11) v.va)
      | _, _ => none
    else none
  | 0x63 =>
    match decFRedOp (fld v.w 21 5), decFTy (fld v.w 29 3) with
    | some op, some f => some (.vfred v.k op f (bvAt 5 v.w 11) v.va)
    | _, _ => none
  | 0x64 => decVscan v
  | 0x65 => decVcompr v
  | _ => none

/-- Whether MP and M agree: MP = 1 with M = 0 traps ILLEGAL (10 R254); bit 27 is no MP in VCMP and VFCMP. -/
def mpOk (maj w : Nat) : Bool := maj == 0x47 || maj == 0x48 || !bitAt w 27 || bitAt w 26

/-- A base word without a prefix, P = 0 and LEN = 0b00. The C bit of a scalar word is dropped here; the convoy check
reads it from the word. -/
def decBase (w : Nat) : Option Instr :=
  let maj := fld w 4 7
  if 0x30 ≤ maj ∧ maj ≤ 0x65 then
    if mpOk maj w then decVec maj ⟨w, none, ⟨false, false, false⟩⟩ else none
  else decScalar maj w

/-- The prefix word's fields (10 R255). -/
def decPfx (p : Nat) : Option Pfx :=
  (decRmo (fld p 29 3)).map fun r =>
    { rmo := r, sat := bitAt p 28, mz := bitAt p 27, mke := bitAt p 26, mreg := bvAt 6 p 20, vc := bvAt 6 p 14 }

/-- A base word reached through its prefix word. -/
def decPrefixed (p w : Nat) : Option Instr :=
  let maj := fld w 4 7
  let hi : HiBits := ⟨bitAt p 13, bitAt p 12, bitAt p 11⟩
  match decPfx p with
  | some px =>
    if mpOk maj w ∧ pfxOk maj (fld w 29 3) (fld w 21 2) (bitAt w 26) (maj != 0x47 && maj != 0x48 && bitAt w 27) px hi then
      decVec maj ⟨w, some px, hi⟩
    else none
  | none => none

/-! ### Extended units (10 R264, 13 R345-R346, 14) -/

/-- The three words of an extended unit and its literal. -/
structure XWord where
  w0 : Nat
  w1 : Nat
  w2 : Nat
  lit : Option Word

/-- D as a scalar register. -/
def XWord.d (x : XWord) : XReg := bvAt 5 x.w0 19
/-- D as a vector register. -/
def XWord.vd (x : XWord) : VReg := bvAt 6 x.w0 19
/-- A as a scalar register. -/
def XWord.a (x : XWord) : XReg := bvAt 5 x.w0 25
/-- A as a vector register. -/
def XWord.va (x : XWord) : VReg := bvAt 6 x.w0 25
/-- B as a scalar register. -/
def XWord.b (x : XWord) : XReg := bvAt 5 x.w1 0
/-- B as a vector register. -/
def XWord.vb (x : XWord) : VReg := bvAt 6 x.w1 0
/-- Q as a scalar register. -/
def XWord.q (x : XWord) : XReg := bvAt 5 x.w1 6
/-- Q as a vector register. -/
def XWord.vq (x : XWord) : VReg := bvAt 6 x.w1 6
/-- The A operand: a register, or the literal with A = 0. -/
def XWord.ao (x : XWord) : AOp := match x.lit with | some v => .lit v | none => .reg x.a
/-- Whether the A operand is well formed. -/
def XWord.aoOk (x : XWord) : Bool := match x.lit with | some _ => fld x.w0 25 6 == 0 | none => fld x.w0 25 6 < 32
/-- No A operand: no literal, A = 0. -/
def XWord.noA (x : XWord) : Bool := x.lit.isNone && fld x.w0 25 6 == 0
/-- OPT. -/
def XWord.opt (x : XWord) : Nat := fld x.w1 27 5
/-- SCOPE. -/
def XWord.sc (x : XWord) : Nat := fld x.w1 24 3
/-- TP, MP and M. -/
def XWord.tmm (x : XWord) : Nat := fld x.w1 21 3
/-- T. -/
def XWord.t (x : XWord) : Nat := fld x.w1 18 3
/-- K. -/
def XWord.k (x : XWord) : Nat := fld x.w1 12 6
/-- D, B and Q below 32, as scalar names must be. -/
def XWord.dOk (x : XWord) : Bool := fld x.w0 19 6 < 32
def XWord.bOk (x : XWord) : Bool := fld x.w1 0 6 < 32
def XWord.qOk (x : XWord) : Bool := fld x.w1 6 6 < 32
def XWord.d0 (x : XWord) : Bool := fld x.w0 19 6 == 0
def XWord.b0 (x : XWord) : Bool := fld x.w1 0 6 == 0
def XWord.q0 (x : XWord) : Bool := fld x.w1 6 6 == 0
/-- TP, MP, M, T and K all zero: the strand-core forms without a type. -/
def XWord.mid0 (x : XWord) : Bool := fld x.w1 12 12 == 0
/-- TP, MP, M and K zero. -/
def XWord.mask0 (x : XWord) : Bool := x.tmm == 0 && x.k == 0
/-- The control bits; K must be 0 unless M = 1, and MP = 1 needs M = 1. -/
def XWord.e (x : XWord) : ECtl := ⟨bitAt x.w0 2, bitAt x.w1 23, bitAt x.w1 22, bitAt x.w1 21, bvAt 6 x.w1 12⟩
/-- Whether the mask fields agree. -/
def XWord.eOk (x : XWord) : Bool := bitAt x.w1 21 || (x.k == 0 && !bitAt x.w1 22)
/-- AQ, RL and REMOTE of an atomic, with its width bit (14 R361). -/
def XWord.amo (x : XWord) : AmoCtl := ⟨bitAt x.w2 0, bitAt x.w2 1, bitAt x.w2 2, bitAt x.w2 3⟩

/-- EXTV (major 0x78). -/
def decExtv (x : XWord) : Option Instr :=
  if x.lit.isSome then none else
  match fld x.w0 11 8 with
  | 0 =>
    if x.sc = 0 ∧ x.opt < 2 ∧ bitAt x.w1 22 = false ∧ x.eOk ∧ x.bOk ∧ x.vd ≠ x.vq then
      (decElTy x.t).map fun t => .vtopk x.e (x.opt == 1) t x.vd x.vq x.va x.b (bvAt 32 x.w2 0)
    else none
  | 1 =>
    if x.sc = 0 ∧ x.opt = 0 ∧ fld x.w1 21 2 = 0 ∧ x.w2 = 0 ∧ x.qOk ∧ x.k < 32 then
      (decITy x.t).map fun t =>
        .visect ⟨bitAt x.w0 2, bitAt x.w1 23, false, false, 0⟩ t x.vd x.va x.vb x.q (bvAt 5 x.w1 12)
    else none
  | _ => none

/-- The channel or engine XSTAT and XWAIT name: the channel, or the engine 2-8 (14 R364). -/
def decXSrc (eng : Bool) (w2 : Nat) : Option XSrc :=
  if eng then
    if w2 % 256 = 0 ∧ w2 / 4096 = 0 ∧ 2 ≤ fld w2 8 4 ∧ fld w2 8 4 ≤ 8 then some (.eng (bvAt 4 w2 8)) else none
  else if w2 < 8 then some (.chan (bvAt 3 w2 0)) else none

/-- EXTENG (major 0x79, 14 R363-R366). -/
def decExteng (x : XWord) : Option Instr :=
  if !x.mid0 then none else
  match fld x.w0 11 8, decScope x.sc with
  | 0, some sc =>
    if x.aoOk ∧ x.dOk ∧ x.bOk ∧ x.q0 ∧ sc ≠ .fab ∧ x.opt < 4 ∧ fld x.w2 3 5 = 0 ∧ fld x.w2 14 18 = 0 ∧
        (bitAt x.w1 27 ∨ fld x.w2 8 6 = 0) then
      some (.xcopy sc x.d x.ao x.b (bvAt 3 x.w2 0) (bvAt 6 x.w2 8) (bitAt x.w1 27) (bitAt x.w1 28))
    else none
  | 1, some .str =>
    if x.aoOk ∧ x.d0 ∧ x.b0 ∧ x.q0 ∧ x.opt = 0 ∧ x.w2 < 8 then some (.xchain x.ao (bvAt 3 x.w2 0)) else none
  | 2, some sc =>
    if x.noA ∧ x.dOk ∧ x.b0 ∧ x.q0 ∧ (x.opt = 0 ∨ x.opt = 2) then
      (decXSrc (x.opt == 2) x.w2).map fun src => .xstat sc x.d src
    else none
  | 3, some sc =>
    if x.aoOk ∧ x.d0 ∧ x.q0 ∧ (if x.opt = 1 then x.bOk else x.b0) then
      match x.opt, decXSrc (x.opt == 2) x.w2 with
      | 0, some (.chan c) => some (.xwait sc x.ao (.chan c))
      | 1, some (.chan c) => some (.xwait sc x.ao (.lead c x.b))
      | 2, some (.eng e) => some (.xwait sc x.ao (.eng e))
      | _, _ => none
    else none
  | 4, some sc =>
    if x.aoOk ∧ x.d0 ∧ x.b0 ∧ x.q0 ∧ x.opt = 0 ∧ x.w2 = 0 then some (.bin sc x.ao) else none
  | 5, some sc =>
    if x.aoOk ∧ x.d0 ∧ x.bOk ∧ x.q0 ∧ x.opt = 0 ∧ x.w2 = 0 then some (.walk sc x.ao x.b) else none
  | 6, some .str =>
    if x.aoOk ∧ x.dOk ∧ x.bOk ∧ x.qOk ∧ x.opt = 0 ∧ x.w2 = 0 then some (.stchk x.d x.ao x.b x.q) else none
  | 7, some .str =>
    if x.aoOk ∧ x.d0 ∧ x.bOk ∧ x.qOk ∧ x.opt = 0 ∧ x.w2 = 0 then some (.stkeep x.ao x.b x.q) else none
  | 8, some .str =>
    if x.noA ∧ x.d0 ∧ x.b0 ∧ x.qOk ∧ x.opt < 3 ∧ x.w2 = 0 then some (.stdrop x.q (BitVec.ofNat 2 x.opt)) else none
  | _, _ => none

/-- The sender's endpoint of a messaging command: IMM32 bit 31 and bits 13:0 (14 R367). -/
def decEp (w2 : Nat) : Option (Option (BitVec 14)) :=
  if bitAt w2 31 then if fld w2 14 17 = 0 then some (some (bvAt 14 w2 0)) else none
  else if w2 = 0 then some none else none

/-- EXTMSG (major 0x7A, 14 R368-R371). -/
def decExtmsg (x : XWord) : Option Instr :=
  if !(x.mid0 && x.sc == 0 && x.opt == 0 && x.aoOk) then none else
  match fld x.w0 11 8 with
  | 0 => if x.d0 ∧ x.bOk ∧ x.qOk then (decEp x.w2).map fun ep => .msend x.ao x.b x.q ep else none
  | 1 => if x.d0 ∧ x.b0 ∧ x.q0 ∧ x.w2 = 0 then some (.mpost x.ao) else none
  | 2 => if x.dOk ∧ x.b0 ∧ x.q0 ∧ x.w2 = 0 then some (.mprobe x.d x.ao) else none
  | 3 => if x.dOk ∧ x.b0 ∧ x.q0 then (decEp x.w2).map fun ep => .mtest x.d x.ao ep else none
  | 4 => if x.dOk ∧ x.b0 ∧ x.q0 then (decEp x.w2).map fun ep => .mcancel x.d x.ao ep else none
  | _ => none

/-- EXTWAIT (major 0x7B, 14 R356-R360). -/
def decExtwait (x : XWord) : Option Instr :=
  match fld x.w0 11 8, decScope x.sc with
  | 0, some .str =>
    if x.mid0 ∧ x.aoOk ∧ x.dOk ∧ x.bOk ∧ x.q0 ∧ x.opt < 8 then
      some (.mwait x.d x.ao x.b (bvAt 2 x.w1 27) (bitAt x.w1 29) (bvAt 32 x.w2 0))
    else none
  | 1, some .str =>
    if x.lit.isNone ∧ fld x.w0 25 6 < 32 ∧ x.dOk ∧ fld x.w1 22 2 = 0 ∧ x.eOk ∧ (x.opt % 4 < 2) ∧ x.opt < 8 then
      (decITy x.t).map fun t =>
        .vwait x.e t (bitAt x.w1 27) (bitAt x.w1 29) x.d x.vq x.a x.vb (bvAt 32 x.w2 0)
    else none
  | 2, some sc =>
    if x.mid0 ∧ x.aoOk ∧ x.d0 ∧ x.b0 ∧ x.q0 ∧ x.opt = 0 ∧ x.w2 < 256 then some (.wmpub sc x.ao (bvAt 8 x.w2 0)) else none
  | 3, some .str =>
    if x.mid0 ∧ x.noA ∧ x.dOk ∧ x.b0 ∧ x.q0 ∧ x.opt = 0 ∧ x.w2 < 256 then some (.wmchk x.d (bvAt 8 x.w2 0)) else none
  | 4, some .str =>
    if x.mid0 ∧ x.aoOk ∧ x.d0 ∧ x.bOk ∧ x.q0 ∧ x.opt = 0 ∧ x.w2 = 0 then some (.tkpost x.ao x.b) else none
  | 5, some .str =>
    if x.mid0 ∧ x.aoOk ∧ x.dOk ∧ x.b0 ∧ x.q0 ∧ x.opt = 0 ∧ x.w2 = 0 then some (.tktake x.d x.ao) else none
  | 6, some .str =>
    if x.mid0 ∧ x.aoOk ∧ x.d0 ∧ x.b0 ∧ x.q0 ∧ x.opt = 0 ∧ x.w2 < 4096 then some (.launch x.ao (bvAt 12 x.w2 0)) else none
  | _, _ => none

/-- EXTAMO (major 0x7C, 14 R361, R362). -/
def decExtamo (x : XWord) : Option Instr :=
  if 16 ≤ x.w2 then none else
  match fld x.w0 11 8, decScope x.sc with
  | 0, some sc =>
    if x.mask0 ∧ x.aoOk ∧ x.dOk ∧ x.bOk ∧ x.q0 then
      match decAmoOp x.opt, decITy x.t with
      | some op, some t => some (.amo op t sc x.amo x.d x.ao x.b)
      | _, _ => none
    else none
  | 1, some sc =>
    if x.mask0 ∧ x.aoOk ∧ x.dOk ∧ x.bOk ∧ x.qOk ∧ x.opt = 0 then
      (decITy x.t).map fun t => .amocas t sc x.amo x.d x.ao x.b x.q
    else none
  | 2, some sc =>
    if x.mask0 ∧ x.aoOk ∧ x.dOk ∧ x.bOk ∧ x.q0 ∧ bitAt x.w2 0 = false ∧ (x.t = 4 ∨ x.t = 5) then
      (decFRedOp x.opt).map fun op => .famo op (x.t == 5) sc x.amo x.d x.ao x.b
    else none
  | 3, some sc =>
    if x.lit.isNone ∧ fld x.w0 25 6 < 32 ∧ x.eOk ∧ bitAt x.w2 0 = false then
      match decAmoOp x.opt, decITy x.t with
      | some op, some t => some (.vamo x.e op t sc x.amo x.vd x.a x.vb x.vq)
      | _, _ => none
    else none
  | 4, some sc =>
    if x.lit.isNone ∧ x.eOk ∧ bitAt x.w2 0 = false ∧ bitAt x.w2 3 = false ∧ x.opt = 0 then
      (decITy x.t).map fun t => .vamocas x.e t sc x.amo x.vd x.vb x.va x.vq
    else none
  | _, _ => none

/-- An extended unit (bit 31 of word 0 is 0). -/
def decExt (x : XWord) : Option Instr :=
  if bitAt x.w0 31 then none else
  match fld x.w0 4 7 with
  | 0x78 => decExtv x
  | 0x79 => decExteng x
  | 0x7a => decExtmsg x
  | 0x7b => decExtwait x
  | 0x7c => decExtamo x
  | _ => none

/-- A base-plus-literal unit (major 0x7E). -/
def decLitf (w0 : Nat) (v : Word) : Option Instr :=
  if fld w0 16 10 = 0 then
    match fld w0 26 6 with
    | 0 => some (.lit (bvAt 5 w0 11) v)
    | 1 => if fld w0 11 5 = 0 then some (.safept v) else none
    | _ => none
  else none

/-! ### Strand units (10 R250, R256) -/

/-- The number of 32-bit words of the unit that begins with w0, from LEN (10 R250). -/
def unitWords (w0 : Nat) : Nat :=
  match w0 % 4 with
  | 0 => 1 | 1 => 2 | 2 => 3 | _ => 5

/-- Checks 2-4 of R256 on a first word. -/
def firstWordErr (w0 : Nat) : Option DecodeErr :=
  let maj := fld w0 4 7
  if w0 = 0 then some .zeroWord
  else if bitAt w0 3 then if w0 % 4 = 0 then some .orphanFirst else some .badLength
  else
    match w0 % 4 with
    | 0 => if 0x01 ≤ maj ∧ maj ≤ 0x6f then none else some .badLength
    | 1 => if maj = 0x7f then none else some .badLength
    | 2 => if 0x78 ≤ maj ∧ maj ≤ 0x7e then none else some .badLength
    | _ => if 0x78 ≤ maj ∧ maj ≤ 0x7d then none else some .badLength

/-- An answer or ILLEGAL. -/
def orIllegal (r : Option Instr) : Except DecodeErr Instr :=
  match r with
  | some i => .ok i
  | none => .error .illegal

/-- The instruction of a strand unit, given all its words (10 R256 checks 2-7). -/
def decodeStrand (ws : List Nat) : Except DecodeErr Instr :=
  match ws with
  | [] => .error .truncated
  | w0 :: rest =>
    match firstWordErr w0 with
    | some e => .error e
    | none =>
      match w0 % 4, rest with
      | 0, _ => orIllegal (decBase w0)
      | 1, w1 :: _ =>
        if !bitAt w1 3 then .error .orphanPrefix
        else if w1 % 4 ≠ 0 ∨ ¬ (0x30 ≤ fld w1 4 7 ∧ fld w1 4 7 ≤ 0x65) then .error .badPrefixBase
        else if bitAt w0 2 then .error .illegal
        else orIllegal (decPrefixed w0 w1)
      | 2, w1 :: w2 :: _ =>
        if fld w0 4 7 = 0x7e then orIllegal (decLitf w0 (BitVec.ofNat 64 (w1 + w2 * 2 ^ 32)))
        else orIllegal (decExt ⟨w0, w1, w2, none⟩)
      | 3, w1 :: w2 :: l0 :: l1 :: _ =>
        orIllegal (decExt ⟨w0, w1, w2, some (BitVec.ofNat 64 (l0 + l1 * 2 ^ 32))⟩)
      | _, _ => .error .truncated

/-- The C bit of a unit: the base word's, in a prefix unit (10 R251). -/
def unitC (ws : List Nat) : Bool :=
  match ws with
  | [] => false
  | w0 :: rest => if w0 % 4 = 1 then (match rest with | w1 :: _ => bitAt w1 2 | [] => false) else bitAt w0 2

/-! ### Control words (10 R265, R266) -/

/-- The kinds of control word: no result, fixed latency, variable latency (15 R374). -/
inductive CKind where | n | f | v
  deriving DecidableEq, Repr

/-- The instruction an OP names (10 R266). -/
noncomputable def ccOf (op : Nat) (c : CW) : Option Instr :=
  match op with
  | 0x01 => some (.ccAdd c)
  | 0x02 => some (.ccSub c)
  | 0x03 => some (.ccMul c)
  | 0x04 => some (.ccMulh c)
  | 0x05 => some (.ccMulhn c)
  | 0x06 => some (.ccDiv c)
  | 0x07 => some (.ccDivn c)
  | 0x08 => some (.ccRem c)
  | 0x09 => some (.ccRemn c)
  | 0x0a => some (.ccAnd c)
  | 0x0b => some (.ccOr c)
  | 0x0c => some (.ccXor c)
  | 0x0d => some (.ccShl c)
  | 0x0e => some (.ccShr c)
  | 0x0f => some (.ccSha c)
  | 0x10 => some (.ccSlt c)
  | 0x11 => some (.ccSltn c)
  | 0x12 => some (.ccMin c)
  | 0x13 => some (.ccMax c)
  | 0x14 => some (.ccMinn c)
  | 0x15 => some (.ccMaxn c)
  | 0x16 => some (.ccClz c)
  | 0x17 => some (.ccCtz c)
  | 0x18 => some (.ccPopc c)
  | 0x19 => some (.ccLea c)
  | 0x1a => some (.ccLit c)
  | 0x20 => some (.ccLd c)
  | 0x21 => some (.ccSt c)
  | 0x22 => some (.ccLda c)
  | 0x23 => some (.ccStl c)
  | 0x24 => some (.ccAmo c)
  | 0x25 => some (.ccAmocas c)
  | 0x26 => some (.ccFamo c)
  | 0x27 => some (.ccFence c)
  | 0x30 => some (.ccFadd c)
  | 0x31 => some (.ccFsub c)
  | 0x32 => some (.ccFmul c)
  | 0x33 => some (.ccFdiv c)
  | 0x34 => some (.ccFsqrt c)
  | 0x35 => some (.ccFmin c)
  | 0x36 => some (.ccFmax c)
  | 0x37 => some (.ccFfma c)
  | 0x38 => some (.ccFcmp c)
  | 0x39 => some (.ccFcvt c)
  | 0x3a => some (.ccFclass c)
  | 0x40 => some (.ccBeq c)
  | 0x41 => some (.ccBne c)
  | 0x42 => some (.ccBlt c)
  | 0x43 => some (.ccBge c)
  | 0x44 => some (.ccBltn c)
  | 0x45 => some (.ccBgen c)
  | 0x46 => some (.ccJal c)
  | 0x47 => some (.ccJalr c)
  | 0x50 => some (.ccCsrr c)
  | 0x51 => some (.ccCsrw c)
  | 0x52 => some (.ccCsrs c)
  | 0x53 => some (.ccCsrc c)
  | 0x54 => some (.ccTrap c)
  | 0x55 => some (.ccEret c)
  | 0x56 => some (.ccDone c)
  | 0x57 => some (.ccNop c)
  | 0x58 => some (.ccSafept c)
  | 0x60 => some (.ccSemtas c)
  | 0x61 => some (.ccSemtry c)
  | 0x62 => some (.ccSemset c)
  | 0x63 => some (.ccSemclr c)
  | 0x64 => some (.ccBoxr c)
  | 0x65 => some (.ccBoxw c)
  | 0x66 => some (.ccBar c)
  | 0x67 => some (.ccMwait c)
  | 0x68 => some (.ccWmpub c)
  | 0x69 => some (.ccTkpost c)
  | 0x6a => some (.ccTktake c)
  | 0x6b => some (.ccCapstart c)
  | 0x6c => some (.ccCapstop c)
  | 0x6d => some (.ccSample c)
  | 0x70 => some (.ccXcopy c)
  | 0x71 => some (.ccXstat c)
  | 0x72 => some (.ccXwait c)
  | 0x73 => some (.ccWalk c)
  | 0x74 => some (.ccBin c)
  | 0x75 => some (.ccLaunch c)
  | 0x78 => some (.ccMsend c)
  | 0x79 => some (.ccMpost c)
  | 0x7a => some (.ccMprobe c)
  | 0x7b => some (.ccMtest c)
  | 0x7c => some (.ccMcancel c)
  | 0x7d => some (.ccStchk c)
  | 0x7e => some (.ccStkeep c)
  | 0x7f => some (.ccStdrop c)
  | 0x80 => some (.mma c)
  | 0x81 => some (.mmaz c)
  | 0x82 => some (.mmag c)
  | 0x83 => some (.scacc c)
  | 0x84 => some (.accld c)
  | 0x85 => some (.accst c)
  | 0x86 => some (.acccvt c)
  | 0x87 => some (.acczero c)
  | 0x88 => some (.hgemv c)
  | 0x89 => some (.hprep c)
  | 0x8a => some (.seqw c)
  | 0x8b => some (.seqwait c)
  | _ => none

/-- The OP of a control word. -/
def opOf : Instr → Option (Nat × CW)
  | .ccAdd c => some (0x01, c)
  | .ccSub c => some (0x02, c)
  | .ccMul c => some (0x03, c)
  | .ccMulh c => some (0x04, c)
  | .ccMulhn c => some (0x05, c)
  | .ccDiv c => some (0x06, c)
  | .ccDivn c => some (0x07, c)
  | .ccRem c => some (0x08, c)
  | .ccRemn c => some (0x09, c)
  | .ccAnd c => some (0x0a, c)
  | .ccOr c => some (0x0b, c)
  | .ccXor c => some (0x0c, c)
  | .ccShl c => some (0x0d, c)
  | .ccShr c => some (0x0e, c)
  | .ccSha c => some (0x0f, c)
  | .ccSlt c => some (0x10, c)
  | .ccSltn c => some (0x11, c)
  | .ccMin c => some (0x12, c)
  | .ccMax c => some (0x13, c)
  | .ccMinn c => some (0x14, c)
  | .ccMaxn c => some (0x15, c)
  | .ccClz c => some (0x16, c)
  | .ccCtz c => some (0x17, c)
  | .ccPopc c => some (0x18, c)
  | .ccLea c => some (0x19, c)
  | .ccLit c => some (0x1a, c)
  | .ccLd c => some (0x20, c)
  | .ccSt c => some (0x21, c)
  | .ccLda c => some (0x22, c)
  | .ccStl c => some (0x23, c)
  | .ccAmo c => some (0x24, c)
  | .ccAmocas c => some (0x25, c)
  | .ccFamo c => some (0x26, c)
  | .ccFence c => some (0x27, c)
  | .ccFadd c => some (0x30, c)
  | .ccFsub c => some (0x31, c)
  | .ccFmul c => some (0x32, c)
  | .ccFdiv c => some (0x33, c)
  | .ccFsqrt c => some (0x34, c)
  | .ccFmin c => some (0x35, c)
  | .ccFmax c => some (0x36, c)
  | .ccFfma c => some (0x37, c)
  | .ccFcmp c => some (0x38, c)
  | .ccFcvt c => some (0x39, c)
  | .ccFclass c => some (0x3a, c)
  | .ccBeq c => some (0x40, c)
  | .ccBne c => some (0x41, c)
  | .ccBlt c => some (0x42, c)
  | .ccBge c => some (0x43, c)
  | .ccBltn c => some (0x44, c)
  | .ccBgen c => some (0x45, c)
  | .ccJal c => some (0x46, c)
  | .ccJalr c => some (0x47, c)
  | .ccCsrr c => some (0x50, c)
  | .ccCsrw c => some (0x51, c)
  | .ccCsrs c => some (0x52, c)
  | .ccCsrc c => some (0x53, c)
  | .ccTrap c => some (0x54, c)
  | .ccEret c => some (0x55, c)
  | .ccDone c => some (0x56, c)
  | .ccNop c => some (0x57, c)
  | .ccSafept c => some (0x58, c)
  | .ccSemtas c => some (0x60, c)
  | .ccSemtry c => some (0x61, c)
  | .ccSemset c => some (0x62, c)
  | .ccSemclr c => some (0x63, c)
  | .ccBoxr c => some (0x64, c)
  | .ccBoxw c => some (0x65, c)
  | .ccBar c => some (0x66, c)
  | .ccMwait c => some (0x67, c)
  | .ccWmpub c => some (0x68, c)
  | .ccTkpost c => some (0x69, c)
  | .ccTktake c => some (0x6a, c)
  | .ccCapstart c => some (0x6b, c)
  | .ccCapstop c => some (0x6c, c)
  | .ccSample c => some (0x6d, c)
  | .ccXcopy c => some (0x70, c)
  | .ccXstat c => some (0x71, c)
  | .ccXwait c => some (0x72, c)
  | .ccWalk c => some (0x73, c)
  | .ccBin c => some (0x74, c)
  | .ccLaunch c => some (0x75, c)
  | .ccMsend c => some (0x78, c)
  | .ccMpost c => some (0x79, c)
  | .ccMprobe c => some (0x7a, c)
  | .ccMtest c => some (0x7b, c)
  | .ccMcancel c => some (0x7c, c)
  | .ccStchk c => some (0x7d, c)
  | .ccStkeep c => some (0x7e, c)
  | .ccStdrop c => some (0x7f, c)
  | .mma c => some (0x80, c)
  | .mmaz c => some (0x81, c)
  | .mmag c => some (0x82, c)
  | .scacc c => some (0x83, c)
  | .accld c => some (0x84, c)
  | .accst c => some (0x85, c)
  | .acccvt c => some (0x86, c)
  | .acczero c => some (0x87, c)
  | .hgemv c => some (0x88, c)
  | .hprep c => some (0x89, c)
  | .seqw c => some (0x8a, c)
  | .seqwait c => some (0x8b, c)
  | _ => none

/-- The kind of an OP (10 R266, 15 R374). -/
def kindOf (op : Nat) : CKind :=
  match op with
  | 0x21 | 0x23 | 0x27 | 0x40 | 0x41 | 0x42 | 0x43 | 0x44 | 0x45 | 0x54 | 0x55 | 0x56 | 0x57 | 0x58 | 0x62 | 0x63 | 0x65 | 0x66 | 0x68 | 0x69 | 0x6b | 0x6c | 0x6d | 0x72 | 0x73 | 0x74 | 0x75 | 0x78 | 0x79 | 0x7e | 0x7f | 0x80 | 0x81 | 0x82 | 0x83 | 0x84 | 0x85 | 0x86 | 0x87 | 0x88 | 0x89 | 0x8a | 0x8b => .n
  | 0x06 | 0x07 | 0x08 | 0x09 | 0x20 | 0x22 | 0x24 | 0x25 | 0x26 | 0x33 | 0x34 | 0x60 | 0x61 | 0x67 | 0x6a | 0x70 | 0x71 | 0x7a | 0x7b | 0x7c | 0x7d => .v
  | _ => .f

/-- The source fields A, B, C. -/
structure CSrcs where
  a : Bool
  b : Bool
  c : Bool
  deriving DecidableEq, Repr

/-- Which source fields an OP reads: A, B, C (15 R381, R350, R384-R398). For the OPs whose C field carries a code, or
whose form decides, see `ccSourcesOk`. -/
def ccReads (op : Nat) : CSrcs :=
  match op with
  | 0x16 | 0x17 | 0x18 => ⟨true, false, false⟩
  | 0x1a => ⟨false, false, false⟩
  | 0x20 | 0x22 => ⟨true, false, true⟩
  | 0x21 | 0x23 | 0x24 | 0x25 | 0x26 => ⟨true, true, true⟩
  | 0x27 => ⟨false, false, false⟩
  | 0x34 | 0x39 | 0x3a => ⟨true, false, false⟩
  | 0x37 => ⟨true, true, true⟩
  | 0x46 => ⟨false, false, false⟩
  | 0x47 => ⟨true, false, false⟩
  | 0x50 => ⟨false, false, false⟩
  | 0x51 | 0x52 | 0x53 => ⟨true, false, false⟩
  | 0x54 | 0x55 | 0x56 | 0x57 | 0x58 => ⟨false, false, false⟩
  | 0x60 | 0x61 | 0x62 | 0x63 | 0x64 | 0x66 | 0x6b => ⟨false, false, false⟩
  | 0x65 | 0x68 | 0x6a | 0x6c | 0x6d => ⟨true, false, false⟩
  | 0x67 => ⟨true, true, true⟩
  | 0x71 => ⟨false, false, false⟩
  | 0x74 | 0x75 => ⟨true, false, false⟩
  | 0x78 => ⟨true, true, true⟩
  | 0x79 | 0x7a | 0x7b | 0x7c => ⟨true, false, false⟩
  | 0x7d | 0x7e => ⟨true, true, true⟩
  | 0x7f => ⟨false, false, true⟩
  | 0x82 => ⟨true, true, true⟩
  | 0x87 => ⟨false, false, false⟩
  | 0x89 => ⟨true, false, false⟩
  | 0x80 | 0x81 | 0x86 | 0x88 => ⟨true, true, true⟩
  | _ => ⟨true, true, false⟩

/-- A source value 0-49; 49 reads IMM17, and is refused in the OPs 0x30-0x3A and 0x80-0x8B (10 R265, R266, 15 R384). -/
def srcOk (v : Nat) (imm : Bool) : Bool := v < 49 || (v == 49 && imm)

/-- TI and SCOPE in C for the memory OPs: SCOPE 0 for LD and ST; the atomics need width 4 or 8 (10 R266, 14 R350). -/
def ccMemCode (op c : Nat) : Bool :=
  match op with
  | 0x20 | 0x21 => c < 8
  | 0x24 | 0x25 => c < 40 && 4 ≤ c % 8
  | 0x26 => c < 40 && (c % 8 == 4 || c % 8 == 6)
  | _ => c < 40

/-- Check 3 of R265: D and the source fields. -/
def ccSourcesOk (op : Nat) (c : CW) : Bool :=
  let u := ccReads op
  let imm := !((0x30 ≤ op && op ≤ 0x3A) || (0x80 ≤ op && op ≤ 0x8B))
  let a := c.a.toNat
  let b := c.b.toNat
  let cc := c.c.toNat
  (if kindOf op == .n then c.d.toNat == 63 else c.d.toNat < 32 || c.d.toNat == 63) &&
  (if u.a then srcOk a imm else a == 48) && (if u.b then srcOk b imm else b == 48) &&
  (if 0x20 ≤ op && op ≤ 0x26 then ccMemCode op cc else if u.c then srcOk cc imm else cc == 48)

/-- Check 4 of R265: TALLOC is 0 unless the kind is V; a SEMTAS, MWAIT or TKTAKE must name a tag (15 R375). -/
def ccTimingOk (op : Nat) (c : CW) : Bool :=
  (kindOf op == .v || c.talloc == 0) && (!(op == 0x60 || op == 0x67 || op == 0x6a) || c.talloc != 0)

/-- What an OP requires of IMM17: the codes it carries are assigned ones, and the bits that its rule says are zero are zero
(10 R266, 14 R348, R350, 15 R381-R398). -/
def ccImmOk (op : Nat) (c : CW) : Bool :=
  let i := c.imm.toNat
  let eng (i : Nat) : Bool := (decScope (fld i 3 3)).isSome && (!(bitAt i 6) || (2 ≤ fld i 7 4 && fld i 7 4 ≤ 8))
  match op with
  | 0x22 | 0x23 | 0x55 | 0x56 | 0x57 => i == 0
  | 0x24 => i % 16 < 7
  | 0x26 => i % 4 < 3
  | 0x27 => (decScope (i % 8)).isSome && fld i 3 5 != 0
  | 0x30 | 0x31 | 0x32 | 0x33 | 0x34 | 0x35 | 0x36 | 0x37 | 0x3a => (decFTy i).isSome
  | 0x38 => (decFTy (i % 8)).isSome && fld i 3 3 < 4 && i < 64
  | 0x39 =>
    (decSType (i % 8)).isSome && (decSType (fld i 6 3)).isSome && (2 ≤ i % 8 || 2 ≤ fld i 6 3) && fld i 3 3 == 0 && i < 512
  | 0x54 => i < 65536
  | 0x66 => (decScope (i % 8)).isSome
  | 0x68 => (decScope (fld i 8 3)).isSome
  | 0x70 => fld i 3 3 < 4
  | 0x71 => eng i
  | 0x72 => eng i && !(bitAt i 6 && bitAt i 11)
  | 0x73 | 0x74 => (decScope (fld i 3 3)).isSome
  | 0x7f => i % 4 < 3
  | 0x80 | 0x81 | 0x82 =>
    fld i 15 2 == 0 &&
      (if fld i 4 2 == 3 then fld i 7 3 != 7 && fld i 10 3 != 7 && fld i 13 2 != 3 && (op == 0x82 || c.c == 48) else true)
  | 0x83 => i < 256 && i % 16 != fld i 4 4
  | 0x84 | 0x85 => i < 16
  | 0x86 =>
    fld i 4 3 < 4 && fld i 14 3 == 0 &&
      (if fld i 4 3 == 3 then fld i 9 3 != 7 && fld i 12 2 != 3 else c.c == 48)
  | 0x88 => i < 32
  | 0x89 => i == 0
  | 0x8a => i < 4
  | 0x8b =>
    if bitAt i 3 then i % 8 < 5 && 2 ≤ fld i 4 4 && fld i 4 4 ≤ 8 && c.a == 48 else i % 8 < 5
  | _ => true

/-- The fields of a control word. -/
def cwFields (w : Nat) : CW :=
  { d := bvAt 6 w 10, a := bvAt 6 w 16, b := bvAt 6 w 22, c := bvAt 6 w 28, stall := bvAt 3 w 34, talloc := bvAt 3 w 37,
    twait := bvAt 7 w 40, imm := bvAt 17 w 47 }

/-- A control word (10 R265): LEN, OP, D and sources, then STALL, TALLOC and TWAIT. Every failure traps ILLEGAL. -/
noncomputable def decodeControl (w : Nat) : Except DecodeErr Instr :=
  if w % 4 ≠ 1 then .error .badLength
  else
    let op := fld w 2 8
    let c := cwFields w
    match ccOf op c with
    | none => .error .illegal
    | some i => if ccSourcesOk op c && ccImmOk op c && ccTimingOk op c then .ok i else .error .illegal

/-! ### Walker words (10 R267, 16 R402-R410) -/

/-- A walker word: a set unused field, or an unassigned op, halts with ILLEGAL. -/
def decWalker (w : Nat) : Option Instr :=
  let d : WReg := bvAt 4 w 6
  let a : WReg := bvAt 4 w 10
  let b : WReg := bvAt 4 w 14
  let imm : BitVec 14 := bvAt 14 w 18
  let d0 := fld w 6 4 = 0
  let a0 := fld w 10 4 = 0
  let b0 := fld w 14 4 = 0
  let i0 := fld w 18 14 = 0
  match w % 64 with
  | 0x01 => if a0 ∧ b0 then some (.wli d imm) else none
  | 0x02 => if b0 ∧ i0 then some (.wmov d a) else none
  | 0x03 => if i0 then some (.wadd d a b) else none
  | 0x04 => if b0 then some (.waddi d a imm) else none
  | 0x05 => if i0 then some (.wsub d a b) else none
  | 0x06 => if b0 ∧ fld w 24 8 = 0 then some (.wshl d a (bvAt 6 w 18)) else none
  | 0x07 => if b0 ∧ fld w 24 8 = 0 then some (.wshr d a (bvAt 6 w 18)) else none
  | 0x08 => if i0 then some (.wand d a b) else none
  | 0x09 => if i0 then some (.wor d a b) else none
  | 0x0a => if fld w 20 12 = 0 then some (.wcmp (decWCond (fld w 18 2)) d a b) else none
  | 0x10 => if bitAt w 17 then none else some (.wld d a (bvAt 3 w 14) imm)
  | 0x11 => if i0 then some (.wldv d a b) else none
  | 0x12 => if i0 then some (.wbmp d a b) else none
  | 0x13 => if b0 ∧ i0 then some (.wffs d a) else none
  | 0x14 => if b0 ∧ i0 then some (.wpopc d a) else none
  | 0x20 => if d0 ∧ fld w 19 13 = 0 then some (.wemit (bitAt w 18) a b) else none
  | 0x21 => if d0 ∧ a0 ∧ b0 ∧ i0 then some .wrow else none
  | 0x22 => if d0 ∧ a0 ∧ b0 ∧ i0 then some .wflush else none
  | 0x30 => if d0 ∧ b0 then some (.wbr a imm) else none
  | 0x31 => if d0 ∧ a0 ∧ b0 then some (.wjmp imm) else none
  | 0x32 => if a0 ∧ b0 then some (.wloop d imm) else none
  | 0x3f => if d0 ∧ a0 ∧ b0 ∧ i0 then some .whalt else none
  | _ => none

/-- A walker word. -/
def decodeWalker (w : Nat) : Except DecodeErr Instr := orIllegal (decWalker w)

/-! ### Bytes -/

/-- The little-endian number of a list of bytes. -/
def leNat : List Byte → Nat
  | [] => 0
  | b :: bs => b.toNat + 256 * leNat bs

/-- The 32-bit words of a list of bytes, four bytes each; a part word at the end is dropped. -/
def wordsOf : List Byte → List Nat
  | a :: b :: c :: d :: rest => leNat [a, b, c, d] :: wordsOf rest
  | _ => []

/-- The low n bytes of w, lowest first. -/
def bytesOf : Nat → Nat → List Byte
  | 0, _ => []
  | n + 1, w => BitVec.ofNat 8 w :: bytesOf n (w / 256)

/-! ### The encoder -/

/-- MAJOR, P, C and LEN of a base word. -/
def lowBits (maj : Nat) (p c : Bool) : Nat := maj * 16 + bitOf p * 8 + bitOf c * 4

/-- SR, SI and like formats: bits 31:11 from their fields. -/
def encSR (maj fn : Nat) (xb xa xd : XReg) : Nat :=
  lowBits maj false false + xd.toNat * 2 ^ 11 + xa.toNat * 2 ^ 16 + xb.toNat * 2 ^ 21 + fn * 2 ^ 26
/-- SI format. -/
def encSI (maj : Nat) (imm : BitVec 11) (xa xd : XReg) : Nat :=
  lowBits maj false false + xd.toNat * 2 ^ 11 + xa.toNat * 2 ^ 16 + imm.toNat * 2 ^ 21

/-- A vector base word: T, the three bits above M, M, and three 5-bit fields. -/
def encV (maj t : Nat) (k : VCtl) (tp mp : Bool) (b a d : Nat) : Nat :=
  lowBits maj k.pfx.isSome k.c + d * 2 ^ 11 + a * 2 ^ 16 + b * 2 ^ 21 + bitOf k.m * 2 ^ 26 + bitOf mp * 2 ^ 27 +
    bitOf tp * 2 ^ 28 + t * 2 ^ 29

/-- The prefix word, when there is one, then the base word. -/
def withPfx (k : VCtl) (hd ha hb : Nat) (base : Nat) : List Nat :=
  match k.pfx with
  | none => [base]
  | some p =>
    [0x7f1 + hb * 2 ^ 11 + ha * 2 ^ 12 + hd * 2 ^ 13 + p.vc.toNat * 2 ^ 14 + p.mreg.toNat * 2 ^ 20 +
      bitOf p.mke * 2 ^ 26 + bitOf p.mz * 2 ^ 27 + bitOf p.sat * 2 ^ 28 + encRmo p.rmo * 2 ^ 29, base]

/-- The low five bits and the high bit of a vector register name. -/
def lo5 (v : VReg) : Nat := v.toNat % 32
/-- The high bit. -/
def hi1 (v : VReg) : Nat := v.toNat / 32

/-- A VR-format unit with three vector registers. -/
def encVR (maj t : Nat) (k : VCtl) (vb va vd : VReg) : List Nat :=
  withPfx k (hi1 vd) (hi1 va) (hi1 vb) (encV maj t k k.tp k.mp (lo5 vb) (lo5 va) (lo5 vd))
/-- A VU-format or VC-format unit: the five bits above va hold a code. -/
def encVU (maj t : Nat) (k : VCtl) (fn : Nat) (va vd : VReg) : List Nat :=
  withPfx k (hi1 vd) (hi1 va) 0 (encV maj t k k.tp k.mp fn (lo5 va) (lo5 vd))
/-- A reduction: vd names a scalar register. -/
def encVS (maj t : Nat) (k : VCtl) (fn : Nat) (va : VReg) (xd : XReg) : List Nat :=
  withPfx k 0 (hi1 va) 0 (encV maj t k k.tp k.mp fn (lo5 va) xd.toNat)
/-- A VM-format unit with a scalar or immediate OPR. -/
def encVM (maj t : Nat) (k : VCtl) (opr : Nat) (xa : XReg) (vd : VReg) : List Nat :=
  withPfx k (hi1 vd) 0 0 (encV maj t k k.tp k.mp opr xa.toNat (lo5 vd))
/-- A VM-format unit with an index vector. -/
def encVX (maj t : Nat) (k : VCtl) (vb : VReg) (xa : XReg) (vd : VReg) : List Nat :=
  withPfx k (hi1 vd) 0 (hi1 vb) (encV maj t k k.tp k.mp (lo5 vb) xa.toNat (lo5 vd))
/-- A unit with no vector register in va and vb. -/
def encVO (maj t : Nat) (k : VCtl) (b a : Nat) (vd : VReg) : List Nat :=
  withPfx k (hi1 vd) 0 0 (encV maj t k k.tp k.mp b a (lo5 vd))
/-- A compare: bits 28:27 hold the condition. -/
def encVCmp (maj t cond : Nat) (k : VCtl) (vb va vd : VReg) : List Nat :=
  withPfx k (hi1 vd) (hi1 va) (hi1 vb)
    (encV maj t k (cond / 2 == 1) (cond % 2 == 1) (lo5 vb) (lo5 va) (lo5 vd))

/-- The A field and the literal words of an extended unit. -/
def aoField : AOp → Nat
  | .reg r => r.toNat
  | .lit _ => 0
/-- LEN of an extended unit. -/
def aoLen : AOp → Nat
  | .reg _ => 2
  | .lit _ => 3
/-- The literal's two words. -/
def aoLit : AOp → List Nat
  | .reg _ => []
  | .lit v => [v.toNat % 2 ^ 32, v.toNat / 2 ^ 32]

/-- Word 0 of an extended unit. -/
def encX0 (maj fn a d : Nat) (c : Bool) (len : Nat) : Nat :=
  maj * 16 + bitOf c * 4 + len + fn * 2 ^ 11 + d * 2 ^ 19 + a * 2 ^ 25
/-- Word 1 of an extended unit. -/
def encX1 (opt sc tmm t k q b : Nat) : Nat :=
  b + q * 2 ^ 6 + k * 2 ^ 12 + t * 2 ^ 18 + tmm * 2 ^ 21 + sc * 2 ^ 24 + opt * 2 ^ 27
/-- TP, MP and M of an extended vector unit. -/
def encTmm (e : ECtl) : Nat := bitOf e.tp * 4 + bitOf e.mp * 2 + bitOf e.m
/-- A strand-core extended unit. -/
def encXS (maj fn : Nat) (a : AOp) (d : Nat) (w1 w2 : Nat) : List Nat :=
  [encX0 maj fn (aoField a) d false (aoLen a), w1, w2] ++ aoLit a
/-- IMM32 of an atomic. -/
def encAmoCtl (q : AmoCtl) : Nat := bitOf q.w64 + bitOf q.aq * 2 + bitOf q.rl * 4 + bitOf q.remote * 8
/-- IMM32 of a messaging command with an endpoint. -/
def encEp : Option (BitVec 14) → Nat
  | none => 0
  | some e => e.toNat + 2 ^ 31
/-- IMM32 naming a channel or an engine. -/
def encXSrc : XSrc → Nat
  | .chan c => c.toNat
  | .eng e => e.toNat * 256
/-- OPT naming an engine. -/
def optXSrc : XSrc → Nat
  | .chan _ => 0
  | .eng _ => 2

/-- The 64 bits of a control word. -/
def encCW (op : Nat) (c : CW) : Nat :=
  1 + op * 4 + c.d.toNat * 2 ^ 10 + c.a.toNat * 2 ^ 16 + c.b.toNat * 2 ^ 22 + c.c.toNat * 2 ^ 28 + c.stall.toNat * 2 ^ 34 +
    c.talloc.toNat * 2 ^ 37 + c.twait.toNat * 2 ^ 40 + c.imm.toNat * 2 ^ 47

/-- A walker word from its fields. -/
def encW (op d a b imm : Nat) : Nat := op + d * 2 ^ 6 + a * 2 ^ 10 + b * 2 ^ 14 + imm * 2 ^ 18

/-- The 32-bit words of a strand instruction (10 R253-R264), of a control word (low word first) or of a walker word.
An event has none. -/
def encode : Instr → List Nat
  | .add d a b => [encSR 0x01 0 b a d]
  | .sub d a b => [encSR 0x01 1 b a d]
  | .mul d a b => [encSR 0x01 2 b a d]
  | .mulh d a b => [encSR 0x01 3 b a d]
  | .mulhn d a b => [encSR 0x01 4 b a d]
  | .div d a b => [encSR 0x01 5 b a d]
  | .divn d a b => [encSR 0x01 6 b a d]
  | .rem d a b => [encSR 0x01 7 b a d]
  | .remn d a b => [encSR 0x01 8 b a d]
  | .and d a b => [encSR 0x01 9 b a d]
  | .or d a b => [encSR 0x01 10 b a d]
  | .xor d a b => [encSR 0x01 11 b a d]
  | .shl d a b => [encSR 0x01 12 b a d]
  | .shr d a b => [encSR 0x01 13 b a d]
  | .sha d a b => [encSR 0x01 14 b a d]
  | .slt d a b => [encSR 0x01 15 b a d]
  | .sltn d a b => [encSR 0x01 16 b a d]
  | .min d a b => [encSR 0x01 17 b a d]
  | .max d a b => [encSR 0x01 18 b a d]
  | .minn d a b => [encSR 0x01 19 b a d]
  | .maxn d a b => [encSR 0x01 20 b a d]
  | .clz d a => [encSR 0x01 21 0 a d]
  | .ctz d a => [encSR 0x01 22 0 a d]
  | .popc d a => [encSR 0x01 23 0 a d]
  | .leaIndexed d a b => [encSR 0x01 24 b a d]
  | .addi d a i => [encSI 0x02 i a d]
  | .andi d a i => [encSI 0x03 i a d]
  | .ori d a i => [encSI 0x04 i a d]
  | .xori d a i => [encSI 0x05 i a d]
  | .shli d a s => [encSI 0x06 (s.zeroExtend 11) a d]
  | .shri d a s => [encSI 0x07 (s.zeroExtend 11) a d]
  | .shai d a s => [encSI 0x08 (s.zeroExtend 11) a d]
  | .slti d a i => [encSI 0x09 i a d]
  | .sltni d a i => [encSI 0x0a i a d]
  | .lea d a i => [encSI 0x0b i a d]
  | .ld ti d a o => [lowBits 0x0c false false + d.toNat * 2 ^ 11 + a.toNat * 2 ^ 16 + encTI ti * 2 ^ 21 + o.toNat * 2 ^ 24]
  | .st ti d a o => [lowBits 0x0d false false + d.toNat * 2 ^ 11 + a.toNat * 2 ^ 16 + encTI ti * 2 ^ 21 + o.toNat * 2 ^ 24]
  | .ldIndexed ti d a b => [encSR 0x0e (encTI ti) b a d]
  | .stIndexed ti d a b => [encSR 0x0e (32 + encTI ti) b a d]
  | .lda ti sc d a => [encSR 0x0f (encScope sc + encTI ti * 8) 0 a d]
  | .stl ti sc d a => [encSR 0x10 (encScope sc + encTI ti * 8) 0 a d]
  | .fadd f d a b => [encSR 0x11 (0 + encFTy f * 8) b a d]
  | .fsub f d a b => [encSR 0x11 (1 + encFTy f * 8) b a d]
  | .fmul f d a b => [encSR 0x11 (2 + encFTy f * 8) b a d]
  | .fdiv f d a b => [encSR 0x11 (3 + encFTy f * 8) b a d]
  | .fmin f d a b => [encSR 0x11 (4 + encFTy f * 8) b a d]
  | .fmax f d a b => [encSR 0x11 (5 + encFTy f * 8) b a d]
  | .fsqrt f d a => [encSR 0x11 (6 + encFTy f * 8) 0 a d]
  | .fclass f d a => [encSR 0x11 (7 + encFTy f * 8) 0 a d]
  | .ffma f d a b => [encSR 0x12 (encFTy f * 8) b a d]
  | .fcmp c f d a b => [encSR 0x13 (encFCond c + encFTy f * 8) b a d]
  | .fcvt dt st d a => [encSR 0x14 (encSType st + encSType dt * 8) 0 a d]
  | .beq a b disp => [encSI 0x20 disp b a]
  | .bne a b disp => [encSI 0x21 disp b a]
  | .blt a b disp => [encSI 0x22 disp b a]
  | .bge a b disp => [encSI 0x23 disp b a]
  | .bltn a b disp => [encSI 0x24 disp b a]
  | .bgen a b disp => [encSI 0x25 disp b a]
  | .jal d i => [lowBits 0x26 false false + d.toNat * 2 ^ 11 + i.toNat * 2 ^ 16]
  | .jalr d a i => [encSI 0x27 i a d]
  | .csrr d num => [lowBits 0x28 false false + d.toNat * 2 ^ 11 + 0 * 2 ^ 16 + num.toNat * 2 ^ 20]
  | .csrw d num => [lowBits 0x28 false false + d.toNat * 2 ^ 11 + 1 * 2 ^ 16 + num.toNat * 2 ^ 20]
  | .csrs d num => [lowBits 0x28 false false + d.toNat * 2 ^ 11 + 2 * 2 ^ 16 + num.toNat * 2 ^ 20]
  | .csrc d num => [lowBits 0x28 false false + d.toNat * 2 ^ 11 + 3 * 2 ^ 16 + num.toNat * 2 ^ 20]
  | .trap c => [lowBits 0x29 false false + c.toNat * 2 ^ 16]
  | .eret => [lowBits 0x29 false false + 1 * 2 ^ 11]
  | .done => [lowBits 0x29 false false + 2 * 2 ^ 11]
  | .nop => [lowBits 0x29 false false + 3 * 2 ^ 11]
  | .vcfg d s n => [lowBits 0x2a false false + d.toNat * 2 ^ 11 + n.toNat * 2 ^ 16 + encSew s * 2 ^ 18]
  | .setvl d a => [encSR 0x2b 0 0 a d]
  | .setvli d i => [lowBits 0x2c false false + d.toNat * 2 ^ 11 + i.toNat * 2 ^ 16]
  | .lit d v => [lowBits 0x7e false false + 2 + d.toNat * 2 ^ 11, v.toNat % 2 ^ 32, v.toNat / 2 ^ 32]
  | .safept v => [lowBits 0x7e false false + 2 + 2 ^ 26, v.toNat % 2 ^ 32, v.toNat / 2 ^ 32]
  | .semtas s => [lowBits 0x68 false false + s.toNat * 2 ^ 23 + 0 * 2 ^ 29]
  | .semtry d s => [lowBits 0x68 false false + d.toNat * 2 ^ 11 + s.toNat * 2 ^ 23 + 1 * 2 ^ 29]
  | .semset s => [lowBits 0x68 false false + s.toNat * 2 ^ 23 + 2 * 2 ^ 29]
  | .semclr s => [lowBits 0x68 false false + s.toNat * 2 ^ 23 + 3 * 2 ^ 29]
  | .boxr d b => [lowBits 0x69 false false + d.toNat * 2 ^ 11 + b.toNat * 2 ^ 25]
  | .boxw b a => [lowBits 0x69 false false + a.toNat * 2 ^ 16 + b.toNat * 2 ^ 25 + 1 * 2 ^ 29]
  | .bar sc => [lowBits 0x6a false false + encScope sc * 2 ^ 29]
  | .fence sc k => [lowBits 0x6b false false + k.toNat * 2 ^ 24 + encScope sc * 2 ^ 29]
  | .capstart => [lowBits 0x6c false false]
  | .capstop a => [lowBits 0x6c false false + a.toNat * 2 ^ 16 + 1 * 2 ^ 29]
  | .sample a => [lowBits 0x6c false false + a.toNat * 2 ^ 16 + 2 * 2 ^ 29]
  | .vadd k t d a b => encVR 0x30 (encITy t) k b a d
  | .vsub k t d a b => encVR 0x31 (encITy t) k b a d
  | .vmul k t d a b => encVR 0x32 (encITy t) k b a d
  | .vmulh k t d a b => encVR 0x33 (encITy t) k b a d
  | .vmadd k t d a b => encVR 0x34 (encITy t) k b a d
  | .vmin k t d a b => encVR 0x35 (encITy t) k b a d
  | .vmax k t d a b => encVR 0x36 (encITy t) k b a d
  | .vand k d a b => encVR 0x37 0 k b a d
  | .vor k d a b => encVR 0x37 1 k b a d
  | .vxor k d a b => encVR 0x37 2 k b a d
  | .vshl k d a b => encVR 0x37 3 k b a d
  | .vsha k d a b => encVR 0x38 0 k b a d
  | .vshr k d a b => encVR 0x38 1 k b a d
  | .vsadd k t d a b => encVR 0x39 (encITy t) k b a d
  | .vssub k t d a b => encVR 0x3a (encITy t) k b a d
  | .vavg k t d a b => encVR 0x3b (encITy t) k b a d
  | .vabs k d a => encVU 0x3c 0 k 0 a d
  | .vneg k t d a => encVU 0x3c (encITy t) k 1 a d
  | .vfadd k t d a b => encVR 0x3d (encFTy t) k b a d
  | .vfsub k t d a b => encVR 0x3e (encFTy t) k b a d
  | .vfmul k t d a b => encVR 0x3f (encFTy t) k b a d
  | .vfdiv k t d a b => encVR 0x40 (encFTy t) k b a d
  | .vffma k t d a b => encVR 0x41 (encFTy t) k b a d
  | .vffms k t d a b => encVR 0x42 (encFTy t) k b a d
  | .vfnma k t d a b => encVR 0x43 (encFTy t) k b a d
  | .vfmin k t d a b => encVR 0x44 (encFTy t) k b a d
  | .vfmax k t d a b => encVR 0x45 (encFTy t) k b a d
  | .vfsqrt k f d a => encVU 0x46 (encFTy f) k 0 a d
  | .vfabs k f d a => encVU 0x46 (encFTy f) k 1 a d
  | .vfneg k f d a => encVU 0x46 (encFTy f) k 2 a d
  | .vfclass k f d a => encVU 0x46 (encFTy f) k 3 a d
  | .vfrcp k f d a => encVU 0x46 (encFTy f) k 4 a d
  | .vfrsq k f d a => encVU 0x46 (encFTy f) k 5 a d
  | .vfexp2 k f d a => encVU 0x46 (encFTy f) k 6 a d
  | .vflog2 k f d a => encVU 0x46 (encFTy f) k 7 a d
  | .vfsinpi k f d a => encVU 0x46 (encFTy f) k 8 a d
  | .vfcospi k f d a => encVU 0x46 (encFTy f) k 9 a d
  | .vcmp k c t d a b => encVCmp 0x47 (encITy t) (encICond c) k b a d
  | .vfcmp k c f d a b => encVCmp 0x48 (encFTy f) (encFCond c) k b a d
  | .mand k d a b => encVR 0x49 0 k b a d
  | .mor k d a b => encVR 0x49 1 k b a d
  | .mxor k d a b => encVR 0x49 2 k b a d
  | .mandn k d a b => encVR 0x49 3 k b a d
  | .mpopc k d a => encVS 0x49 4 k 0 a d
  | .mfirst k d a => encVS 0x49 5 k 0 a d
  | .vmerge k t d a b => encVR 0x4a (encElTy t) k b a d
  | .vcvt k dt st d a => encVU 0x4b (encElTy dt) k (0 + encElTy st * 4) a d
  | .vcvte k dt st d a => encVU 0x4b (encElTy dt) k (1 + encElTy st * 4) a d
  | .vwiden k dt st d a => encVU 0x4b (encElTy dt) k (2 + encElTy st * 4) a d
  | .vnarrow k dt st d a => encVU 0x4b (encElTy dt) k (3 + encElTy st * 4) a d
  | .vpack k m l d a => encVU 0x4c 6 k (encBlkLen l + m.toNat * 4) a d
  | .vunpack k m l d a => encVU 0x4d 4 k (encBlkLen l + m.toNat * 4) a d
  | .vscale k t d a b => encVR 0x4e (encFTy t) k b a d
  | .vscacc k t d a b => encVR 0x4f (encFTy t) k b a d
  | .vld k o a d => encVM 0x50 0 k o.toNat a d
  | .vlds k b a d => encVM 0x50 1 k b.toNat a d
  | .vldx k b a d => encVX 0x50 2 k b a d
  | .vldo k b a d => encVX 0x50 3 k b a d
  | .vprf k o a => encVO 0x50 4 k o.toNat a.toNat 0
  | .vprfStrided k b a => encVO 0x50 5 k b.toNat a.toNat 0
  | .vlda k sc o a d => encVM 0x51 (encScope sc) k o.toNat a d
  | .vst k o a d => encVM 0x52 0 k o.toNat a d
  | .vsts k b a d => encVM 0x52 1 k b.toNat a d
  | .vstx k b a d => encVX 0x52 2 k b a d
  | .vstxo k b a d => encVX 0x52 3 k b a d
  | .vstl k sc o a d => encVM 0x53 (encScope sc) k o.toNat a d
  | .vrld k b a d => encVX 0x54 0 k b a d
  | .vrst k b a d => encVX 0x54 1 k b a d
  | .vrstOrd k b a d => encVX 0x54 2 k b a d
  | .vfgath k b a d => encVX 0x54 3 k b a d
  | .vfscat k b a d => encVX 0x54 4 k b a d
  | .tld k o a d => encVM 0x55 0 k o.toNat a d
  | .tst k o a d => encVM 0x55 1 k o.toNat a d
  | .trot k b a => encVO 0x55 2 k b.toNat a.toNat 0
  | .tfill k o a b => withPfx k 0 0 0 (encV 0x55 3 k k.tp k.mp o.toNat a.toNat b.toNat)
  | .vperm k d a b => encVR 0x60 0 k b a d
  | .vslup k d a b => encVU 0x61 0 k b.toNat a d
  | .vsldn k d a b => encVU 0x61 1 k b.toNat a d
  | .vbcast k d b => encVO 0x61 2 k b.toNat 0 d
  | .vextr k d a b => encVS 0x61 3 k b.toNat a d
  | .vins k d a b => encVO 0x61 4 k b.toNat a.toNat d
  | .vidx k d => encVO 0x61 5 k 0 0 d
  | .vred k op t d a => encVS 0x62 (encITy t) k (encRedOp op) a d
  | .vfred k op f d a => encVS 0x63 (encFTy f) k (encFRedOp op) a d
  | .vscan k (.int op t) d a => encVU 0x64 (encITy t) k (encRedOp op) a d
  | .vscan k (.flt op f) d a => encVU 0x64 (encFTy f) k (encFRedOp op) a d
  | .vcomp k d a => encVU 0x65 0 k 0 a d
  | .vexpd k d a => encVU 0x65 0 k 1 a d
  | .vnzidx k t d a => encVU 0x65 (encElTy t) k 2 a d
  | .vtopk e nz t d q a xd n => [encX0 0x78 0 a.toNat d.toNat e.c 2, encX1 (bitOf nz) 0 (encTmm e) (encElTy t) e.mreg.toNat q.toNat xd.toNat, n.toNat]
  | .visect e t d a b xs xn => [encX0 0x78 1 a.toNat d.toNat e.c 2, encX1 0 0 (encTmm e) (encITy t) xn.toNat xs.toNat b.toNat, 0]
  | .xcopy sc d a b ch sem sv vl => encXS 0x79 0 a d.toNat (encX1 (bitOf sv + bitOf vl * 2) (encScope sc) 0 0 0 0 b.toNat) (ch.toNat + sem.toNat * 256)
  | .xchain a ch => encXS 0x79 1 a 0 0 ch.toNat
  | .xstat sc d src => encXS 0x79 2 (.reg 0) d.toNat (encX1 (optXSrc src) (encScope sc) 0 0 0 0 0) (encXSrc src)
  | .xwait sc a (.chan c) => encXS 0x79 3 a 0 (encX1 0 (encScope sc) 0 0 0 0 0) c.toNat
  | .xwait sc a (.lead c b) => encXS 0x79 3 a 0 (encX1 1 (encScope sc) 0 0 0 0 b.toNat) c.toNat
  | .xwait sc a (.eng e) => encXS 0x79 3 a 0 (encX1 2 (encScope sc) 0 0 0 0 0) (e.toNat * 256)
  | .bin sc a => encXS 0x79 4 a 0 (encX1 0 (encScope sc) 0 0 0 0 0) 0
  | .walk sc a b => encXS 0x79 5 a 0 (encX1 0 (encScope sc) 0 0 0 0 b.toNat) 0
  | .stchk d a b q => encXS 0x79 6 a d.toNat (encX1 0 0 0 0 0 q.toNat b.toNat) 0
  | .stkeep a b q => encXS 0x79 7 a 0 (encX1 0 0 0 0 0 q.toNat b.toNat) 0
  | .stdrop q m => encXS 0x79 8 (.reg 0) 0 (encX1 m.toNat 0 0 0 0 q.toNat 0) 0
  | .msend a b q ep => encXS 0x7a 0 a 0 (encX1 0 0 0 0 0 q.toNat b.toNat) (encEp ep)
  | .mpost a => encXS 0x7a 1 a 0 0 0
  | .mprobe d a => encXS 0x7a 2 a d.toNat 0 0
  | .mtest d a ep => encXS 0x7a 3 a d.toNat 0 (encEp ep)
  | .mcancel d a ep => encXS 0x7a 4 a d.toNat 0 (encEp ep)
  | .mwait d a b sz tr n => encXS 0x7b 0 a d.toNat (encX1 (sz.toNat + bitOf tr * 4) 0 0 0 0 0 b.toNat) n.toNat
  | .vwait e t z tr d q a b n => [encX0 0x7b 1 a.toNat d.toNat e.c 2, encX1 (bitOf z + bitOf tr * 4) 0 (encTmm e) (encITy t) e.mreg.toNat q.toNat b.toNat, n.toNat]
  | .wmpub sc a n => encXS 0x7b 2 a 0 (encX1 0 (encScope sc) 0 0 0 0 0) n.toNat
  | .wmchk d n => encXS 0x7b 3 (.reg 0) d.toNat 0 n.toNat
  | .tkpost a b => encXS 0x7b 4 a 0 (encX1 0 0 0 0 0 0 b.toNat) 0
  | .tktake d a => encXS 0x7b 5 a d.toNat 0 0
  | .launch a r => encXS 0x7b 6 a 0 0 r.toNat
  | .amo op t sc q d a b => encXS 0x7c 0 a d.toNat (encX1 (encAmoOp op) (encScope sc) 0 (encITy t) 0 0 b.toNat) (encAmoCtl q)
  | .amocas t sc q d a b xq => encXS 0x7c 1 a d.toNat (encX1 0 (encScope sc) 0 (encITy t) 0 xq.toNat b.toNat) (encAmoCtl q)
  | .famo op f sc q d a b => encXS 0x7c 2 a d.toNat (encX1 (encFRedOp op) (encScope sc) 0 (4 + bitOf f) 0 0 b.toNat) (encAmoCtl q)
  | .vamo e op t sc q d a b vq => [encX0 0x7c 3 a.toNat d.toNat e.c 2, encX1 (encAmoOp op) (encScope sc) (encTmm e) (encITy t) e.mreg.toNat vq.toNat b.toNat, encAmoCtl q]
  | .vamocas e t sc q d b a vq => [encX0 0x7c 4 a.toNat d.toNat e.c 2, encX1 0 (encScope sc) (encTmm e) (encITy t) e.mreg.toNat vq.toNat b.toNat, encAmoCtl q]
  | .wli d i => [encW 0x01 d.toNat 0 0 i.toNat]
  | .wmov d a => [encW 0x02 d.toNat a.toNat 0 0]
  | .wadd d a b => [encW 0x03 d.toNat a.toNat b.toNat 0]
  | .waddi d a i => [encW 0x04 d.toNat a.toNat 0 i.toNat]
  | .wsub d a b => [encW 0x05 d.toNat a.toNat b.toNat 0]
  | .wshl d a s => [encW 0x06 d.toNat a.toNat 0 s.toNat]
  | .wshr d a s => [encW 0x07 d.toNat a.toNat 0 s.toNat]
  | .wand d a b => [encW 0x08 d.toNat a.toNat b.toNat 0]
  | .wor d a b => [encW 0x09 d.toNat a.toNat b.toNat 0]
  | .wld d a z i => [encW 0x10 d.toNat a.toNat z.toNat i.toNat]
  | .wldv d a b => [encW 0x11 d.toNat a.toNat b.toNat 0]
  | .wbmp d a b => [encW 0x12 d.toNat a.toNat b.toNat 0]
  | .wffs d a => [encW 0x13 d.toNat a.toNat 0 0]
  | .wpopc d a => [encW 0x14 d.toNat a.toNat 0 0]
  | .wrow => [encW 0x21 0 0 0 0]
  | .wflush => [encW 0x22 0 0 0 0]
  | .wbr a i => [encW 0x30 0 a.toNat 0 i.toNat]
  | .wjmp i => [encW 0x31 0 0 0 i.toNat]
  | .wloop d i => [encW 0x32 d.toNat 0 0 i.toNat]
  | .whalt => [encW 0x3f 0 0 0 0]
  | .wcmp c d a b => [encW 0x0a d.toNat a.toNat b.toNat (encWCond c)]
  | .wemit x a b => [encW 0x20 0 a.toNat b.toNat (bitOf x)]
  | i =>
    match opOf i with
    | some (op, c) => [encCW op c % 2 ^ 32, encCW op c / 2 ^ 32]
    | none => []

/-! ### The host's decoding of a table word -/

/-- The instruction the decoders read from an instruction whose bits are w: 32 bits are a strand word, or a walker
word where no strand word has those bits; 64 bits are a prefix unit where the low bits are a prefix word's, and a
control word elsewhere; 96 and 160 bits are extended units (assumption log 7). The bits above nbits are 0. -/
noncomputable def decodeTableWord (nbits w : Nat) : Option Instr :=
  let strand (n : Nat) : Option Instr :=
    match decodeStrand (wordsOf (bytesOf (n * 4) w)) with
    | .ok i => if unitWords (w % 2 ^ 32) = n then some i else none
    | .error _ => none
  if nbits = 32 then
    match strand (unitWords (w % 2 ^ 32)) with
    | some i => some i
    | none => decWalker w
  else if nbits = 64 then
    if w % 2 ^ 11 = 0x7f1 then strand 2
    else match decodeControl w with
      | .ok i => some i
      | .error _ => none
  else strand (unitWords (w % 2 ^ 32))

end Sys2Proof
end

