-- ==== Sys2Proof/Config.lean ====
section
/-! DEFINITION. The free values: what the spec leaves open. Each constant has no body, so nothing can be proved of its
value; assumption log 2 lists them. -/

namespace Sys2Proof.Config

/-- A fresh free number: the counter `tick` of the state selects it. -/
opaque freeNat : Nat → Nat
/-- A fresh free word. -/
opaque freeWord : Nat → Word
/-- The directory entry that gives way when a sector is entered, as a place in the directory: counter, sector (04 R95). -/
opaque evictDir : Nat → Nat → Option Nat
/-- The sector that leaves an L1 when one is filled into it: counter, L1, sector (04 R93). -/
opaque evictL1 : Nat → Nat → Nat → Option Nat
/-- The context identifier of a thread when it starts, by the state's counter (03 R87). -/
opaque ctxId : Nat → Nat
/-- The 4 KiB page at which a save area lies, by the state's counter (06 R171). -/
opaque saveArea : Nat → Nat
/-- The physical address a supervisor address translates to; firmware decides it (04 R99). -/
opaque supXlate : Nat → Option Nat
/-- The bytes of a region's payload ring on a die, as its budget sizes it: region, die (06 R160). -/
opaque payloadRing : Nat → Nat → Nat
/-- The eager limit, in KiB, of the region that owns an endpoint of another module: module, endpoint (06 R163). -/
opaque remoteEager : Nat → Nat → Nat
/-- RSASSA verification of a firmware image's signature over SHA-512 (17 R433). -/
opaque rsaVerify : List Byte → Bool
/-- RSASSA-PSS verification of an owner's signature: owner key, message, signature (17 R438). -/
opaque pssVerify : List Byte → List Byte → List Byte → Bool
/-- RSASSA-PSS signature by the device identity key (17 R434). -/
opaque pssSign : List Byte → List Byte
/-- SHA-512 (17 R434, R435). -/
opaque sha512 : List Byte → List Byte
/-- RSA-OAEP decryption under the device identity key (17 R435). -/
opaque oaepDecrypt : List Byte → Option (List Byte)
/-- The security version an image carries (17 R433). -/
opaque fwVersion : List Byte → Nat
/-- The device certificate chain of a slot (17 R434). -/
opaque certChain : Nat → List Byte
/-- The SPDM 1.2 encoding of a response's fixed part, by request code (17 R434). -/
opaque spdmHeader : Nat → List Byte → List Byte
/-- What the fused configuration record holds beside the enabled clusters and spares of each die (01 R21, 17 R434). -/
opaque fusedRecord : List Byte

end Sys2Proof.Config
end

