-- ==== Sys2Proof/Machine/State.lean ====
section
/-! DEFINITION. The state of one module as plain data: every piece of state the spec names, the outcomes' reasons, and
the state right after reset. INVENTORY.md lists each field with its rule and reset value. -/

namespace Sys2Proof.Machine

/-- A sparse table: rising keys, each with its entry. An unlisted key has the table's default. -/
abbrev Tbl (α : Type) := List (Nat × α)

/-- Sparse bytes: rising addresses, no entry 0. An unlisted address reads 0 (assumption log 3). -/
abbrev Mem := List Host.Cell

/-- Sparse naturals: rising keys, no entry 0. -/
abbrev NMap := List (Nat × Nat)

/-- A set of naturals, rising. -/
abbrev NSet := List Nat

/-- The kinds of thread (02 R32, 01 R24). -/
inductive Kind where | strand | control | supervisor
  deriving DecidableEq, Repr

/-- The waits of 02 R56 and 14 R365 that block a thread. -/
inductive Wait where
  | semtas (sem : Nat)
  | mwait (sector : Nat)
  | vwait
  | bar (teamWide : Bool) (gen : Nat)
  | xwait
  | seqwait
  | tktake
  | walk
  deriving DecidableEq, Repr

/-- What a thread is doing (02 R32, R49, R55, R89). -/
inductive Run where
  | running
  /-- blocked in a wait of R56 -/
  | blocked (w : Wait)
  /-- at a SAFEPT with a pre-emption pending; the live map's address -/
  | safept (map : Word)
  /-- stopped by a trap with a supervisor core -/
  | stopped
  /-- ended by DONE, and stopping its member because an engine fault of its own was recorded (03 R77) -/
  | endedStopped
  /-- ended by DONE -/
  | done
  deriving DecidableEq, Repr

/-- The agents that take a turn. -/
inductive Agent where
  | idle
  | thread (t : Nat)
  | walker (cl : Nat)
  /-- the lanes of strand t (05 R117) -/
  | lanes (t : Nat)
  deriving DecidableEq, Repr

/-- An item outside memory that an uncorrectable error can strike (04 R110, R111): a scalar register, one lane's share of a
vector register, the galley entry of a convoy in a lane, a rendezvous slot, an entry of a table, numbered as TBLCTL numbers them
(07 R173). -/
inductive Upset where
  | xreg (t r : Nat)
  | vreg (t r lane : Nat)
  | galley (t lane : Nat) (seq : BitVec 32)
  | slot (t k : Nat)
  | table (die tab idx : Nat)
  deriving DecidableEq, Repr

/-- What happens to the module that no instruction, unit or event of the opcode table begins: errors in its arrays (04 R110,
R111), and settings that their owners make by means the spec names without an encoding (08 R227, 18 R444). -/
inductive Outside where
  /-- an array access corrected an error of a unit: kind 0 pseudo-channel, 1 home slice, 2 lane, 3 cluster -/
  | corrected (kind unit : Nat)
  | upset (u : Upset)
  /-- an uncorrectable error strikes a sector of HBM or near-store, of a member's tile store, or a row of an accumulator tile -/
  | sectorError (a : Nat)
  | tileError (m off : Nat)
  | accError (m tile row : Nat)
  /-- system software sets the threshold of a unit kind -/
  | threshold (kind n : Nat)
  /-- iddify sets or clears a data watchpoint of a team: first byte, length, and mode bit 0 read, bit 1 write -/
  | watch (team lo len mode : Nat)
  | unwatch (team lo : Nat)
  deriving DecidableEq, Repr

/-- One entry of the schedule (assumption log 1): an agent runs one step, the oldest waiting event happens, or something happens
to the module from outside. -/
inductive Turn where
  | agent (a : Agent)
  | event
  | outside (o : Outside)
  deriving DecidableEq, Repr

/-- The events the module's own units post when work they accepted is due. -/
inductive EvKind where
  | engineCompletion | chainRecordRead | engineFaultReport | resultDelivery | platenOpStart | platenOpComplete
  | tableWrite | tableInvalidate | tableRead | tlbInvalidateAll | tlbInvalidateRegion | tlbInvalidateRange
  | rtWriteStandby | rtReadActive | rtBeginSwap | debugEntryWrite | debugEntryRead | hostRingRead | launchQueueHead
  | schedulingPass | safePointSave | forcedSave | saveComplete | spaceClearingEnd | teamResume | memberEnd | teamEnd
  | faultDomainEnd | walkerBufferOpen | stkeepSpaceFree | sampleRecord | messageRetry | deferAnswer | ordStoreRetry
  | renDelivery | trapRecord | laneSparing | clusterRetirement | sliceRetirement | pseudoChannelRetirement
  | portWithdrawal | firmwareUpdateAction | oldGenerationDrained | mailboxCommand
  deriving DecidableEq, Repr

/-- A waiting event: one posted by a unit, with its numbers, or one from outside. -/
inductive Event where
  | post (k : EvKind) (a b : Nat)
  /-- a message of this module to one of its own endpoints -/
  | arrival (m : Msg)
  | ext (i : Instr)
  deriving DecidableEq, Repr

/-- The system registers of one thread (03 R66). VSEW, SLIP.CUR and CYCLE are computed where they are read. -/
structure SysRegs where
  status : Word
  rmode : Word
  fflags : Word
  ftrapen : Word
  vcarry : Word
  slip : Word
  vcfgv : Word
  vlen : Word
  laneshare : Word
  cseq : Word
  trapcause : Word
  trappc : Word
  trapseq : Word
  traplanes : Word
  trapelem : Word
  trapaddr : Word
  trapvec : Word
  trapscr0 : Word
  trapscr1 : Word
  ctxid : Word
  teamidx : Word
  teamsize : Word
  strandidx : Word
  msgep : Word
  wmark : Vector Word 8
  ststep : Word
  stthr : Word
  stmetric : Word
  capstate : Word
  sampcfg : Word
  sampbase : Word
  samphead : Word
  samptail : Word
  colbase : Word
  colhead : Word
  sbchk : Word
  sbtags : Word
  pmccfg : Vector Word 16
  pmc : Vector Word 16
  ctxarea : Word
  physclu : Word
  deriving DecidableEq, Repr

/-- The system-register values captured with a convoy at broadcast (03 R68). -/
structure Captured where
  x : Vector Word 32
  rmode : Word
  ftrapen : Word
  vcfgv : Word
  vlen : Word
  ststep : Word
  stthr : Word
  stmetric : Word
  msgep : Word
  wmark : Vector Word 8
  vcarry : Word
  laneshare : Word
  deriving DecidableEq, Repr

/-- One instruction of a convoy with the length of its unit in bytes. -/
structure CUnit where
  instr : Instr
  bytes : Nat
  deriving DecidableEq, Repr

/-- A trap condition: cause, secondary cause, element, address (00 R15, 03 R76). -/
structure Trap where
  cause : BitVec 8
  sub : BitVec 8
  elem : Nat
  addr : Word
  deriving DecidableEq, Repr

/-- A fetched convoy in the strand queue (06 R145, R146): a marked one traps when it reaches the head. -/
structure Fetched where
  pc : Word
  seq : BitVec 32
  units : List CUnit
  fault : Option Trap
  deriving DecidableEq, Repr

/-- A fault of one lane in the convoy at its commit pointer: the instruction's place in the convoy comes first
(02 R49). -/
structure LaneFault where
  idx : Nat
  trap : Trap
  deriving DecidableEq, Repr

/-- A distribution entry (07 R185). -/
structure DistEntry where
  rid : Nat
  rowlen : Nat
  rows : Nat
  blog : Nat
  nown : Nat
  ownlist : Word
  deriving DecidableEq, Repr

/-- A broadcast convoy that some bound lane has not committed (02 R48). `start` gives, per lane, the element a
re-execution begins at (05 R124); `flags` collects the flags of scalar-side deliveries. -/
structure WinEntry where
  seq : BitVec 32
  pc : Word
  units : List CUnit
  cap : Captured
  start : NMap
  /-- engine-8 number taken at the first broadcast -/
  eseq : Option (BitVec 32)
  /-- per poisoned sector, the bytes of it the convoy has written (04 R111) -/
  cover : NMap
  /-- per lane that has sent its remote elements, one more than the place of that instruction in the convoy; and the
  lowest fault returned to each lane (13 R332, R333) -/
  sent : NMap
  rfault : Tbl Trap
  /-- per lane that has executed the convoy ahead of its commit pointer, one more than the flags it raised (13 R333) -/
  ran : NMap
  /-- the lanes that will execute the convoy again after a resume (08 R213, event 0x016) -/
  again : NSet
  /-- the next element of its ordered instruction to be performed (05 R118) -/
  ord : Nat
  /-- the distribution entry and owner words its VFGATH or VFSCAT read at issue (07 R185) -/
  dist : Option (DistEntry × List Nat)
  deriving DecidableEq, Repr

/-- The states of a rendezvous slot (02 R51). -/
inductive SlotState where | empty | part | full | delivered
  deriving DecidableEq, Repr

/-- The partial a lane deposits in a slot: a count, a lowest index or a partial reduction, none where no element counts, and the
flags of the roundings that formed it (13 R337, R342). -/
structure SlotPart where
  val : Option Nat
  flags : BitVec 5
  deriving DecidableEq, Repr

/-- A rendezvous slot with its arrived mask and the partials deposited. Whole source registers are held from arrival to delivery
(13 R337), so the combining unit reads them where they stand; the captured operands of the convoy go with the slot (02 R51,
R52). -/
structure Slot where
  state : SlotState
  seq : BitVec 32
  arrived : BitVec 32
  instr : Option Instr
  cap : Option Captured
  parts : Tbl SlotPart
  deriving DecidableEq, Repr

/-- ISSUED and DONE of one engine code, with the numbers completed out of order (08 R209, R210). -/
structure EngCtr where
  issued : BitVec 32
  done : BitVec 32
  early : List (BitVec 32)
  deriving DecidableEq, Repr

/-- An interlock entry (07 R188). -/
structure Interlock where
  v : Bool
  write : Bool
  dense : Bool
  eng : Nat
  esize : Nat
  lo : Nat
  hi : Nat
  boff : Nat
  eseq : BitVec 32
  leadcnt : Nat
  deriving DecidableEq, Repr

/-- A result of a control word that is not yet visible (15 R374, R375). `due` is none for a V word whose unit has
not answered. -/
structure Inflight where
  seq : BitVec 32
  pc : Word
  dreg : Option (BitVec 5)
  tag : BitVec 3
  due : Option Nat
  value : Word
  acquire : Bool
  /-- the OP and fields of the word with its captured sources, for a unit that performs it later -/
  op : Nat
  cw : Option CW
  srcs : List Word
  /-- the wait of a SEMTAS, MWAIT or TKTAKE still outstanding, why its monitor ended, and the cycle it was entered -/
  wait : Option Wait
  reason : Option WakeReason
  issued : Nat
  /-- flags ORed into FFLAGS with the result (03 R71) -/
  flags : BitVec 5
  /-- owns a window slot; a handler word and a word without a result own none (15 R376, R379) -/
  numbered : Bool
  /-- its unit has found a trap with a re-run cause, and performs it again when the thread resumes (15 R379) -/
  parked : Bool
  deriving DecidableEq, Repr

/-- A GEMV header as read at issue (15 R394): rows, columns, BFP, mantissa bits, block length, and the four addresses. -/
structure GemvHdr where
  rows : Nat
  cols : Nat
  bfp : Bool
  mw : Nat
  blk : Nat
  src : Nat
  spitch : Int
  sexp : Nat
  prep : Nat
  deriving DecidableEq, Repr

/-- An operation of the platen queue (15 R382, 06 R171), with the group table of an MMAG (rows and B offset), the header of
an HGEMV or HPREP, and the commands an SEQW still waits for. -/
structure PlatenOp where
  /-- its place among the commands of its thread -/
  id : Nat
  /-- the cluster cycles of its issue and of its start -/
  issued : Nat
  startAt : Nat
  op : Nat
  cw : CW
  pc : Word
  cseq : BitVec 32
  eng : Nat
  eseq : BitVec 32
  a : Word
  b : Word
  c : Word
  rmode : Word
  started : Bool
  pos : Nat
  groups : List (Nat × Nat)
  /-- the group table it read at acceptance held poison (15 R392) -/
  tablePoison : Bool
  hdr : Option GemvHdr
  resid : Word
  flags : BitVec 5
  locks : List Nat
  fault : Option Trap
  cover : NMap
  waited : List Nat
  /-- the cycle since which it waits for operand data, and the cycles it has waited (08 R222) -/
  heldAt : Option Nat
  heldFor : Nat
  deriving DecidableEq, Repr

/-- A fault an engine reported that awaits the thread's next convoy boundary (03 R77). -/
structure EngFault where
  cmd : Nat
  eng : Nat
  chan : Nat
  eseq : BitVec 32
  pc : Word
  cseq : BitVec 32
  trap : Trap
  deriving DecidableEq, Repr

/-- One thread context: strand, control thread or supervisor core. -/
structure Thread where
  kind : Kind
  run : Run
  /-- resident and its hardware context active (02 R53) -/
  active : Bool
  team : Nat
  member : Nat
  /-- strand context index 0-3, 7 for the control thread (07 R194) -/
  slotIdx : Nat
  hwctx : Nat
  pc : Word
  refetch : Word
  /-- x0-x31 of a strand or supervisor core, c0-c31 of a control thread -/
  x : Vector Word 32
  sys : SysRegs
  /-- vector register shares, keyed register * 32 + lane; element p of width w at bits [w*p, w*p+w) -/
  v : NMap
  tbCp : Vector (BitVec 32) 32
  tbCause : Vector (BitVec 8) 32
  tbElem : Vector (BitVec 32) 32
  cp : Vector (BitVec 32) 32
  laneFault : Tbl LaneFault
  queue : List Fetched
  window : List WinEntry
  slots : Vector Slot 4
  credit : Nat
  waitCnt : Nat
  eng : Vector EngCtr 7
  newest : Word
  interlock : Vector Interlock 16
  engFault : List EngFault
  snap : Vector Word 16
  oncore : Vector Word 4
  offcore : Vector Word 4
  wrmask : BitVec 16
  countdown : Nat
  stint : BitVec 16
  lost : Nat
  perChanged : Bool
  /-- a record has been written since the period last had a chance to change (08 R220, R221) -/
  adaptDue : Bool
  /-- SAMPLE records that wait for the SKIP record of their own convoy or word, an STCHK (08 R220) -/
  heldSamples : List (BitVec 32 × List Byte)
  dbgPc : Vector (Word × Word) 8
  dbgEng : Vector (Word × Word) 4
  /-- result window of a control thread: value and produced bit -/
  rwin : Vector (Word × Bool) 16
  inflight : List Inflight
  nextIssue : Nat
  platen : List PlatenOp
  memberBar : Nat
  teamBar : Nat
  /-- reason a monitor of this thread ended, not yet taken -/
  wake : Option WakeReason
  waitStart : Nat
  /-- remote elements of this thread's loads not yet arrived: register * 2^32 + element -/
  invalid : NSet
  /-- the pre-emption re-entry of an MWAIT -/
  resumed : Bool
  /-- a VWAIT_TIMEOUT has ended the VWAIT this thread waits in -/
  vwaitOver : Bool
  /-- the elements of the VWAIT at the head of the queue that have been satisfied (14 R357) -/
  vwaitMet : NSet
  /-- the engine-8 number of a scalar remote atomic that has still to complete its convoy (08 R209) -/
  amoNum : Option (BitVec 32)
  /-- convoy step requested by iddify -/
  stepReq : Bool
  /-- ERET found BSKIP set: the first convoy issued after it matches no PC breakpoint (03 R69) -/
  skipNow : Bool
  deriving DecidableEq, Repr

/-- A tensor descriptor as read at issue (04 R108). -/
structure Desc where
  base : Nat
  ndim : Nat
  esize : Nat
  nt : Bool
  extents : List Nat
  strides : List Int
  deriving DecidableEq, Repr

/-- A binning class (07 R204). -/
structure BinClass where
  upper : Nat
  list : Nat
  count : Nat
  kdesc : Nat
  kargs : Nat
  tkq : Nat
  /-- rows listed so far -/
  n : Nat
  deriving DecidableEq, Repr

/-- A walk block (16 R399). -/
structure WalkBlk where
  tfmt : Nat
  mw : Nat
  lc : Nat
  ntile : Nat
  sembase : Nat
  rows : Nat
  cols : Nat
  tbase : Nat
  tstride : Nat
  srclo : Nat
  srchi : Nat
  args : List Word
  deriving DecidableEq, Repr

/-- A receive block (14 R369). -/
structure RecvBlk where
  src : Word
  srcmask : Word
  tag : BitVec 32
  tagmask : BitVec 32
  desc : Option Desc
  maxb : Nat
  comp : Nat
  ep : Nat
  deriving DecidableEq, Repr

/-- What an accepted engine command does. -/
inductive CmdBody where
  | copy (src dst : Desc) (count chan : Nat) (sem : Option Nat) (linked : Bool)
  | bin (rowptr nrows psize : Nat) (classes : List BinClass)
  | walk (prog arg : Word) (blk : WalkBlk) (started : Bool)
  | stchk (src dst : Desc) (block tile : Nat) (step thr metric : Word) (xd : Option (BitVec 5)) (hit : Option Nat)
  | stkeep (src dst : Desc) (block tile : Nat) (step metric : Word) (waiting : Bool)
  | stdrop (block tile mode : Nat)
  /-- its path by `forme`, the backoff delay and the die clock of the next try, and its phase: 0 to be sent, 1 sent, 2 sent
  with a lent forme -/
  | send (src : Desc) (len : Nat) (dmod dep sep : Nat) (tag pseq : BitVec 32) (forme : Option Nat) (delay due phase : Nat)
  /-- a posted receive, with the message that matched it; `waits` while the sender has still to answer -/
  | recv (mctx : Nat) (blk : RecvBlk) (msg : Option Msg) (waits poison : Bool)
  /-- remote writes (engine 8): elements not yet acknowledged -/
  | remote (left : Nat)
  | chain (chan : Nat)
  deriving DecidableEq, Repr

/-- An accepted engine command that has not completed (14 R349). -/
structure Cmd where
  id : Nat
  thr : Nat
  eng : Nat
  eseq : Nat
  pc : Word
  cseq : BitVec 32
  scope : Scope
  locks : List Nat
  pos : Nat
  fault : Option Trap
  finished : Bool
  /-- per poisoned sector, the bytes of it the command has written (04 R111) -/
  cover : NMap
  body : CmdBody
  deriving DecidableEq, Repr

/-- What a remote element's source has been told. -/
inductive Answer where
  | val (w : Word)
  | trap (tr : Trap)
  deriving DecidableEq, Repr

/-- A remote element this module has sent and that has no answer yet (05 R134, 13 R332). -/
structure RemoteOut where
  tagno : Nat
  thr : Nat
  dst : Nat
  forme : Nat
  elem : Nat
  width : Nat
  kind : RemoteKind
  /-- destination vector register of a load or a vector atomic -/
  vd : Option Nat
  /-- element of the instruction, its lane and its register width -/
  idx : Nat
  lane : Nat
  ew : Nat
  seq : BitVec 32
  retries : Nat
  /-- the answer to a scalar atomic, which its thread has still to take -/
  answer : Option Answer
  /-- the engine-8 number of a scalar atomic -/
  eseq : Option (BitVec 32)
  deriving DecidableEq, Repr

/-- Another module's read of a lent forme that has not been answered: the MSEND that lent it, the request, and the bytes read so
far with their poison marks (06 R486). -/
structure PayRead where
  cmd : Nat
  src : Nat
  forme : Nat
  elem : Nat
  n : Nat
  got : List (Byte × Bool)
  deriving DecidableEq, Repr

/-- A copy channel (06 R156). -/
structure Channel where
  issued : Nat
  completed : Nat
  chain : Word
  chainPc : Word
  chainSeq : BitVec 32
  chainThr : Nat
  /-- the chain's place among the commands of its thread (05 R126) -/
  chainNum : Nat
  chainPos : Nat
  chainParked : Bool
  deriving DecidableEq, Repr

/-- The life of an accumulator tile (08 R222). -/
structure TileLife where
  isOpen : Bool
  continued : Bool
  flags : BitVec 8
  nops : Nat
  skipgrp : Nat
  zskip : Nat
  opwait : Nat
  cins : Nat
  cine : Nat
  cmps : Nat
  cmpe : Nat
  couts : Nat
  coute : Nat
  deriving DecidableEq, Repr

/-- Walker STATE (16 R401). -/
inductive WalkState where | idle | running | waiting | faulted
  deriving DecidableEq, Repr

/-- The format walker of a cluster (16 R401). -/
structure Walker where
  state : WalkState
  w : Vector Word 16
  pc : Word
  epos : BitVec 32
  tcnt : BitVec 32
  row : Nat
  buf : Nat
  poison : BitVec 16
  faddr : Word
  blk : Option WalkBlk
  cmd : Option Nat
  /-- WALK commands waiting for the walker, in the order they reached it: thread and sequence number (14 R365) -/
  waiting : List (Nat × BitVec 32)
  deriving DecidableEq, Repr

/-- One member (02 R35, 03 R65, 04 R92). -/
structure Member where
  team : Nat
  idx : Nat
  full : Bool
  fusel1 : Bool
  tilesz : Nat
  die : Nat
  cluster : Nat
  half : Nat
  /-- waits for the space it is placed on to be cleared (06 R172) -/
  waitClear : Bool
  /-- it holds slots of its cluster -/
  placed : Bool
  ended : Bool
  sem : BitVec 64
  box : Vector Word 16
  tile : Mem
  tilePoison : NSet
  /-- accumulator element t * 16384 + i * 128 + j, 32 bits each -/
  acc : NMap
  accPoison : NSet
  chans : Vector Channel 8
  lives : Vector TileLife 16
  barArrived : Tbl Nat
  saveBase : Nat
  /-- the walker of its walk while it is off its cluster (16 R414) -/
  savedWalker : Option Walker
  ctxs : List Nat
  deriving DecidableEq, Repr

/-- Team states (02 R36, R56). -/
inductive TeamState where
  | starting | running | preempting (forced : Bool) | saved | ended
  deriving DecidableEq, Repr

/-- A launch token (06 R151). -/
structure Token where
  desc : Word
  args : Word
  donerec : Word
  depk : Nat
  depobj : Word
  depcnt : Word
  tag : Word
  malformed : Bool
  /-- the home die's scheduler clock when it was appended -/
  enq : Nat
  /-- its place among the tokens appended in the module: clocks of different dies are not compared (00 R2) -/
  num : Nat
  deriving DecidableEq, Repr

/-- The fields of a kernel descriptor (02 R39). -/
structure KDesc where
  full : Bool
  fusel1 : Bool
  place : Nat
  size : Nat
  nstrand : Nat
  tilesz : Nat
  centry : Word
  sentry : List Word
  bind : List Nat
  vdef : Nat
  slip : Nat
  stackSize : Nat
  stackBase : Word
  pinlist : Word
  deriving DecidableEq, Repr

/-- One team. -/
structure Team where
  state : TeamState
  token : Token
  rid : Nat
  /-- the number of members placed -/
  size : Nat
  members : List Nat
  place : Nat
  pins : List Nat
  barArrived : Tbl Nat
  /-- cycles of the scheduler clock of member 0's die since start or resume, and since the last pass (01 R25) -/
  ran : Nat
  sincePass : Nat
  reqAt : Nat
  savedDie : Nat
  savedAt : Nat
  dbg : Bool
  /-- its threads issue nothing until iddify resumes it (08 R227) -/
  halted : Bool
  faultClass : Nat
  faultEng : Nat
  endCode : Option Nat
  deriving DecidableEq, Repr

/-- A cached translation (04 R106): page frame, log2 of the page size and the leaf bits. -/
structure TlbEntry where
  /-- physical address of the entry the translation was taken from; for a 64 KiB entry, of the first of its 16 -/
  pte : Nat
  pa : Nat
  size : Nat
  leaf : Word
  deriving DecidableEq, Repr

/-- One physical cluster (01 R20). -/
structure Cluster where
  enabled : Bool
  spare : Bool
  retired : Bool
  redirect : Option Nat
  cycle : Word
  walker : Walker
  cfg : Vector Word 16
  ctr : Vector Word 16
  /-- the micro-TLBs of its lanes and the group TLBs of its lane groups (04 R106) -/
  utlb : Tbl (Tbl TlbEntry)
  gtlb : Tbl (Tbl TlbEntry)
  retiredLanes : BitVec 32
  /-- lane groups whose spare lane is in use -/
  spareUsed : BitVec 4
  /-- departed members whose space is being cleared, each with its half slots as a mask (06 R172) -/
  clearing : List (Nat × Nat)
  /-- half slots held for the reserving launch of a region: half, region (06 R168) -/
  held : List (Nat × Nat)
  stretches : Nat
  platenTurn : Nat
  /-- the cycle its control core has come to, and the half whose context issued last (02 R53, 15 R378) -/
  ctlNow : Nat
  ctlHalf : Nat
  deriving DecidableEq, Repr

/-- A directory entry: CLEAN or DIRTY holders, as (die * 128 + cluster) * 4 + lane group (04 R95). -/
inductive DirSt where
  | clean (holders : NSet)
  | dirty (holder : Nat)
  deriving DecidableEq, Repr

/-- A monitor entry (07 R194). -/
structure Monitor where
  kind : Nat
  die : Nat
  cluster : Nat
  half : Nat
  thr : Nat
  hwctx : Nat
  age : Nat
  sector : Nat
  /-- the waiting thread, channel owner or region -/
  owner : Nat
  deriving DecidableEq, Repr

/-- A watermark entry (07 R191). -/
structure WmEntry where
  rid : Nat
  esize : Nat
  scope : Nat
  base : Word
  count : Nat
  nelem : Nat
  deriving DecidableEq, Repr

/-- A stereotype tag (07 R198). Space is kept charged while replays read it (R202). -/
structure StTag where
  v : Bool
  rid : Nat
  block : Nat
  tile : Nat
  step : BitVec 32
  fmt : Nat
  inn : Nat
  inoff : Nat
  outn : Nat
  outoff : Nat
  /-- recency stamp -/
  used : Nat
  /-- replays reading the tiles -/
  readers : Nat
  deriving DecidableEq, Repr

/-- A header of the unexpected queue (06 R160). -/
structure UnexpHdr where
  mctx : Nat
  msg : Msg
  held : Bool
  deferred : Bool
  reserved : Bool
  deriving DecidableEq, Repr

/-- A pair entry (07 R206). -/
structure PairEntry where
  smod : Nat
  sep : Nat
  dep : Nat
  mctx : Nat
  expect : BitVec 32
  deriving DecidableEq, Repr

/-- A launch queue and its host ring indices (06 R150). -/
structure LaunchQ where
  tokens : List Token
  head : Nat
  tail : Nat
  ovf : Bool
  /-- the head's descriptor and pin list, once its checks have passed (02 R34, 06 R152); its dependence is met; it reserves
  slots -/
  desc : Option (KDesc × List Nat)
  depMet : Bool
  reserving : Bool
  /-- cycles charged to the region (06 R166) -/
  account : Nat
  runnable : Bool
  deriving DecidableEq, Repr

/-- Near-store allocations of a region on a die (04 R485): byte offset and size in MiB. -/
structure NsAlloc where
  rid : Nat
  stereo : Bool
  off : Nat
  mib : Nat
  deriving DecidableEq, Repr

/-- One compute die with its base die and engines (01 R23). -/
structure Die where
  off : Bool
  ns : Nat
  allocs : List NsAlloc
  dir : Tbl DirSt
  /-- the last-level TLB, and the walk cache: per region, level and address prefix the next table (04 R106) -/
  tlb : Tbl TlbEntry
  walks : Tbl Nat
  remap : NSet
  monitors : List Monitor
  age : Nat
  dist : Tbl DistEntry
  wmarks : Tbl WmEntry
  tags : List StTag
  stamp : Nat
  unexp : List UnexpHdr
  reserve : Tbl Nat
  pairs : List PairEntry
  posted : List Nat
  /-- the receives of each context that have ended: context, completion object and 2 done or 3 cancelled (14 R371) -/
  recs : List (Nat × Word × Nat)
  cfg : Vector Word 64
  ctr : Vector Word 64
  tbladdr : Word
  tblctl : Word
  tblstat : Word
  xliva : Word
  xlicnt : Word
  xlictl : Word
  xlistat : Word
  dbgsel : Word
  dbgidx : Word
  dbgw0 : Word
  dbgw1 : Word
  dbgctl : Word
  /-- the running commands' registers as they stood at GO: TBLCTL and TBLADDR; XLICTL, XLIVA and XLICNT; DBGCTL, DBGSEL,
  DBGIDX, DBGW0 and DBGW1 -/
  tblRun : Word × Word
  xliRun : Word × Word × Word
  dbgRun : Word × Word × Word × Word × Word
  /-- stopped threads that wait for a supervisor core of this die, oldest first (01 R24) -/
  stops : List Nat
  diepwr : Word
  /-- its supervisor cores have still to reload after a firmware update (17 R433) -/
  reload : Bool
  /-- the scheduler's cycle count -/
  sched : Nat
  passLeft : Nat
  /-- ORD-store expectation per source context and forme, and the reorder window (17 R424) -/
  ordExpect : Tbl Nat
  ordWait : List RemoteReq
  deriving DecidableEq, Repr

/-- A region block with the fields it gives itself (07 R175). -/
structure Region where
  parent : Nat
  ovr : BitVec 32
  leaf : Bool
  prio : Nat
  fdom : Nat
  home : Nat
  share : Nat
  eager : Nat
  placeok : Nat
  nomig : Bool
  slice : Nat
  waitthr : Nat
  deadline : Nat
  conf : Bool
  hrlog : Nat
  collog : Nat
  root : Nat
  hring : Nat
  keyidx : Nat
  slots : Nat
  maxw : Nat
  lqent : Nat
  nsmib : Nat
  formes : Nat
  endpts : Nat
  mctxs : Nat
  precv : Nat
  pairs : Nat
  stmib : Nat
  sttags : Nat
  wment : Nat
  distent : Nat
  deriving DecidableEq, Repr

/-- Stereotype counters of a region (08 R215). -/
structure StCounts where
  hit : Word
  miss : Word
  evict : Word
  deriving DecidableEq, Repr

/-- A forme entry (07 R181). -/
structure Forme where
  rd : Bool
  wr : Bool
  atom : Bool
  msg : Bool
  srcset : Nat
  rid : Nat
  mod : Nat
  esize : Nat
  base : Word
  ext : List Nat
  str : List Int
  mask : Word
  /-- the MSEND command a message forme is lent for, and its payload descriptor -/
  lent : Option Nat
  deriving DecidableEq, Repr

/-- An endpoint entry (07 R207). -/
structure Endpoint where
  moving : Bool
  die : Nat
  mctx : Nat
  rid : Nat
  deriving DecidableEq, Repr

/-- A message-context entry (07 R207). -/
structure MCtx where
  die : Nat
  rid : Nat
  deriving DecidableEq, Repr

/-- Port states (17 R425). -/
inductive PortState where | down | training | up | mgmt | miswired | off
  deriving DecidableEq, Repr

/-- A fabric port (17 R425, 08 R225). -/
structure Port where
  state : PortState
  errcnt : Nat
  nbr : Nat
  width : Nat
  wdraw : Bool
  ord : Word
  sum : Word
  cnt : BitVec 32
  queue : List Packet
  deriving DecidableEq, Repr

/-- A routing-table entry (17 R421). -/
structure Route where
  direct : Bool
  minport : Nat
  minvia : Nat
  minw : Nat
  slots : List (Nat × Nat)
  deriving DecidableEq, Repr

/-- The fabric interface (17 R425, R426). -/
structure Fabric where
  fabcfg : Word
  rtaddr : Word
  rtctl : Word
  rtstat : Word
  /-- RTCTL and RTADDR of the running command as they stood at GO -/
  rtRun : Word × Word
  active : Tbl Route
  standby : Tbl Route
  swapStarts : NSet
  draineds : NSet
  sentDrained : Bool
  sentMgmt : List (Bool × Nat)
  rr : Nat
  deriving DecidableEq, Repr

/-- A mailbox (17 R432). -/
structure Mailbox where
  mbcmd : Word
  mbstat : Word
  args : Vector Word 8
  res : Vector Word 4
  deriving DecidableEq, Repr

/-- A service request (18 R445): 0 pending, 1 in progress, 2 ended. -/
structure SvcReq where
  num : Nat
  action : Nat
  target : Word
  status : Word
  state : Nat
  result : Nat
  deriving DecidableEq, Repr

/-- What the host sees of a confidential region on one die (17 R437): fault class, engine kind, on-core cluster cycles
and the four aggregate counts. -/
structure Report where
  cls : Nat
  eng : Nat
  cycles : Nat
  convoys : Nat
  words : Nat
  platen : Nat
  commands : Nat
  deriving DecidableEq, Repr

/-- A firmware bank (17 R433). -/
structure FwBank where
  image : List Byte
  valid : Bool
  deriving DecidableEq, Repr

/-- The management controller (18), the host interface (17 R429-R432) and confidential state (17 R435-R438). -/
structure Mgmt where
  recovery : Bool
  powered : Bool
  pwrcap : Word
  pwrstat : Word
  underRuns : Vector Nat 4
  /-- per die: 0 below its limits, 1 raised in this window, 2 still to be raised in it (18 R442) -/
  thermal : Vector Nat 4
  thermalStop : Bool
  cperr : Word
  nonce : Vector Word 4
  nonceUsed : Bool
  vfbind : Tbl Word
  pfMbox : Mailbox
  vfMbox : Tbl Mailbox
  banks : Vector FwBank 2
  bankActive : Nat
  fusedMin : Nat
  restarting : Bool
  keys : Tbl (List Byte)
  owners : Tbl (List Byte)
  /-- the confidential page map: the owner's RID + 1 of a marked page, 0 for none (17 R436) -/
  cpmap : NMap
  energy : Tbl Nat
  svc : List SvcReq
  svcNext : Nat
  record : List Nat
  corrected : Tbl Nat
  thresholds : List Nat
  alerts : List Nat
  badDb : Nat
  pcRetired : NSet
  msix : List (Nat × Nat)
  spdm : List (List Byte)
  reports : Tbl Report
  watchpoints : List (Nat × Nat × Nat × Nat)
  deriving DecidableEq, Repr

/-- The whole module. -/
structure State where
  /-- model's own: events waiting, oldest first -/
  inbox : List Event
  /-- model's own: who moves next -/
  sched : List Turn
  /-- model's own: the agent whose instruction runs -/
  cur : Agent
  /-- model's own: the counter the free values are applied to -/
  tick : Nat
  mem : Mem
  poison : NSet
  threads : List Thread
  members : List Member
  teams : List Team
  clusters : Tbl Cluster
  dies : Vector Die 4
  regions : Tbl Region
  stcounts : Tbl StCounts
  lqueues : Tbl LaunchQ
  formes : Tbl Forme
  endpoints : Tbl Endpoint
  mctxs : Tbl MCtx
  pairSend : Tbl (BitVec 32)
  ordSend : Tbl Nat
  ports : Vector Port 32
  fab : Fabric
  mgmt : Mgmt
  cmds : List Cmd
  nextCmd : Nat
  remotes : List RemoteOut
  nextTag : Nat
  /-- payload reads of other modules in progress -/
  payReads : List PayRead
  outbox : List Packet
  /-- tokens appended so far -/
  launches : Nat
  /-- items outside memory that hold an uncorrectable error (04 R111) -/
  upsets : List Upset
  deriving DecidableEq, Repr

/-- Why a step stops with a fault. Each is safe: the machine described here goes no further, so nothing false can be
proved of what follows. -/
inductive Fault where
  /-- raised by an instruction's meaning when no thread is selected that can execute it; `step` never selects so. Safe. -/
  | noThread
  /-- raised by an instruction's meaning when the selected thread is of a kind that has another decoder; `step` never
  decodes so. Safe. -/
  | wrongAgent
  /-- raised by an event's meaning when what it describes cannot happen in the present state. Safe. -/
  | eventNotPossible
  /-- raised by every instruction after the module has powered off (18 R442). Safe. -/
  | poweredOff
  deriving DecidableEq, Repr

/-- Why a step is refused. -/
inductive Refusal where
  /-- raised by `exec` for an instruction that has no meaning yet. Safe. -/
  | notModelled (mnemonic : String)
  deriving DecidableEq, Repr

/-! ### Reset -/

/-- The system registers of a context at creation, where the spec gives no other value (03 R69-R87). -/
def SysRegs.reset : SysRegs :=
  { status := 0, rmode := 0, fflags := 0, ftrapen := 0, vcarry := 0, slip := 0, vcfgv := 0, vlen := 0, laneshare := 0,
    cseq := 0, trapcause := 0, trappc := 0, trapseq := 0, traplanes := 0, trapelem := 0, trapaddr := 0, trapvec := 0,
    trapscr0 := 0, trapscr1 := 0, ctxid := 0, teamidx := 0, teamsize := 0, strandidx := 0, msgep := 0,
    wmark := Vector.replicate 8 0, ststep := 0, stthr := 0, stmetric := 0x10, capstate := 0, sampcfg := 0x101002,
    sampbase := 0, samphead := 0, samptail := 0, colbase := 0, colhead := 0, sbchk := 0, sbtags := 0,
    pmccfg := Vector.replicate 16 0, pmc := Vector.replicate 16 0, ctxarea := 0, physclu := 0 }

/-- An empty rendezvous slot (02 R51). -/
def Slot.reset : Slot :=
  { state := .empty, seq := 0, arrived := 0, instr := none, cap := none, parts := [] }

/-- An invalid interlock entry (07 R187). -/
def Interlock.reset : Interlock :=
  { v := false, write := false, dense := false, eng := 0, esize := 0, lo := 0, hi := 0, boff := 0, eseq := 0,
    leadcnt := 0 }

/-- A thread context at creation: every register zero (02 R38). -/
def Thread.create (kind : Kind) (team member slotIdx : Nat) (pc : Word) (sys : SysRegs) : Thread :=
  { kind, run := .running, active := true, team, member, slotIdx, hwctx := 0, pc, refetch := 0,
    x := Vector.replicate 32 0, sys, v := [], tbCp := Vector.replicate 32 0, tbCause := Vector.replicate 32 0,
    tbElem := Vector.replicate 32 0, cp := Vector.replicate 32 0, laneFault := [], queue := [], window := [],
    slots := Vector.replicate 4 Slot.reset, credit := 0, waitCnt := 0,
    eng := Vector.replicate 7 { issued := 0, done := 0, early := [] }, newest := 0,
    interlock := Vector.replicate 16 Interlock.reset, engFault := [], snap := Vector.replicate 16 0,
    oncore := Vector.replicate 4 0, offcore := Vector.replicate 4 0, wrmask := 0, countdown := 0, stint := 0, lost := 0,
    perChanged := false, adaptDue := false, heldSamples := [], dbgPc := Vector.replicate 8 (0, 0), dbgEng := Vector.replicate 4 (0, 0),
    rwin := Vector.replicate 16 (0, false), inflight := [], nextIssue := 0, platen := [], memberBar := 0, teamBar := 0,
    wake := none, waitStart := 0, invalid := [], resumed := false, vwaitOver := false, vwaitMet := [], amoNum := none, stepReq := false, skipNow := false }

/-- A supervisor core of die `d` (01 R24): its registers and PC hold zero (assumption log 4), its mode is
supervisor. It has no team and no member; `member` holds its die. -/
def Thread.supervisor (d slotIdx : Nat) : Thread :=
  Thread.create .supervisor 0 d slotIdx 0 { SysRegs.reset with status := 2 }

/-- An idle walker (16 R401). -/
def Walker.reset : Walker :=
  { state := .idle, w := Vector.replicate 16 0, pc := 0, epos := 0, tcnt := 0, row := 0, buf := 0, poison := 0,
    faddr := 0, blk := none, cmd := none, waiting := [] }

/-- Physical cluster `c`: 0-63 are enabled and 64-67 are the spares (01 R20, R21; assumption log 5). -/
def Cluster.reset (c : Nat) : Cluster :=
  { enabled := decide (c < 64), spare := decide (64 ≤ c), retired := false, redirect := none, cycle := 0,
    walker := Walker.reset, cfg := Vector.replicate 16 0, ctr := Vector.replicate 16 0, utlb := [], gtlb := [], retiredLanes := 0,
    spareUsed := 0, clearing := [], held := [], stretches := 0, platenTurn := 0, ctlNow := 0, ctlHalf := 1 }

/-- A die after reset: near-store 0, every table empty (04 R485, 07). -/
def Die.reset : Die :=
  { off := false, ns := 0, allocs := [], dir := [], tlb := [], walks := [], remap := [], monitors := [], age := 0, dist := [],
    wmarks := [], tags := [], stamp := 0, unexp := [], reserve := [], pairs := [], posted := [], recs := [],
    cfg := Vector.replicate 64 0, ctr := Vector.replicate 64 0, tbladdr := 0, tblctl := 0, tblstat := 0, xliva := 0,
    xlicnt := 0, xlictl := 0, xlistat := 0, dbgsel := 0, dbgidx := 0, dbgw0 := 0, dbgw1 := 0, dbgctl := 0,
    tblRun := (0, 0), xliRun := (0, 0, 0), dbgRun := (0, 0, 0, 0, 0), stops := [],
    diepwr := 0x041A00001000, reload := false, sched := 0, passLeft := 256, ordExpect := [], ordWait := [] }

/-- A fabric port after reset (17 R425, 08 R225). -/
def Port.reset : Port :=
  { state := .down, errcnt := 0, nbr := 0, width := 0, wdraw := false, ord := 0, sum := 0, cnt := 0, queue := [] }

/-- The fabric interface after reset: ADTHR is 4 (17 R425). -/
def Fabric.reset : Fabric :=
  { fabcfg := 0x4000000, rtaddr := 0, rtctl := 0, rtstat := 0, rtRun := (0, 0), active := [], standby := [], swapStarts := [],
    draineds := [], sentDrained := false, sentMgmt := [], rr := 0 }

/-- An idle mailbox (17 R432). -/
def Mailbox.reset : Mailbox :=
  { mbcmd := 0, mbstat := 0, args := Vector.replicate 8 0, res := Vector.replicate 4 0 }

/-- The management controller after reset: cap 4,200 W and default thresholds (18 R440, R444). -/
def Mgmt.reset : Mgmt :=
  { recovery := false, powered := true, pwrcap := 4200, pwrstat := 0, underRuns := Vector.replicate 4 0,
    thermal := Vector.replicate 4 0, thermalStop := false, cperr := 0, nonce := Vector.replicate 4 0,
    nonceUsed := true, vfbind := [], pfMbox := Mailbox.reset, vfMbox := [],
    banks := Vector.replicate 2 { image := [], valid := true }, bankActive := 0, fusedMin := 0, restarting := false, keys := [], owners := [], cpmap := [], energy := [], svc := [], svcNext := 1, record := [],
    corrected := [], thresholds := [64, 256, 32, 32], alerts := [], badDb := 0,
    pcRetired := [], msix := [], spdm := [], reports := [], watchpoints := [] }

/-- The module right after reset: four supervisor cores on each die, every table empty, memory with nothing listed. -/
def State.reset : State :=
  { inbox := [], sched := [], cur := .idle, tick := 0, mem := [], poison := [],
    threads := (List.range 16).map fun k => Thread.supervisor (k / 4) (k % 4),
    members := [], teams := [],
    clusters := (List.range 4).flatMap fun d => (List.range 68).map fun c => (d * 128 + c, Cluster.reset c),
    dies := Vector.replicate 4 Die.reset, regions := [], stcounts := [], lqueues := [], formes := [], endpoints := [],
    mctxs := [], pairSend := [], ordSend := [], ports := Vector.replicate 32 Port.reset, fab := Fabric.reset,
    mgmt := Mgmt.reset, cmds := [], nextCmd := 0, remotes := [], nextTag := 0, payReads := [], outbox := [], launches := 0, upsets := [] }

end Sys2Proof.Machine
end

