-- ==== Sys2Proof/Machine/Maps.lean ====
section
/-! DEFINITION. Sparse tables, byte memories and sets in canonical form: keys strictly rising, and no entry equal to what
an unlisted key reads as. -/

namespace Sys2Proof.Machine

/-- The entry of key k, if listed. -/
def Tbl.find {α : Type} (k : Nat) : Tbl α → Option α
  | [] => none
  | (j, v) :: rest => if k = j then some v else Tbl.find k rest

/-- The table with key k holding v. -/
def Tbl.insert {α : Type} (k : Nat) (v : α) : Tbl α → Tbl α
  | [] => [(k, v)]
  | (j, w) :: rest =>
    if k < j then (k, v) :: (j, w) :: rest
    else if k = j then (k, v) :: rest
    else (j, w) :: Tbl.insert k v rest

/-- The table without key k. -/
def Tbl.erase {α : Type} (k : Nat) : Tbl α → Tbl α
  | [] => []
  | (j, w) :: rest => if k = j then Tbl.erase k rest else (j, w) :: Tbl.erase k rest

/-- Every key of the table is above b and the keys rise strictly. -/
def Tbl.above {α : Type} (b : Option Nat) : Tbl α → Bool
  | [] => true
  | (j, _) :: rest => (match b with | none => true | some n => decide (n < j)) && Tbl.above (some j) rest

/-- The keys rise strictly. -/
def Tbl.sorted {α : Type} (t : Tbl α) : Bool := Tbl.above none t

/-- The entries whose key satisfies p are kept. -/
def Tbl.keep {α : Type} (p : Nat → α → Bool) (t : Tbl α) : Tbl α := t.filter fun e => p e.1 e.2

/-- An entry changed by f, when listed. -/
def Tbl.modify {α : Type} (k : Nat) (f : α → α) : Tbl α → Tbl α
  | [] => []
  | (j, w) :: rest => if k = j then (j, f w) :: rest else (j, w) :: Tbl.modify k f rest

/-- The number at key k; 0 when unlisted. -/
def NMap.get (m : NMap) (k : Nat) : Nat := (Tbl.find k m).getD 0

/-- The map with v at key k; 0 is not listed. -/
def NMap.set (m : NMap) (k v : Nat) : NMap := if v = 0 then Tbl.erase k m else Tbl.insert k v m

/-- The byte at address a; an unlisted byte reads 0 (assumption log 3). -/
def Mem.get (m : Mem) (a : Nat) : Byte := (Tbl.find a m).getD 0

/-- The memory with byte b at address a; a zero byte is not listed. -/
def Mem.set (m : Mem) (a : Nat) (b : Byte) : Mem := if b = 0 then Tbl.erase a m else Tbl.insert a b m

/-- The canonical form: addresses strictly rising and no zero byte. -/
def Mem.wf (m : Mem) : Bool := Tbl.sorted m && m.all fun c => c.2 != 0

/-- The bytes at a, a + 1, …, n of them. -/
def Mem.read (m : Mem) (a : Nat) : Nat → List Byte
  | 0 => []
  | n + 1 => Mem.get m a :: Mem.read m (a + 1) n

/-- The memory with the bytes bs written at a and upwards. -/
def Mem.write (m : Mem) (a : Nat) : List Byte → Mem
  | [] => m
  | b :: bs => Mem.write (Mem.set m a b) (a + 1) bs

/-- The memory with [lo, lo + n) reading zero. -/
def Mem.clear (m : Mem) (lo n : Nat) : Mem := Tbl.keep (fun a _ => a < lo || lo + n ≤ a) m

/-- The listed bytes of [lo, lo + n), each at its offset from lo. -/
def Mem.slice (m : Mem) (lo n : Nat) : Mem :=
  (Tbl.keep (fun a _ => lo ≤ a && a < lo + n) m).map fun c => (c.1 - lo, c.2)

/-- The memory with [lo, lo + n) holding the image: its listed bytes, zero elsewhere. -/
def Mem.paste (m : Mem) (lo n : Nat) (image : Mem) : Mem :=
  (Mem.clear m lo n).filter (fun c => c.1 < lo) ++
    (Tbl.keep (fun a _ => a < n) image).map (fun c => (c.1 + lo, c.2)) ++
    (Mem.clear m lo n).filter (fun c => lo + n ≤ c.1)

/-- Set membership. -/
def NSet.mem (k : Nat) : NSet → Bool
  | [] => false
  | j :: rest => if k = j then true else NSet.mem k rest

/-- The set with k. -/
def NSet.add (k : Nat) : NSet → NSet
  | [] => [k]
  | j :: rest => if k < j then k :: j :: rest else if k = j then j :: rest else j :: NSet.add k rest

/-- The set without k. -/
def NSet.del (k : Nat) : NSet → NSet
  | [] => []
  | j :: rest => if k = j then NSet.del k rest else j :: NSet.del k rest

/-- The little-endian number held at a, n bytes. -/
def Mem.readNat (m : Mem) (a n : Nat) : Nat := leNat (Mem.read m a n)

/-- The memory with the low n bytes of v written at a, lowest first. -/
def Mem.writeNat (m : Mem) (a n v : Nat) : Mem := Mem.write m a (bytesOf n v)

/-- The first `some` of f over 0, 1, …, n - 1. -/
def firstSome {α : Type} (f : Nat → Option α) (n : Nat) : Option α :=
  (List.range n).findSome? f

/-- A list with its k-th entry changed. -/
def modAt {α : Type} (l : List α) (k : Nat) (f : α → α) : List α := l.modify k f

/-- Two's complement reading of the low w bits of n (00 R15). -/
def sintOf (w n : Nat) : Int := if n % 2 ^ w < 2 ^ (w - 1) then (n % 2 ^ w : Nat) else (n % 2 ^ w : Nat) - (2 ^ w : Nat)

/-- The w-bit pattern of an integer (00 R15 wrap). -/
def wrapTo (w : Nat) (x : Int) : Nat := (x % (2 ^ w : Nat)).toNat

/-- The low w bits of n. -/
def lowBitsOf (w n : Nat) : Nat := n % 2 ^ w

/-- An integer clamped to the signed or unsigned range of w bits (00 R15 sat). -/
def clampTo (signed : Bool) (w : Nat) (x : Int) : Int :=
  let lo : Int := if signed then -(2 ^ (w - 1) : Nat) else 0
  let hi : Int := if signed then (2 ^ (w - 1) : Nat) - 1 else (2 ^ w : Nat) - 1
  if x < lo then lo else if hi < x then hi else x

/-- The word with bits lo + n - 1 : lo replaced by v. -/
def putField (w : Word) (lo n v : Nat) : Word :=
  BitVec.ofNat 64 (w.toNat - fld w.toNat lo n * 2 ^ lo + v % 2 ^ n * 2 ^ lo)

/-- Bits lo + n - 1 : lo of a word. -/
def getField (w : Word) (lo n : Nat) : Nat := fld w.toNat lo n

/-- Bit k of a word. -/
def getBit (w : Word) (k : Nat) : Bool := w.getLsbD k

/-- The word with bit k set to b. -/
def putBit (w : Word) (k : Nat) (b : Bool) : Word := putField w k 1 (bitOf b)

/-- a is older than or equal to b modulo 2^32 (02 R43). -/
def seqLe (a b : BitVec 32) : Bool := (b - a).toNat < 2 ^ 31

/-- a is older than b modulo 2^32 (02 R43). -/
def seqLt (a b : BitVec 32) : Bool := a != b && seqLe a b

end Sys2Proof.Machine
end

