-- ==== Sys2Proof/Machine/Float.lean ====
section
/-! DEFINITION. Floating-point arithmetic (09 R231-R249): exact values, round() of 00 R15 with the exceptions of R236,
and every scalar operation built on them. Formats hold bit patterns as natural numbers. -/

namespace Sys2Proof.Machine

/-- The rounding modes of round() (00 R15, 09 R235). -/
inductive RMode where | rne | rtz | rdn | rup | rna
  deriving DecidableEq, Repr

/-- A binary format: exponent and fraction widths (09 R231). -/
structure Fmt where
  eb : Nat
  fb : Nat
  deriving DecidableEq, Repr

/-- The format of a floating-point type (09 R231). -/
def fmtOf : FTy → Fmt
  | .f16 => ⟨5, 10⟩ | .bf16 => ⟨8, 7⟩ | .f32 => ⟨8, 23⟩ | .f64 => ⟨11, 52⟩

/-- The width of a format in bits. -/
def Fmt.width (f : Fmt) : Nat := f.eb + f.fb + 1
/-- The exponent bias. -/
def Fmt.bias (f : Fmt) : Nat := 2 ^ (f.eb - 1) - 1
/-- The exponent of the least significant bit of a subnormal. -/
def Fmt.qmin (f : Fmt) : Int := 1 - (f.bias : Int) - f.fb
/-- +Inf. -/
def Fmt.inf (f : Fmt) : Nat := (2 ^ f.eb - 1) * 2 ^ f.fb
/-- The sign bit. -/
def Fmt.sign (f : Fmt) : Nat := 2 ^ (f.eb + f.fb)
/-- The canonical quiet NaN (09 R232). -/
def Fmt.nan (f : Fmt) : Nat := f.inf + 2 ^ (f.fb - 1)
/-- The largest finite value. -/
def Fmt.maxFin (f : Fmt) : Nat := f.inf - 1
/-- A 16-bit format, the only ones FTZ acts on (09 R237). -/
def Fmt.is16 (f : Fmt) : Bool := f.width == 16

/-- The five exception flags in the layout of FFLAGS (03 R70). -/
abbrev Flags := BitVec 5
/-- Invalid operation. -/
def flNV : Flags := 16
/-- Division by zero. -/
def flDZ : Flags := 8
/-- Overflow. -/
def flOF : Flags := 4
/-- Underflow. -/
def flUF : Flags := 2
/-- Inexact. -/
def flNX : Flags := 1

/-- A result pattern with the exceptions it raised. -/
structure FRes where
  bits : Nat
  flags : Flags
  deriving DecidableEq, Repr

/-- A floating-point datum: the value is (−1)^neg × m × 2^e for a finite one with m > 0. -/
inductive FVal where
  | zero (neg : Bool)
  | fin (neg : Bool) (m : Nat) (e : Int)
  | inf (neg : Bool)
  | nan (signalling : Bool)
  deriving DecidableEq, Repr

/-- The datum a pattern encodes (09 R231, R233). -/
def fdecode (f : Fmt) (bits : Nat) : FVal :=
  let b := bits % 2 ^ f.width
  let neg := bitAt b (f.eb + f.fb)
  let e := fld b f.fb f.eb
  let m := b % 2 ^ f.fb
  if e = 2 ^ f.eb - 1 then
    if m = 0 then .inf neg else .nan (m < 2 ^ (f.fb - 1))
  else if e = 0 then
    if m = 0 then .zero neg else .fin neg m f.qmin
  else .fin neg (m + 2 ^ f.fb) (f.qmin + (e - 1 : Nat))

/-- A subnormal 16-bit operand reads as zero of its sign under FTZ (09 R237). -/
def fload (f : Fmt) (ftz : Bool) (bits : Nat) : FVal :=
  match fdecode f bits with
  | .fin neg m e => if ftz && f.is16 && decide (m < 2 ^ f.fb) then .zero neg else .fin neg m e
  | v => v

/-- m · 2^(−s), rounded to a natural number; `sticky` says the true value lies above m and below m + 1. -/
def roundShift (mode : RMode) (neg : Bool) (m : Nat) (s : Nat) (sticky : Bool) : Nat × Bool :=
  let q := m / 2 ^ s
  let r := m % 2 ^ s
  let inexact := r != 0 || sticky
  let twice := 2 * r
  let up :=
    match mode with
    | .rtz => false
    | .rdn => neg && inexact
    | .rup => !neg && inexact
    | .rna => s != 0 && decide (2 ^ s ≤ twice)
    | .rne => s != 0 && (decide (2 ^ s < twice) || (twice == 2 ^ s && (sticky || q % 2 == 1)))
  (if up then q + 1 else q, inexact)

/-- The position of the highest 1 bit of m > 0. -/
def topBit (m : Nat) : Nat := Nat.log2 m

/-- round() of ±m · 2^e, m > 0, into a floating-point format (00 R15, 09 R236, R237). `sticky` as in `roundShift`;
with it m must have at least two bits more than the format. -/
def roundFin (f : Fmt) (mode : RMode) (ftz : Bool) (neg : Bool) (m : Nat) (e : Int) (sticky : Bool) : FRes :=
  let top : Int := e + topBit m
  let emin : Int := f.qmin + f.fb
  let qn : Int := top - f.fb
  let q : Int := if qn < f.qmin then f.qmin else qn
  let m' := if e ≤ q then m else m * 2 ^ (e - q).toNat
  let s := if e ≤ q then (q - e).toNat else 0
  let (i, inexact) := roundShift mode neg m' s sticky
  let mag := (q - f.qmin).toNat * 2 ^ f.fb + i
  let sg := if neg then f.sign else 0
  -- tininess after rounding: rounded as if the exponent were unbounded, the result is below the least normal
  let tiny :=
    if emin ≤ top then false
    else if top + 1 < emin then true
    else
      let m2 := if e ≤ qn then m else m * 2 ^ (e - qn).toNat
      let s2 := if e ≤ qn then (qn - e).toNat else 0
      decide ((roundShift mode neg m2 s2 sticky).1 < 2 ^ (f.fb + 1))
  if f.inf ≤ mag then
    let toInf := match mode with
      | .rne | .rna => true
      | .rtz => false
      | .rdn => neg
      | .rup => !neg
    ⟨sg + (if toInf then f.inf else f.maxFin), flOF ||| flNX⟩
  else if ftz && f.is16 && tiny then ⟨sg, flUF ||| flNX⟩
  else ⟨sg + mag, (if inexact then flNX else 0) ||| (if tiny && inexact then flUF else 0)⟩

/-- An exact dyadic number n · 2^e. -/
structure Dy where
  n : Int
  e : Int
  deriving DecidableEq, Repr

/-- The exact sum. -/
def Dy.add (a b : Dy) : Dy :=
  let e := if a.e ≤ b.e then a.e else b.e
  ⟨a.n * (2 ^ (a.e - e).toNat : Nat) + b.n * (2 ^ (b.e - e).toNat : Nat), e⟩

/-- The exact product. -/
def Dy.mul (a b : Dy) : Dy := ⟨a.n * b.n, a.e + b.e⟩

/-- The negation. -/
def Dy.neg (a : Dy) : Dy := ⟨-a.n, a.e⟩

/-- a ≤ b. -/
def Dy.le (a b : Dy) : Bool := decide ((Dy.add a b.neg).n ≤ 0)

/-- round() of an exact dyadic; an exact zero takes the sign `zneg`. -/
def roundDy (f : Fmt) (mode : RMode) (ftz : Bool) (d : Dy) (zneg : Bool) : FRes :=
  if d.n = 0 then ⟨if zneg then f.sign else 0, 0⟩
  else roundFin f mode ftz (decide (d.n < 0)) d.n.natAbs d.e false

/-- The finite value of a datum, zero included. -/
def FVal.dy : FVal → Dy
  | .fin neg m e => ⟨if neg then -(m : Int) else m, e⟩
  | _ => ⟨0, 0⟩

/-- The sign of a datum. -/
def FVal.isNeg : FVal → Bool
  | .zero n => n | .fin n _ _ => n | .inf n => n | .nan _ => false

/-- A signalling NaN. -/
def FVal.isSig : FVal → Bool
  | .nan s => s | _ => false

/-- A NaN. -/
def FVal.isNan : FVal → Bool
  | .nan _ => true | _ => false

/-- An infinity. -/
def FVal.isInf : FVal → Bool
  | .inf _ => true | _ => false

/-- A zero. -/
def FVal.isZero : FVal → Bool
  | .zero _ => true | _ => false

/-- The datum with its sign inverted. -/
def FVal.flip : FVal → FVal
  | .zero n => .zero (!n) | .fin n m e => .fin (!n) m e | .inf n => .inf (!n) | v => v

/-- ±Inf of a format. -/
def infBits (f : Fmt) (neg : Bool) : Nat := f.inf + if neg then f.sign else 0
/-- ±0 of a format. -/
def zeroBits (f : Fmt) (neg : Bool) : Nat := if neg then f.sign else 0
/-- The canonical NaN, with NV. -/
def invalidRes (f : Fmt) : FRes := ⟨f.nan, flNV⟩
/-- The canonical NaN of an operation with NaN operands: NV for a signalling one (09 R233). -/
def nanRes (f : Fmt) (sig : Bool) : FRes := ⟨f.nan, if sig then flNV else 0⟩

/-- round() of a single datum into a format (00 R15, 09 R233). -/
def roundVal (f : Fmt) (mode : RMode) (ftz : Bool) : FVal → FRes
  | .zero n => ⟨zeroBits f n, 0⟩
  | .fin n m e => roundFin f mode ftz n m e false
  | .inf n => ⟨infBits f n, 0⟩
  | .nan s => nanRes f s

/-- The exact sum of two data, rounded. -/
def addVal (f : Fmt) (mode : RMode) (ftz : Bool) (a b : FVal) : FRes :=
  match a, b with
  | .nan s, b => nanRes f (s || b.isSig)
  | a, .nan s => nanRes f (s || a.isSig)
  | .inf n, .inf n' => if n = n' then ⟨infBits f n, 0⟩ else invalidRes f
  | .inf n, _ => ⟨infBits f n, 0⟩
  | _, .inf n => ⟨infBits f n, 0⟩
  | .zero n, .zero n' => ⟨zeroBits f (if n = n' then n else mode == .rdn), 0⟩
  | a, b => roundDy f mode ftz (a.dy.add b.dy) (mode == .rdn)

/-- The exact product of two data, rounded. -/
def mulVal (f : Fmt) (mode : RMode) (ftz : Bool) (a b : FVal) : FRes :=
  match a, b with
  | .nan s, b => nanRes f (s || b.isSig)
  | a, .nan s => nanRes f (s || a.isSig)
  | .inf n, b => if b.isZero then invalidRes f else ⟨infBits f (n != b.isNeg), 0⟩
  | a, .inf n => if a.isZero then invalidRes f else ⟨infBits f (n != a.isNeg), 0⟩
  | a, b => roundDy f mode ftz (a.dy.mul b.dy) (a.isNeg != b.isNeg)

/-- a × b + c with one rounding. -/
def fmaVal (f : Fmt) (mode : RMode) (ftz : Bool) (a b c : FVal) : FRes :=
  if a.isNan || b.isNan || c.isNan then
    let bad := (a.isInf && b.isZero) || (a.isZero && b.isInf)
    nanRes f (a.isSig || b.isSig || c.isSig || bad)
  else if (a.isInf && b.isZero) || (a.isZero && b.isInf) then invalidRes f
  else if a.isInf || b.isInf then
    let n := a.isNeg != b.isNeg
    match c with
    | .inf n' => if n = n' then ⟨infBits f n, 0⟩ else invalidRes f
    | _ => ⟨infBits f n, 0⟩
  else
    match c with
    | .inf n => ⟨infBits f n, 0⟩
    | c =>
      let pn := a.isNeg != b.isNeg
      if (a.isZero || b.isZero) && c.isZero then ⟨zeroBits f (if pn = c.isNeg then pn else mode == .rdn), 0⟩
      else roundDy f mode ftz ((a.dy.mul b.dy).add c.dy) (mode == .rdn)

/-- The exact quotient of two data, rounded. -/
def divVal (f : Fmt) (mode : RMode) (ftz : Bool) (a b : FVal) : FRes :=
  let n := a.isNeg != b.isNeg
  match a, b with
  | .nan s, b => nanRes f (s || b.isSig)
  | a, .nan s => nanRes f (s || a.isSig)
  | .inf _, .inf _ => invalidRes f
  | .inf _, _ => ⟨infBits f n, 0⟩
  | _, .inf _ => ⟨zeroBits f n, 0⟩
  | .zero _, .zero _ => invalidRes f
  | .zero _, _ => ⟨zeroBits f n, 0⟩
  | .fin _ _ _, .zero _ => ⟨infBits f n, flDZ⟩
  | .fin _ ma ea, .fin _ mb eb =>
    let k := f.fb + 6 + topBit mb
    roundFin f mode ftz n (ma * 2 ^ k / mb) (ea - eb - k) (ma * 2 ^ k % mb != 0)

/-- The integer square root of n, from the bits k - 1 down. -/
def isqrtFrom (n : Nat) : Nat → Nat → Nat
  | 0, r => r
  | k + 1, r =>
    let t := r + 2 ^ k
    isqrtFrom n k (if t * t ≤ n then t else r)

/-- The integer square root. -/
def isqrt (n : Nat) : Nat := isqrtFrom n (topBit n / 2 + 1) 0

/-- The exact square root of a datum, rounded. -/
def sqrtVal (f : Fmt) (mode : RMode) (ftz : Bool) : FVal → FRes
  | .nan s => nanRes f s
  | .zero n => ⟨zeroBits f n, 0⟩
  | .inf true => invalidRes f
  | .inf false => ⟨f.inf, 0⟩
  | .fin true _ _ => invalidRes f
  | .fin false m e =>
    let (m, e) := if e % 2 = 0 then (m, e) else (2 * m, e - 1)
    let k := f.fb + 6
    let n := m * 2 ^ (2 * k)
    let r := isqrt n
    roundFin f mode ftz false r (e / 2 - k) (r * r != n)

/-- The exact reciprocal square root of a datum, rounded: DZ for ±0 (09 R236, R247). -/
def rsqVal (f : Fmt) (mode : RMode) (ftz : Bool) : FVal → FRes
  | .nan s => nanRes f s
  | .zero n => ⟨infBits f n, flDZ⟩
  | .inf true => invalidRes f
  | .inf false => ⟨0, 0⟩
  | .fin true _ _ => invalidRes f
  | .fin false m e =>
    let (m, e) := if e % 2 = 0 then (m, e) else (2 * m, e - 1)
    let k := f.fb + 6 + topBit m
    let r := isqrt (2 ^ (2 * k) / m)
    roundFin f mode ftz false r (-(e / 2) - k) (r * r * m != 2 ^ (2 * k))

/-- The exact reciprocal of a datum, rounded: DZ for ±0 (09 R236, R247). -/
def rcpVal (f : Fmt) (mode : RMode) (ftz : Bool) (a : FVal) : FRes :=
  match a with
  | .zero n => ⟨infBits f n, flDZ⟩
  | a => divVal f mode ftz (.fin false 1 0) a

/-- a is less than b, for data that are no NaN; −0 equals +0. -/
def ltVal (a b : FVal) : Bool :=
  match a, b with
  | .inf n, .inf n' => n && !n'
  | .inf n, _ => n
  | _, .inf n => !n
  | a, b => decide ((a.dy.add b.dy.neg).n < 0)

/-- a equals b, for data that are no NaN; −0 equals +0. -/
def eqVal (a b : FVal) : Bool := !ltVal a b && !ltVal b a

/-! ### Integers -/

/-- A dyadic rounded to an integer (00 R15), and whether that changed it. -/
def roundInt (mode : RMode) (d : Dy) : Int × Bool :=
  if 0 ≤ d.e then (d.n * (2 ^ d.e.toNat : Nat), false)
  else
    let neg := decide (d.n < 0)
    let (i, x) := roundShift mode neg d.n.natAbs (-d.e).toNat false
    (if neg then -(i : Int) else i, x)

/-- Floating point to a w-bit integer (09 R238). -/
def toInt (signed : Bool) (w : Nat) (mode : RMode) (v : FVal) : FRes :=
  let bound (neg : Bool) : Nat :=
    wrapTo w (clampTo signed w (if neg then -(2 ^ 70 : Nat) else (2 ^ 70 : Nat)))
  match v with
  | .nan _ => ⟨0, flNV⟩
  | .inf n => ⟨bound n, flNV⟩
  | v =>
    let (i, x) := roundInt mode v.dy
    let c := clampTo signed w i
    if c = i then ⟨wrapTo w i, if x then flNX else 0⟩ else ⟨wrapTo w c, flNV⟩

/-- A w-bit integer to floating point (09 R238). -/
def ofInt (f : Fmt) (mode : RMode) (ftz : Bool) (x : Int) : FRes := roundDy f mode ftz ⟨x, 0⟩ false

/-- One floating-point format to another (09 R238): the 16-bit source honours FTZ through `fload`. -/
def cvtFloat (dst : Fmt) (mode : RMode) (ftz : Bool) (v : FVal) : FRes := roundVal dst mode ftz v

/-- sat() of a floating-point pattern (00 R15). -/
def satBits (f : Fmt) (bits : Nat) : Nat :=
  match fdecode f bits with
  | .inf n => f.maxFin + if n then f.sign else 0
  | _ => bits

/-! ### Minimum, maximum, class and comparisons (11 R285, R287, R288) -/

/-- FMIN and FMAX: a NaN operand gives the other; two NaNs give the canonical NaN; −0 is below +0. -/
def minmax (f : Fmt) (max : Bool) (ftz : Bool) (x y : Nat) : FRes :=
  let a := fload f ftz x
  let b := fload f ftz y
  let fl := if a.isSig || b.isSig then flNV else 0
  let pat (v : FVal) : Nat := (roundVal f .rne ftz v).bits
  if a.isNan && b.isNan then ⟨f.nan, fl⟩
  else if a.isNan then ⟨pat b, fl⟩
  else if b.isNan then ⟨pat a, fl⟩
  else
    let aLess := ltVal a b || (a.isZero && b.isZero && a.isNeg)
    ⟨pat (if aLess != max then a else b), fl⟩

/-- The class of a pattern as FCLASS gives it (11 R288). -/
def fclassOf (f : Fmt) (bits : Nat) : Nat :=
  match fdecode f bits with
  | .inf true => 2 ^ 0
  | .fin true m _ => if m < 2 ^ f.fb then 2 ^ 2 else 2 ^ 1
  | .zero true => 2 ^ 3
  | .zero false => 2 ^ 4
  | .fin false m _ => if m < 2 ^ f.fb then 2 ^ 5 else 2 ^ 6
  | .inf false => 2 ^ 7
  | .nan true => 2 ^ 8
  | .nan false => 2 ^ 9

/-- The floating-point comparisons: LT and LE raise NV for any NaN, EQ and UN for a signalling one. -/
def fcmpVal (c : FCond) (a b : FVal) : Bool × Flags :=
  let sig := a.isSig || b.isSig
  let nan := a.isNan || b.isNan
  match c with
  | .un => (nan, if sig then flNV else 0)
  | .eq => (!nan && eqVal a b, if sig then flNV else 0)
  | .lt => (!nan && ltVal a b, if nan then flNV else 0)
  | .le => (!nan && (ltVal a b || eqVal a b), if nan then flNV else 0)

/-! ### Special functions (09 R247-R249) -/

/-- f32(x): round to F32 under RNE. -/
def f32Of (v : FVal) : Nat := (roundVal (fmtOf .f32) .rne false v).bits
/-- F(a, b, c): a × b + c rounded once to F32 (09 R247). -/
def f32fma (a b c : Nat) : Nat :=
  let d := fdecode (fmtOf .f32)
  (fmaVal (fmtOf .f32) .rne false (d a) (d b) (d c)).bits
/-- f32(a × b). -/
def f32mul (a b : Nat) : Nat :=
  let d := fdecode (fmtOf .f32)
  (mulVal (fmtOf .f32) .rne false (d a) (d b)).bits
/-- A Horner chain: p, then F(p, x, c) for each coefficient. -/
def horner (x p : Nat) (cs : List Nat) : Nat := cs.foldl (fun p c => f32fma p x c) p

/-- VFEXP2 in F32 (09 R248); of -150 and -151 it underflows with NX (assumption log 112). -/
def exp2F32 (bits : Nat) : FRes :=
  let f := fmtOf .f32
  match fdecode f bits with
  | .nan s => nanRes f s
  | .inf true => ⟨0, 0⟩
  | .inf false => ⟨f.inf, 0⟩
  | v =>
    let d := v.dy
    if !(Dy.add d ⟨-128, 0⟩).n < 0 then ⟨f.inf, flOF ||| flNX⟩
    else if (Dy.add d ⟨151, 0⟩).n < 0 then ⟨0, flUF ||| flNX⟩
    else
      let (n, _) := roundInt .rne d
      let fr := Dy.add d ⟨-n, 0⟩
      let fb := (roundDy f .rne false fr false).bits
      let p := horner fb 0x377FE61E [0x39218489, 0x3AAEC42D, 0x3C1D9552, 0x3D635847, 0x3E75FDEE, 0x3F317218, 0x3F800000]
      let pd := (fdecode f p).dy
      let r := roundDy f .rne false ⟨pd.n, pd.e + n⟩ false
      let fin := r.flags &&& (flOF ||| flUF)
      ⟨r.bits, if fr.n = 0 then r.flags else fin ||| flNX⟩

/-- VFLOG2 in F32 (09 R248). -/
def log2F32 (bits : Nat) : FRes :=
  let f := fmtOf .f32
  match fdecode f bits with
  | .nan s => nanRes f s
  | .inf true => invalidRes f
  | .inf false => ⟨f.inf, 0⟩
  | .zero _ => ⟨infBits f true, flDZ⟩
  | .fin true _ _ => invalidRes f
  | .fin false m e =>
    let k := topBit m
    -- x = (m / 2^k) · 2^(e + k); the significand scaled to 24 bits
    let m24 := m * 2 ^ (23 - k)
    let e0 : Int := e + k
    let halve := decide (0xB504F3 ≤ m24)
    -- the significand as mm · 2^(−24): m24 · 2 without halving, m24 with it
    let mm : Nat := if halve then m24 else 2 * m24
    let e1 : Int := if halve then e0 + 1 else e0
    let num : Int := (mm : Int) - (2 ^ 24 : Nat)
    let den : Int := (mm : Int) + (2 ^ 24 : Nat)
    let val (x : Int) : FVal := if x = 0 then .zero false else .fin (decide (x < 0)) x.natAbs 0
    let t := (divVal f .rne false (val num) (val den)).bits
    let z := f32mul t t
    let p := horner z 0x3EA4258A [0x3ED30BDD, 0x3F13BB62, 0x3F763848, 0x4038AA3B]
    let q := f32mul p t
    let r := addVal f .rne false (val e1) (fdecode f q)
    ⟨if r.bits = f.sign then 0 else r.bits, if num = 0 then 0 else (r.flags &&& (flOF ||| flUF)) ||| flNX⟩

/-- The exact cases of VFSINPI and VFCOSPI: an integer or a half-integer (09 R249). -/
def sincosExact (f : Fmt) (cosine : Bool) (v : FVal) : Option Nat :=
  let one (neg : Bool) : Nat := (f.bias * 2 ^ f.fb) + if neg then f.sign else 0
  let d := v.dy
  let (n, x) := roundInt .rtz d
  if !x then
    some (if cosine then one (n % 2 != 0) else zeroBits f v.isNeg)
  else
    let (h, y) := roundInt .rtz (Dy.add d ⟨-1, -1⟩)
    if !y then some (if cosine then 0 else one (h % 2 != 0)) else none

/-- VFSINPI and VFCOSPI in F32 (09 R249). -/
def sincosF32 (cosine : Bool) (bits : Nat) : FRes :=
  let f := fmtOf .f32
  match fdecode f bits with
  | .nan s => nanRes f s
  | .inf _ => invalidRes f
  | v =>
    match sincosExact f cosine v with
    | some b => ⟨b, 0⟩
    | none =>
      let d := v.dy
      let (j, _) := roundInt .rne ⟨d.n, d.e + 1⟩
      let k := j % 4
      let r := (roundDy f .rne false (Dy.add d ⟨-j, -1⟩) false).bits
      let z := f32mul r r
      let s := f32mul (horner z 0x3DA83C17 [0xBF196967, 0x402335E3, 0xC0A55DC6, 0x40490FDB]) r
      let c := horner z 0xBCD368ED [0x3E70FA7A, 0xBFAAE9E3, 0x4081E0F8, 0xC09DE9EA, 0x3F800000]
      let ng (b : Nat) : Nat := (b + f.sign) % 2 ^ 32
      let out :=
        if cosine then (if k = 0 then c else if k = 1 then ng s else if k = 2 then ng c else s)
        else (if k = 0 then s else if k = 1 then c else if k = 2 then ng s else ng c)
      -- the last rounding is that of S × r; it underflows where the product is subnormal
      let uf := decide (out % f.sign < 2 ^ f.fb)
      ⟨out, if uf then flUF ||| flNX else flNX⟩

/-- The fixed-point scale of the 16-bit special functions. -/
def fixP : Nat := 160
/-- ln 2 · 2^160, rounded down. -/
def fixLn2 : Nat := 1013035739299659071135698605846798551586536899366
/-- π · 2^160, rounded down. -/
def fixPi : Nat := 4591442807048218921384805199743311128454155024418

/-- Σ y^k / k! in fixed point, k from n downwards: Horner 1 + y/1 (1 + y/2 (…)). -/
def fixExp (y : Nat) : Nat → Nat → Nat
  | 0, acc => acc
  | k + 1, acc => fixExp y k (2 ^ fixP + y * acc / (k + 1) / 2 ^ fixP)

/-- 1 − u/(a(a+1)) (1 − u/((a+2)(a+3)) (…)) in fixed point, with u = θ²: the series of sin (a = 2) and cos (a = 1). -/
def fixTrig (u a : Nat) : Nat → Nat → Nat
  | 0, acc => acc
  | k + 1, acc => fixTrig u a k (2 ^ fixP - u * acc / ((a + 2 * k) * (a + 2 * k + 1)) / 2 ^ fixP)

/-- VFEXP2 of a 16-bit format, correctly rounded (09 R247). -/
def exp2F16 (f : Fmt) (mode : RMode) (ftz : Bool) (v : FVal) : FRes :=
  match v with
  | .nan s => nanRes f s
  | .inf true => ⟨0, 0⟩
  | .inf false => ⟨f.inf, 0⟩
  | v =>
    let d := v.dy
    let (n, x) := roundInt .rdn d
    if !x then (if n < 2000 ∧ -2000 < n then roundFin f mode ftz false 1 n false
      else if 0 ≤ n then roundFin f mode ftz false 1 2000 false else roundFin f mode ftz false 2 (-2001) true)
    else if 2000 ≤ n then roundFin f mode ftz false (2 ^ 20) 2000 true
    else if n ≤ -2000 then roundFin f mode ftz false (2 ^ 20) (-2020) true
    else if d.e < -140 then
      -- |x| below 2^-130: the result lies strictly between 1 and its neighbour on x's side
      if 0 < d.n then roundFin f mode ftz false (2 ^ 60) (-60) true else roundFin f mode ftz false (2 ^ 60 - 1) (-60) true
    else
      let fr := Dy.add d ⟨-n, 0⟩
      let fx := (fr.n.toNat * 2 ^ fixP) / 2 ^ (-fr.e).toNat
      let y := fx * fixLn2 / 2 ^ fixP
      roundFin f mode ftz false (fixExp y 45 (2 ^ fixP)) (n - fixP) true

/-- log2 of y · 2^(−400), y in [1, 2), as k bits after the point. -/
def fixLog : Nat → Nat → Nat → Nat
  | 0, _, acc => acc
  | k + 1, y, acc =>
    let y2 := y * y / 2 ^ 400
    if 2 ^ 401 ≤ y2 then fixLog k (y2 / 2) (2 * acc + 1) else fixLog k y2 (2 * acc)

/-- VFLOG2 of a 16-bit format, correctly rounded (09 R247). -/
def log2F16 (f : Fmt) (mode : RMode) (ftz : Bool) (v : FVal) : FRes :=
  match v with
  | .nan s => nanRes f s
  | .inf true => invalidRes f
  | .inf false => ⟨f.inf, 0⟩
  | .zero _ => ⟨infBits f true, flDZ⟩
  | .fin true _ _ => invalidRes f
  | .fin false m e =>
    let k := topBit m
    let e0 : Int := e + k
    if m = 2 ^ k then roundDy f mode ftz ⟨e0, 0⟩ false
    else
      let bits := fixLog 96 (m * 2 ^ 400 / 2 ^ k) 0
      if 0 ≤ e0 then roundFin f mode ftz false (e0.toNat * 2 ^ 96 + bits) (-96) true
      else roundFin f mode ftz true ((-e0).toNat * 2 ^ 96 - bits - 1) (-96) true

/-- VFSINPI and VFCOSPI of a 16-bit format, correctly rounded (09 R247, R249). -/
def sincosF16 (f : Fmt) (cosine : Bool) (mode : RMode) (ftz : Bool) (v : FVal) : FRes :=
  match v with
  | .nan s => nanRes f s
  | .inf _ => invalidRes f
  | v =>
    match sincosExact f cosine v with
    | some b => ⟨b, 0⟩
    | none =>
      let d := v.dy
      let (j, _) := roundInt .rne ⟨d.n, d.e + 1⟩
      let k := j % 4
      let r := Dy.add d ⟨-j, -1⟩
      let neg := decide (r.n < 0)
      let m := r.n.natAbs
      let sh := (-r.e).toNat
      -- θ² in fixed point; θ = π |r|
      let u := fixPi * fixPi * (m * m) / 2 ^ fixP / 2 ^ (2 * sh)
      let useSin := decide (k = 0 ∨ k = 2) != cosine
      let sg := if cosine then (if useSin then (neg != decide (k = 1)) else decide (k = 2))
        else (if useSin then (neg != decide (k = 2)) else decide (k = 3))
      if useSin then
        roundFin f mode ftz sg (m * (fixPi * fixTrig u 2 30 (2 ^ fixP) / 2 ^ fixP)) (r.e - fixP) true
      else roundFin f mode ftz sg (fixTrig u 1 30 (2 ^ fixP) - 1) (-(fixP : Int)) true

end Sys2Proof.Machine
end

