-- ==== Sys2Proof/Machine/Access.lean ====
section
/-! DEFINITION. Access to the parts of the state: one total accessor and one update for each kind of part, the register
files, the effective region blocks and the counters. -/

namespace Sys2Proof.Machine

/-- The outcome of one step of this machine. -/
abbrev Out := Host.Outcome State Fault Refusal

/-! ### Vectors by number -/

/-- Entry k of a vector; d outside it. -/
def vget {α : Type} {n : Nat} (v : Vector α n) (k : Nat) (d : α) : α := v.toList.getD k d

/-- The vector with entry k replaced; unchanged outside it. -/
def vset {α : Type} {n : Nat} (v : Vector α n) (k : Nat) (x : α) : Vector α n := v.setIfInBounds k x

/-! ### Threads, members, teams, clusters, dies -/

/-- What an absent thread number stands for: a context that has ended. -/
def Thread.absent : Thread :=
  { Thread.create .strand 0 0 0 0 SysRegs.reset with run := .done, active := false }

/-- Thread t. -/
def State.th (s : State) (t : Nat) : Thread := s.threads.getD t Thread.absent

/-- Thread t changed by f. -/
def State.modTh (s : State) (t : Nat) (f : Thread → Thread) : State := { s with threads := s.threads.modify t f }

/-- An empty channel (06 R156). -/
def Channel.reset : Channel :=
  { issued := 0, completed := 0, chain := 0, chainPc := 0, chainSeq := 0, chainThr := 0, chainNum := 0, chainPos := 0, chainParked := false }

/-- A tile whose life is not open (08 R222). -/
def TileLife.reset : TileLife :=
  { isOpen := false, continued := false, flags := 0, nops := 0, skipgrp := 0, zskip := 0, opwait := 0, cins := 0,
    cine := 0, cmps := 0, cmpe := 0, couts := 0, coute := 0 }

/-- A member at creation: communication registers, tile store and accumulator store zero (03 R65, 04 R92). -/
def Member.create (team idx : Nat) (full fusel1 : Bool) (tilesz die cluster half : Nat) : Member :=
  { team, idx, full, fusel1, tilesz, die, cluster, half, waitClear := false, placed := true, ended := false, sem := 0,
    box := Vector.replicate 16 0, tile := [], tilePoison := [], acc := [], accPoison := [],
    chans := Vector.replicate 8 Channel.reset, lives := Vector.replicate 16 TileLife.reset, barArrived := [],
    saveBase := 0, savedWalker := none, ctxs := [] }

/-- What an absent member number stands for. -/
def Member.absent : Member := { Member.create 0 0 false false 0 0 0 0 with ended := true }

/-- Member m. -/
def State.mb (s : State) (m : Nat) : Member := s.members.getD m Member.absent

/-- Member m changed by f. -/
def State.modMb (s : State) (m : Nat) (f : Member → Member) : State := { s with members := s.members.modify m f }

/-- A launch token of zeros (06 R151). -/
def Token.zero : Token :=
  { desc := 0, args := 0, donerec := 0, depk := 0, depobj := 0, depcnt := 0, tag := 0, malformed := false, enq := 0, num := 0 }

/-- What an absent team number stands for. -/
def Team.absent : Team :=
  { state := .ended, token := Token.zero, rid := 0, size := 0, members := [], place := 0, pins := [], barArrived := [], ran := 0,
    sincePass := 0, reqAt := 0, savedDie := 0, savedAt := 0, dbg := false, halted := false, faultClass := 0, faultEng := 0,
    endCode := none }

/-- Team k. -/
def State.tm (s : State) (k : Nat) : Team := s.teams.getD k Team.absent

/-- The team is on its cores: it runs, or has been asked to leave them. -/
def Team.onCores (tm : Team) : Bool := match tm.state with | .running => true | .preempting _ => true | _ => false

/-- Team k changed by f. -/
def State.modTm (s : State) (k : Nat) (f : Team → Team) : State := { s with teams := s.teams.modify k f }

/-- The number of cluster c of die d in the table of clusters. -/
def cluKey (d c : Nat) : Nat := d * 128 + c

/-- Cluster number k of the table of clusters. -/
def State.clu (s : State) (k : Nat) : Cluster := (Tbl.find k s.clusters).getD (Cluster.reset 127)

/-- Cluster k changed by f. -/
def State.modClu (s : State) (k : Nat) (f : Cluster → Cluster) : State :=
  { s with clusters := Tbl.modify k f s.clusters }

/-- Die d. -/
def State.die (s : State) (d : Nat) : Die := vget s.dies d Die.reset

/-- Die d changed by f. -/
def State.modDie (s : State) (d : Nat) (f : Die → Die) : State := { s with dies := vset s.dies d (f (s.die d)) }

/-- Every die changed by f. -/
def State.allDies (s : State) (f : Die → Die) : State := (List.range 4).foldl (fun s d => s.modDie d f) s

/-- Command number c, if pending. -/
def State.cmd (s : State) (c : Nat) : Option Cmd := s.cmds.find? (·.id == c)

/-- Command number c changed by f. -/
def State.modCmd (s : State) (c : Nat) (f : Cmd → Cmd) : State :=
  { s with cmds := s.cmds.map fun x => if x.id == c then f x else x }

/-- Command number c removed. -/
def State.dropCmd (s : State) (c : Nat) : State := { s with cmds := s.cmds.filter (·.id != c) }

/-- An event posted behind those that wait. -/
def State.post (s : State) (k : EvKind) (a b : Nat := 0) : State := { s with inbox := s.inbox ++ [.post k a b] }

/-- An event posted unless the same one already waits. -/
def State.postOnce (s : State) (k : EvKind) (a b : Nat := 0) : State :=
  if s.inbox.contains (.post k a b) then s else s.post k a b

/-- The member of thread t. -/
def State.mbOf (s : State) (t : Nat) : Member := s.mb (s.th t).member

/-- The die thread t runs on. -/
def State.dieOf (s : State) (t : Nat) : Nat :=
  if (s.th t).kind = .supervisor then (s.th t).member else (s.mbOf t).die

/-- The cluster thread t runs on, as a number of the table of clusters; none for a supervisor core. -/
def State.cluOf (s : State) (t : Nat) : Option Nat :=
  if (s.th t).kind = .supervisor then none else some (cluKey (s.mbOf t).die (s.mbOf t).cluster)

/-- The region of thread t; 0 for a supervisor core. -/
def State.ridOf (s : State) (t : Nat) : Nat :=
  if (s.th t).kind = .supervisor then 0 else (s.tm (s.th t).team).rid

/-- The threads of member m. -/
def State.threadsOf (s : State) (m : Nat) : List Nat :=
  (List.range s.threads.length).filter fun t => (s.th t).kind != .supervisor && (s.th t).member == m

/-- The threads of team k. -/
def State.teamThreads (s : State) (k : Nat) : List Nat :=
  (List.range s.threads.length).filter fun t => (s.th t).kind != .supervisor && (s.th t).team == k

/-- A thread of member m is stopped by a trap, so the member issues nothing (03 R77, R89). -/
def State.memberStopped (s : State) (m : Nat) : Bool :=
  s.threads.any fun th => th.kind != .supervisor && th.member == m &&
    (th.run == .stopped || th.run == .endedStopped)

/-- Thread t may issue: it is resident, runs or retries a wait, no member of its team waits for its space to be cleared (02
R36: members start and resume together), its team is not stopping for a forced save, its member is not stopped and its team is not halted. A thread that the debugger steps runs alone (08 R227). -/
def State.runnable (s : State) (t : Nat) : Bool :=
  decide (t < s.threads.length) && (s.th t).active &&
  (match (s.th t).run with | .running => true | .blocked _ => true | _ => false) &&
  ((s.th t).kind == .supervisor ||
    ((s.tm (s.th t).team).state != .saved && (s.tm (s.th t).team).state != .preempting true && !(s.tm (s.th t).team).members.any (fun m => (s.mb m).waitClear) &&
      ((s.th t).stepReq || (!(s.memberStopped (s.th t).member) && !(s.tm (s.th t).team).halted))))

/-! ### Register files (03 R61, R63) -/

/-- Register x r of a strand or supervisor core: x0 reads zero. -/
def Thread.rx (th : Thread) (r : XReg) : Word := if r = 0 then 0 else th.x[r.toNat]

/-- Register x r written: a write to x0 is discarded. -/
def Thread.wx (th : Thread) (r : XReg) (v : Word) : Thread :=
  if r = 0 then th else { th with x := th.x.set r.toNat v }

/-- Control-core register c r: none is hard-wired. -/
def Thread.rc (th : Thread) (r : BitVec 5) : Word := th.x[r.toNat]

/-- Control-core register c r written. -/
def Thread.wc (th : Thread) (r : BitVec 5) (v : Word) : Thread := { th with x := th.x.set r.toNat v }

/-! ### Uncorrectable errors outside memory (04 R111; assumption log 107) -/

/-- The item holds an uncorrectable error. -/
def State.struck (s : State) (u : Upset) : Bool := s.upsets.contains u

/-- The items that f names are written whole: they hold no error any more. -/
def State.heal (s : State) (f : Upset → Bool) : State := { s with upsets := s.upsets.filter fun u => !f u }

/-- POISON with TRAPADDR 0, at an element. -/
def upsetTrap (elem : Nat) : Trap := { cause := 0x08, sub := 0x00, elem, addr := 0 }

/-! ### Regions (07 R175, R176) -/

/-- What an absent region stands for. -/
def Region.absent : Region :=
  { parent := 0, ovr := 0, leaf := false, prio := 0, fdom := 0, home := 0, share := 1, eager := 16, placeok := 0,
    nomig := false, slice := 280000, waitthr := 2800000, deadline := 28000, conf := false, hrlog := 4, collog := 12,
    root := 0, hring := 0, keyidx := 0, slots := 0, maxw := 255, lqent := 0, nsmib := 0, formes := 0, endpts := 0,
    mctxs := 0, precv := 0, pairs := 0, stmib := 0, sttags := 0, wment := 0, distent := 0 }

/-- Block r completed by its parent's effective copy p, group by group of OVR (07 R176). -/
def Region.over (r p : Region) : Region :=
  let g := fun k => r.ovr.getLsbD k
  { r with
    prio := if g 0 then r.prio else p.prio
    fdom := if g 1 then r.fdom else p.fdom
    home := if g 2 then r.home else p.home
    share := if g 3 then r.share else p.share
    eager := if g 4 then r.eager else p.eager
    placeok := if g 5 then r.placeok else p.placeok
    nomig := if g 5 then r.nomig else p.nomig
    slice := if g 6 then r.slice else p.slice
    waitthr := if g 7 then r.waitthr else p.waitthr
    deadline := if g 8 then r.deadline else p.deadline
    conf := if g 9 then r.conf else p.conf
    keyidx := if g 9 then r.keyidx else p.keyidx
    hrlog := if g 10 then r.hrlog else p.hrlog
    collog := if g 10 then r.collog else p.collog
    hring := if g 10 then r.hring else p.hring
    root := if g 11 then r.root else p.root
    slots := if g 12 then r.slots else p.slots
    maxw := if g 12 then r.maxw else p.maxw
    lqent := if g 12 then r.lqent else p.lqent
    nsmib := if g 13 then r.nsmib else p.nsmib
    formes := if g 14 then r.formes else p.formes
    endpts := if g 14 then r.endpts else p.endpts
    mctxs := if g 14 then r.mctxs else p.mctxs
    precv := if g 14 then r.precv else p.precv
    pairs := if g 14 then r.pairs else p.pairs
    stmib := if g 15 then r.stmib else p.stmib
    sttags := if g 15 then r.sttags else p.sttags
    wment := if g 16 then r.wment else p.wment
    distent := if g 16 then r.distent else p.distent }

/-- The chain of regions from rid to its root, at most n of them. -/
def regionChain (regions : Tbl Region) : Nat → Nat → List Nat
  | 0, _ => []
  | n + 1, rid =>
    match Tbl.find rid regions with
    | none => []
    | some r => rid :: (if r.parent = 0 then [] else regionChain regions n r.parent)

/-- The regions charged for a use by rid: rid and its ancestors (07 R178). -/
def State.chain (s : State) (rid : Nat) : List Nat := regionChain s.regions s.regions.length rid

/-- The effective block of region rid (07 R176). -/
def State.region (s : State) (rid : Nat) : Region :=
  ((s.chain rid).filterMap fun r => Tbl.find r s.regions).foldr (fun r acc =>
    match acc with | none => some r | some p => some (r.over p)) none |>.getD Region.absent

/-- Region rid is valid. -/
def State.validRegion (s : State) (rid : Nat) : Bool := (Tbl.find rid s.regions).isSome

/-- The regions of the subtree of rid, itself among them. -/
def State.subtree (s : State) (rid : Nat) : List Nat :=
  (s.regions.map (·.1)).filter fun r => (s.chain r).contains rid

/-- A use of a budgeted resource by rid fits: for rid and every ancestor, what its subtree uses and the new amount stay
within its effective budget (07 R178). -/
def State.fits (s : State) (rid : Nat) (budget : Region → Nat) (used : Nat → Nat) (n : Nat) : Bool :=
  (s.chain rid).all fun a => ((s.subtree a).map used).sum + n ≤ budget (s.region a)

/-! ### Counters (08 R213, R214) -/

/-- One counter and its configuration word after n events of a code. -/
def bumpPmc (cfg cnt : Word) (code n : Nat) : Word × Word :=
  if getBit cfg 16 && getField cfg 0 12 == code then
    (if cnt.toNat + n < 2 ^ 64 then cfg else putBit cfg 17 true, cnt + BitVec.ofNat 64 n)
  else (cfg, cnt)

/-- The thread's counters after n events of a code. -/
def SysRegs.count (r : SysRegs) (code n : Nat) : SysRegs :=
  if r.pmccfg.toList.any (getBit · 16) then
    (List.range 16).foldl (fun r k =>
      { r with pmccfg := vset r.pmccfg k (bumpPmc (vget r.pmccfg k 0) (vget r.pmc k 0) code n).1,
               pmc := vset r.pmc k (bumpPmc (vget r.pmccfg k 0) (vget r.pmc k 0) code n).2 }) r
  else r

/-- The cluster's shared counters after n events of a code. -/
def Cluster.count (c : Cluster) (code n : Nat) : Cluster :=
  if c.cfg.toList.any (getBit · 16) then
    (List.range 16).foldl (fun c k =>
      { c with cfg := vset c.cfg k (bumpPmc (vget c.cfg k 0) (vget c.ctr k 0) code n).1,
               ctr := vset c.ctr k (bumpPmc (vget c.cfg k 0) (vget c.ctr k 0) code n).2 }) c
  else c

/-- The die's counters after n events of a code. -/
def Die.count (d : Die) (code n : Nat) : Die :=
  if d.cfg.toList.any (getBit · 16) then
    (List.range 64).foldl (fun d k =>
      { d with cfg := vset d.cfg k (bumpPmc (vget d.cfg k 0) (vget d.ctr k 0) code n).1,
               ctr := vset d.ctr k (bumpPmc (vget d.cfg k 0) (vget d.ctr k 0) code n).2 }) d
  else d

/-- The report of region rid on die d (17 R437). -/
def State.report (s : State) (rid d : Nat) : Report :=
  (Tbl.find (rid * 4 + d) s.mgmt.reports).getD
    { cls := 0, eng := 0, cycles := 0, convoys := 0, words := 0, platen := 0, commands := 0 }

/-- The report of region rid on die d changed by f. -/
def State.modReport (s : State) (rid d : Nat) (f : Report → Report) : State :=
  { s with mgmt := { s.mgmt with reports := Tbl.insert (rid * 4 + d) (f (s.report rid d)) s.mgmt.reports } }

/-- A report after n events of a code (17 R437). -/
def Report.count (r : Report) (code n : Nat) : Report :=
  match code with
  | 0x002 => { r with convoys := r.convoys + n }
  | 0x080 => { r with words := r.words + n }
  | 0x083 => { r with platen := r.platen + n }
  | 0x021 => { r with commands := r.commands + n }
  | _ => r

/-- n events of a code of R213 in thread t: its own counters while it is active, and its cluster's shared counters, or
the report of its region when that is confidential (08 R213, R214, 17 R437). -/
def State.count (s : State) (t code n : Nat) : State :=
  let s1 := s.modTh t fun th => if th.active then { th with sys := th.sys.count code n } else th
  match s.cluOf t with
  | none => s1
  | some k => if (s.region (s.ridOf t)).conf then s1.modReport (s.ridOf t) (k / 128) (·.count code n)
    else s1.modClu k (·.count (0x100 + code) n)

/-- n die events of a code (08 R214). -/
def State.countDie (s : State) (d code n : Nat) : State := s.modDie d (·.count code n)

/-- State s with the die counters of s0 when the region is confidential: its events are left out of them (08 R214). -/
def State.quiet (s0 : State) (rid : Nat) (s : State) : State :=
  if (s0.region rid).conf then
    { s with dies := Vector.ofFn fun d : Fin 4 => { s.die d.val with cfg := (s0.die d.val).cfg, ctr := (s0.die d.val).ctr } }
  else s

/-! ### Lanes bound to a strand (02 R41, 03 R72) -/

/-- Lanes bound: LANESHARE.L. -/
def Thread.lanes (th : Thread) : Nat := getField th.sys.laneshare 8 6

/-- The lanes bound, in order. -/
def Thread.laneList (th : Thread) : List Nat := List.range th.lanes

/-- The smallest commit pointer of the bound lanes; the next sequence number when there is none (02 R47). -/
def Thread.minCp (th : Thread) : BitVec 32 :=
  th.laneList.foldl (fun m j => if seqLt (vget th.cp j 0) m then vget th.cp j 0 else m) (vget th.cp 0 0)

/-- The largest commit pointer of the bound lanes (02 R47). -/
def Thread.maxCp (th : Thread) : BitVec 32 :=
  th.laneList.foldl (fun m j => if seqLt m (vget th.cp j 0) then vget th.cp j 0 else m) (vget th.cp 0 0)

/-- The present slip, SLIP.CUR (02 R47). -/
def Thread.slipCur (th : Thread) : Nat := (th.maxCp - th.minCp).toNat

/-- The slip bound, SLIP.BOUND (02 R47). -/
def Thread.slipBound (th : Thread) : Nat := getField th.sys.slip 0 6

/-- The events that hold in a cycle of a thread on its core, of those that its state alone decides: 0x001, 0x022 in a wait of
R56, and 0x007 at the slip bound (08 R213). -/
def Thread.cycleEvents (th : Thread) : List Nat :=
  0x001 :: ((match th.run with | .blocked _ => [0x022] | _ => []) ++
    (if th.kind = .strand ∧ th.slipCur = th.slipBound then [0x007] else []))

/-- One thread through n cycles of its cluster on core: its cycle events, and ONCORE of an open capture window (08 R213,
R216). -/
def Thread.passCycles (die n : Nat) (th : Thread) : Thread :=
  if th.active then
    let r := th.cycleEvents.foldl (fun r c => r.count c n) th.sys
    { th with sys := r,
              oncore := if getBit r.capstate 0 then
                  vset th.oncore die (vget th.oncore die 0 + BitVec.ofNat 64 n) else th.oncore }
  else th

/-- The shared counters of cluster k after n cycles of its threads: those of confidential contexts are left out (08 R214). -/
def State.countClu (s : State) (k n : Nat) (here : Thread → Bool) : State :=
  if (s.clu k).cfg.toList.any (getBit · 16) then
    (s.threads.filter fun th => here th && th.active && !(s.region (s.tm th.team).rid).conf).foldl (fun s th =>
      th.cycleEvents.foldl (fun s c => s.modClu k (·.count (0x100 + c) n)) s) s
  else s

/-- n cycles of cluster k pass: CYCLE, the resident threads' cycle counts, the report records of confidential regions, the die's
scheduler clock, and in that clock the running time of the teams whose member 0 lies on the die (00 R2, 01 R25, 03 R80, 06 R166,
08 R213, 17 R437). -/
def State.passCycles (s : State) (k n : Nat) : State :=
  let here := fun (th : Thread) => th.kind != .supervisor && cluKey (s.mb th.member).die (s.mb th.member).cluster == k
  let s := { s with
    threads := s.threads.map fun th => if here th then th.passCycles (k / 128) n else th
    teams := s.teams.mapIdx fun j (tm : Team) =>
      if (s.mb (tm.members.headD 0)).die = k / 128 ∧ tm.onCores ∧
          s.threads.any (fun th => th.kind != Kind.supervisor && th.team == j && th.active) then
        { tm with ran := tm.ran + n, sincePass := tm.sincePass + n } else tm }
  let s := s.countClu k n here
  let conf := ((List.range s.threads.length).filterMap fun j =>
    let th := s.th j
    if here th && th.active && (s.region (s.ridOf j)).conf then some (s.ridOf j) else none).eraseDups
  let s := conf.foldl (fun s r => s.modReport r (k / 128) fun p => { p with cycles := p.cycles + n }) s
  let s := s.modClu k fun c => { c with cycle := c.cycle + BitVec.ofNat 64 n }
  s.modDie (k / 128) fun d => { d with sched := d.sched + n, passLeft := d.passLeft - n }

/-- The CYCLE counter of the cluster thread t runs on; 0 on a supervisor core. -/
def State.cycleOf (s : State) (t : Nat) : Word :=
  match s.cluOf t with | none => 0 | some k => (s.clu k).cycle

/-! ### Vector configuration (02 R39, R41) -/

/-- Registers n that VCFGV.NREGS names. -/
def nregsOf (vcfgv : Word) : Nat := 8 * 2 ^ getField vcfgv 0 2

/-- Element width in bits that VCFGV.SEW names (02 R39). -/
def sewOf (vcfgv : Word) : Nat :=
  match getField vcfgv 2 3 with | 0 => 4 | 1 => 6 | 2 => 8 | 3 => 16 | 4 => 32 | _ => 64

/-- Partition bytes in each bound lane (02 R41). -/
def partBytes (laneshare : Word) : Nat := if getBit laneshare 4 then 12288 else 24576

/-- MVL of L lanes with a partition, n registers and w-bit elements (02 R41). -/
def mvlOf (lanes part n w : Nat) : Nat := lanes * part / n * 8 / w

end Sys2Proof.Machine
end

