-- ==== Sys2Proof/Machine/DevRegs.lean ====
section
/-! DEFINITION. Device register space (17 R431): what an 8-byte read returns, and what an 8-byte write does, for every
register. Commands started by a GO bit are posted as events. -/

namespace Sys2Proof.Machine

/-- The word with the bits of `mask` taken from v. -/
def mix (mask old v : Word) : Word := (old &&& ~~~mask) ||| (v &&& mask)

/-- A port's PORTSTAT (17 R425). -/
def Port.stat (p : Port) : Word :=
  let st := match p.state with | .down => 0 | .training => 1 | .up => 2 | .mgmt => 3 | .miswired => 4 | .off => 5
  let w := if p.width = 0 then 0 else if p.width = 1 then 1 else if p.width = 2 then 2 else 3
  BitVec.ofNat 64 (p.errcnt % 65536 * 2 ^ 32 + p.nbr % 1024 * 2 ^ 16 + st * 256 + w * 16 + bitOf p.wdraw)

/-- The offset of an access in the die block of die d (17 R431): d and the offset. -/
def dieBlock (off : Nat) : Option (Nat × Nat) :=
  if 0x100000 ≤ off ∧ off < 0x500000 then some (off / 0x100000 - 1, off % 0x100000) else none

/-- One word of a mailbox (17 R432). -/
def Mailbox.word (m : Mailbox) (k : Nat) : Word :=
  if k = 0 then m.mbcmd else if k = 1 then m.mbstat else if k < 10 then vget m.args (k - 2) 0 else vget m.res (k - 10) 0

/-- The mailbox of a function: n = 0 for the PF. -/
def State.mailbox (s : State) (n : Nat) : Mailbox :=
  if n = 0 then s.mgmt.pfMbox else (Tbl.find n s.mgmt.vfMbox).getD Mailbox.reset

/-- The mailbox of a function changed by f. -/
def State.modMailbox (s : State) (n : Nat) (f : Mailbox → Mailbox) : State :=
  if n = 0 then { s with mgmt := { s.mgmt with pfMbox := f s.mgmt.pfMbox } }
  else { s with mgmt := { s.mgmt with vfMbox := Tbl.insert n (f (s.mailbox n)) s.mgmt.vfMbox } }

/-- One 8-byte word of a report record (17 R437). -/
def State.reportWord (s : State) (d rid k : Nat) : Word :=
  let r := s.report rid d
  if ¬ (s.region rid).conf then 0 else
  BitVec.ofNat 64 (match k with
    | 0 => rid + r.cls * 2 ^ 16 + r.eng * 2 ^ 24
    | 1 => r.cycles
    | 2 => (Tbl.find (rid * 4 + d) s.mgmt.energy).getD 0
    | 3 => r.convoys | 4 => r.words | 5 => r.platen | 6 => r.commands
    | _ => 0)

/-- One register of a die block. -/
def State.dieReg (s : State) (who : RegAgent) (d o : Nat) : Word :=
  let di := s.die d
  if o = 0x0 then di.tbladdr else if o = 0x8 then di.tblctl else if o = 0x10 then di.tblstat
  else if o = 0x40 then di.xliva else if o = 0x48 then di.xlicnt else if o = 0x50 then di.xlictl
  else if o = 0x58 then di.xlistat
  else if 0x100 ≤ o ∧ o ≤ 0x120 then
    if who ≠ .supervisor then 0
    else if o = 0x100 then di.dbgsel else if o = 0x108 then di.dbgidx else if o = 0x110 then di.dbgw0
    else if o = 0x118 then di.dbgw1 else di.dbgctl
  else if 0x1000 ≤ o ∧ o < 0x1400 then
    if o % 16 = 0 then vget di.cfg ((o - 0x1000) / 16) 0 else vget di.ctr ((o - 0x1000) / 16) 0
  else if 0x2000 ≤ o ∧ o < 0x2000 + 0x100 * 68 then
    let c := s.clu (cluKey d ((o - 0x2000) / 0x100))
    if o % 16 = 0 then vget c.cfg (o % 0x100 / 16) 0 else vget c.ctr (o % 0x100 / 16) 0
  else if 0x8000 ≤ o ∧ o < 0x8000 + 32 * 4096 then
    let rid := (o - 0x8000) / 32
    if (s.region rid).home ≠ d then 0
    else
      let c := (Tbl.find rid s.stcounts).getD { hit := 0, miss := 0, evict := 0 }
      if o % 32 = 0 then c.hit else if o % 32 = 8 then c.miss else if o % 32 = 16 then c.evict else 0
  else 0

/-- The doorbell page of region rid (17 R430): TAIL at 0, HEAD and OVF at 8. -/
def State.doorbellReg (s : State) (rid o : Nat) : Word :=
  match Tbl.find rid s.lqueues with
  | none => 0
  | some q =>
    if o = 0 then BitVec.ofNat 64 q.tail
    else if o = 8 then BitVec.ofNat 64 (q.head + bitOf q.ovf * 2 ^ 63) else 0

/-- An 8-byte read at an offset of device register space. A read of the first nonce word draws a fresh nonce; an
unassigned offset reads zero (17 R431). -/
def State.devRead (s : State) (who : RegAgent) (o : Nat) : State × Word :=
  if o % 8 ≠ 0 then (s, 0)
  else match dieBlock o with
  | some (d, b) => (s, s.dieReg who d b)
  | none =>
    if o = 0 then (s, s.mgmt.pwrcap) else if o = 8 then (s, s.mgmt.pwrstat)
    else if 0x10 ≤ o ∧ o < 0x30 then (s, (s.die ((o - 0x10) / 8)).diepwr)
    else if o = 0x100 then (s, s.fab.fabcfg) else if o = 0x108 then (s, s.fab.rtaddr)
    else if o = 0x110 then (s, s.fab.rtctl) else if o = 0x118 then (s, s.fab.rtstat)
    else if 0x200 ≤ o ∧ o < 0x300 then (s, (vget s.ports ((o - 0x200) / 8) Port.reset).stat)
    else if 0x400 ≤ o ∧ o < 0x800 then
      let p := vget s.ports ((o - 0x400) / 32) Port.reset
      (s, if o % 32 = 0 then p.ord else if o % 32 = 8 then p.sum else if o % 32 = 16 then p.cnt.setWidth 64 else 0)
    else if o = 0x800 then (s, s.mgmt.cperr)
    else if 0x820 ≤ o ∧ o < 0x840 then
      if o = 0x820 then
        let n : Vector Word 4 := Vector.mk #[Config.freeWord (4 * s.tick), Config.freeWord (4 * s.tick + 1),
          Config.freeWord (4 * s.tick + 2), Config.freeWord (4 * s.tick + 3)] rfl
        ({ s with mgmt := { s.mgmt with nonce := n, nonceUsed := false } }, vget n 0 0)
      else (s, vget s.mgmt.nonce ((o - 0x820) / 8) 0)
    else if 0x1008 ≤ o ∧ o < 0x1800 then (s, (Tbl.find ((o - 0x1000) / 8) s.mgmt.vfbind).getD 0)
    else if 0x2000 ≤ o ∧ o ≤ 0x2068 then (s, s.mgmt.pfMbox.word ((o - 0x2000) / 8))
    else if 0x1000000 ≤ o ∧ o < 0x2000000 then (s, s.doorbellReg ((o - 0x1000000) / 4096) (o % 4096))
    else if 0x2000000 ≤ o ∧ o < 0x2000000 + 0x40000 * 4 then
      (s, s.reportWord ((o - 0x2000000) / 0x40000) (o % 0x40000 / 64) (o % 64 / 8))
    else (s, 0)

/-! ### Writes -/

/-- GO of a table command (17 R431, 07 R173). -/
def State.goTable (s : State) (d : Nat) (v : Word) : State :=
  let old := (s.die d).tblctl
  let new := mix 0xFFFFFF31 old v
  let s := s.modDie d fun x => { x with tblctl := new }
  if ¬ getBit v 0 then s
  else if getBit (s.die d).tblstat 0 then s.modDie d fun x => { x with tblstat := putBit x.tblstat 1 true }
  else
    let op := getField new 4 2
    if 6 ≤ getField new 8 4 ∨ op = 3 then s
    else (s.modDie d fun x => { x with tblstat := putBit x.tblstat 0 true, tblRun := (new, x.tbladdr) }).post
      (if op = 0 then .tableWrite else if op = 1 then .tableInvalidate else .tableRead) d

/-- GO of a translation invalidation (04 R107). -/
def State.goXli (s : State) (d : Nat) (v : Word) : State :=
  let new := mix 0xFFFF0007 (s.die d).xlictl v
  let s := s.modDie d fun x => { x with xlictl := new }
  if ¬ getBit v 0 then s
  else if getBit (s.die d).xlistat 0 then s.modDie d fun x => { x with xlistat := putBit x.xlistat 1 true }
  else
    let sc := getField new 1 2
    if sc = 3 then s
    else (s.modDie d fun x => { x with xlistat := putBit x.xlistat 0 true, xliRun := (new, x.xliva, x.xlicnt) }).post
      (if sc = 0 then .tlbInvalidateAll else if sc = 1 then .tlbInvalidateRegion else .tlbInvalidateRange) d

/-- GO of the debug block (17 R431). -/
def State.goDebug (s : State) (d : Nat) (v : Word) : State :=
  let new := mix 0x3 (s.die d).dbgctl v
  if getBit v 0 ∧ ¬ getBit (s.die d).dbgctl 3 then
    (s.modDie d fun x => { x with dbgctl := putBit new 3 true, dbgRun := (new, x.dbgsel, x.dbgidx, x.dbgw0, x.dbgw1) }).post
      (if getBit new 1 then .debugEntryRead else .debugEntryWrite) d
  else s.modDie d fun x => { x with dbgctl := new }

/-- GO of a routing-table command (17 R425). -/
def State.goRt (s : State) (v : Word) : State :=
  let new := mix 0xFFC0000D s.fab.rtctl v
  let fab := { s.fab with rtctl := new }
  let op := getField new 2 2
  if ¬ getBit v 0 ∨ (op = 3 ∧ ¬ getBit fab.rtstat 0) then { s with fab }
  else if getBit fab.rtstat 0 ∨ (getBit fab.rtstat 2 ∧ (op = 0 ∨ op = 2)) then
    { s with fab := { fab with rtstat := putBit fab.rtstat 1 true } }
  else
    State.post { s with fab := { fab with rtRun := (new, fab.rtaddr), rtstat := putBit fab.rtstat 0 true } }
      (if op = 0 then .rtWriteStandby else if op = 1 then .rtReadActive else .rtBeginSwap)

/-- The orders a fabric may have (17 R418). -/
def fabricOrders : List Nat := [7, 8, 9, 11, 13, 16, 17, 19, 23, 25, 27, 29, 31]

/-- A write of FABCFG: QORD and MODULE stay when the order is none of R418, or while a port is UP (17 R425). -/
def State.writeFabcfg (s : State) (v : Word) : State :=
  let q := getField v 16 5
  let ok := (q = 0 ∨ fabricOrders.contains q) ∧ ¬ s.ports.toList.any (·.state == .up)
  let mask : Word := if ok then 0xFF1F07FF else 0xFF000400
  { s with fab := { s.fab with fabcfg := mix mask s.fab.fabcfg v } }

/-- Port n changed by f. -/
def State.modPort (s : State) (n : Nat) (f : Port → Port) : State :=
  { s with ports := vset s.ports n (f (vget s.ports n Port.reset)) }

/-- PDIGCTL.CLR of a port (08 R225). -/
def State.clearDigest (s : State) (n : Nat) : State := s.modPort n fun p => { p with ord := 0, sum := 0, cnt := 0 }

/-- A write of a doorbell's TAIL by a function (06 R149, R150, 17 R430): discarded where the region is no valid leaf or
the function is not bound above it. -/
def State.ringDoorbell (s : State) (fn : HostFn) (rid tail : Nat) : State :=
  let bound : Bool := match fn with
    | .pf => true
    | .vf n => match Tbl.find n s.mgmt.vfbind with
      | some w => getBit w 31 && (s.chain rid).contains (getField w 0 16)
      | none => false
  match Tbl.find rid s.lqueues with
  | some q =>
    if bound ∧ (s.region rid).leaf then
      if (tail % 65536 + 65536 - q.head % 65536) % 65536 > 2 ^ (s.region rid).hrlog then
        { s with lqueues := Tbl.insert rid { q with ovf := true } s.lqueues }
      else State.postOnce { s with lqueues := Tbl.insert rid { q with tail := tail % 65536 } s.lqueues } .hostRingRead rid
    else { s with mgmt := { s.mgmt with badDb := s.mgmt.badDb + 1 } }
  | none => { s with mgmt := { s.mgmt with badDb := s.mgmt.badDb + 1 } }

/-- A write of one word of a mailbox (17 R432). -/
def State.writeMailbox (s : State) (n k : Nat) (v : Word) : State :=
  if k = 0 then
    if getBit v 63 then
      if getBit (s.mailbox n).mbstat 0 ∨ s.mgmt.restarting then
        s.modMailbox n fun m => { m with mbstat := putBit m.mbstat 1 true }
      else (s.modMailbox n fun m => { m with mbcmd := v &&& 0xFF, mbstat := putBit m.mbstat 0 true }).post
        .mailboxCommand n
    else s.modMailbox n fun m => { m with mbcmd := v &&& 0xFF }
  else if k = 1 then s.modMailbox n fun m => { m with mbstat := mix 0x2 m.mbstat v }
  else if k < 10 then s.modMailbox n fun m => { m with args := vset m.args (k - 2) v }
  else s

/-- A write of DIEPWRd: unchanged when MINSTEP is above MAXSTEP or either is above 16 (18 R440). -/
def writeDiepwr (old v : Word) : Word :=
  let lo := getField v 0 5
  let hi := getField v 8 5
  if hi < lo ∨ 16 < lo ∨ 16 < hi then old
  else
    let w := getField v 32 16
    putField (mix 0x1F1F old v) 32 16 (if w < 100 then 100 else if 1050 < w then 1050 else w)

/-- A write of PWRCAP: CAPW is clamped to 1,000-4,200 (18 R440). -/
def writePwrcap (old v : Word) : Word :=
  let w := getField v 0 13
  putField (mix 0x80000000 old v) 0 13 (if w < 1000 then 1000 else if 4200 < w then 4200 else w)

/-- DIEPWRd with the expert fields that the basic setting CAPW implies: DIEW 1,050, MAXSTEP 16, MINSTEP 0 (00 R4, 18 R440;
assumption log 99). -/
def basicDiepwr (w : Word) : Word := mix 0xFFFF00001F1F w 0x041A00001000

/-- A write of PWRCAP: one that leaves EXPERT 0 is a write through the basic control and overwrites the expert fields of
every die; one that sets EXPERT is an expert write and leaves them (00 R4, 18 R440; assumption log 99). -/
def State.putPwrcap (s : State) (v : Word) : State :=
  let s := { s with mgmt := { s.mgmt with pwrcap := writePwrcap s.mgmt.pwrcap v } }
  if getBit v 31 then s else s.allDies fun x => { x with diepwr := basicDiepwr x.diepwr }

/-- A write of one register of a die block. -/
def State.writeDieReg (s : State) (who : RegAgent) (d o : Nat) (v : Word) : State :=
  if o = 0x0 then s.modDie d fun x => { x with tbladdr := mix 0xFFFFFFFFFFFC0 x.tbladdr v }
  else if o = 0x8 then s.goTable d v
  else if o = 0x10 then s.modDie d fun x => { x with tblstat := mix 0x2 x.tblstat v }
  else if o = 0x40 then s.modDie d fun x => { x with xliva := mix 0xFFFFFFFFF000 x.xliva v }
  else if o = 0x48 then s.modDie d fun x => { x with xlicnt := mix 0xFFFFFFFF x.xlicnt v }
  else if o = 0x50 then s.goXli d v
  else if o = 0x58 then s.modDie d fun x => { x with xlistat := mix 0x2 x.xlistat v }
  else if 0x100 ≤ o ∧ o ≤ 0x120 then
    if who ≠ .supervisor then s
    else if o = 0x100 then s.modDie d fun x => { x with dbgsel := mix 0xFFFFFFFF x.dbgsel v }
    else if o = 0x108 then s.modDie d fun x => { x with dbgidx := mix 0xF x.dbgidx v }
    else if o = 0x110 then s.modDie d fun x => { x with dbgw0 := v }
    else if o = 0x118 then s.modDie d fun x => { x with dbgw1 := v }
    else s.goDebug d v
  else if 0x1000 ≤ o ∧ o < 0x1400 then
    let n := (o - 0x1000) / 16
    if o % 16 = 0 then s.modDie d fun x => { x with cfg := vset x.cfg n (mix 0x30FFF (vget x.cfg n 0) v) }
    else s.modDie d fun x => { x with ctr := vset x.ctr n v }
  else if 0x2000 ≤ o ∧ o < 0x2000 + 0x100 * 68 then
    let k := cluKey d ((o - 0x2000) / 0x100)
    let n := o % 0x100 / 16
    if o % 16 = 0 then s.modClu k fun c => { c with cfg := vset c.cfg n (mix 0x30FFF (vget c.cfg n 0) v) }
    else s.modClu k fun c => { c with ctr := vset c.ctr n v }
  else if 0x8000 ≤ o ∧ o < 0x8000 + 32 * 4096 then
    let rid := (o - 0x8000) / 32
    if (s.region rid).home = d ∧ v = 0 then
      let c := (Tbl.find rid s.stcounts).getD { hit := 0, miss := 0, evict := 0 }
      let c := if o % 32 = 0 then { c with hit := 0 } else if o % 32 = 8 then { c with miss := 0 }
        else if o % 32 = 16 then { c with evict := 0 } else c
      { s with stcounts := Tbl.insert rid c s.stcounts }
    else s
  else s

/-- An 8-byte write at an offset of device register space by an agent other than a virtual function. The power block and
the fabric block take writes of the management controller and the physical function alone (17 R425, R431, 18 R440). -/
def State.devWrite (s : State) (who : RegAgent) (o : Nat) (v : Word) : State :=
  if o % 8 ≠ 0 then s
  else match dieBlock o with
  | some (d, b) => s.writeDieReg who d b v
  | none =>
    let ctl := who ≠ .supervisor
    if o = 0 then if ctl then s.putPwrcap v else s
    else if o = 8 then
      if ctl then { s with mgmt := { s.mgmt with pwrstat := mix 0x3 s.mgmt.pwrstat v } } else s
    else if 0x10 ≤ o ∧ o < 0x30 then
      if ctl then s.modDie ((o - 0x10) / 8) fun x => { x with diepwr := writeDiepwr x.diepwr v } else s
    else if o = 0x100 then if ctl then s.writeFabcfg v else s
    else if o = 0x108 then
      if ctl then { s with fab := { s.fab with rtaddr := mix 0xFFFFFFFFFFFE0 s.fab.rtaddr v } } else s
    else if o = 0x110 then if ctl then s.goRt v else s
    else if o = 0x118 then
      if ctl then { s with fab := { s.fab with rtstat := mix 0x2 s.fab.rtstat v } } else s
    else if 0x200 ≤ o ∧ o < 0x300 then
      if ctl then s.modPort ((o - 0x200) / 8) fun p => { p with wdraw := getBit v 0 } else s
    else if 0x400 ≤ o ∧ o < 0x800 then
      if o % 32 = 24 ∧ getBit v 0 then s.clearDigest ((o - 0x400) / 32) else s
    else if 0x1008 ≤ o ∧ o < 0x1800 then
      { s with mgmt := { s.mgmt with vfbind := Tbl.insert ((o - 0x1000) / 8) (v &&& 0x8000FFFF) s.mgmt.vfbind } }
    else if 0x2000 ≤ o ∧ o ≤ 0x2068 then s.writeMailbox 0 ((o - 0x2000) / 8) v
    else if 0x1000000 ≤ o ∧ o < 0x2000000 then
      let rid := (o - 0x1000000) / 4096
      if o % 4096 = 0 then s.ringDoorbell .pf rid (getField v 0 16)
      else if o % 4096 = 8 then
        match Tbl.find rid s.lqueues with
        | some q => { s with lqueues := Tbl.insert rid { q with ovf := getBit v 63 } s.lqueues }
        | none => s
      else s
    else s

/-- An 8-byte write by virtual function n at an offset of its BAR0: a doorbell page per region, then its mailbox page
(17 R429, R430). -/
def State.vfWrite (s : State) (n o : Nat) (v : Word) : State :=
  if o % 8 ≠ 0 then s
  else if o < 0x1000000 then
    let rid := o / 4096
    if o % 4096 = 0 then s.ringDoorbell (.vf n) rid (getField v 0 16)
    else if o % 4096 = 8 then
      match Tbl.find rid s.lqueues, Tbl.find n s.mgmt.vfbind with
      | some q, some w =>
        if getBit w 31 ∧ (s.chain rid).contains (getField w 0 16) then
          { s with lqueues := Tbl.insert rid { q with ovf := getBit v 63 } s.lqueues }
        else s
      | _, _ => s
    else s
  else if o ≤ 0x1000068 then s.writeMailbox n ((o - 0x1000000) / 8) v
  else s

end Sys2Proof.Machine
end

