-- ==== Sys2Proof/Machine/Ops.lean ====
section
/-! DEFINITION. The named operations over memory and threads: address translation and the nine checks (04 R97-R107),
element reads and writes, poison, monitors, the directory, the interlock check (05 R126), engine numbers (08 R210), and
taking a trap and returning from one (02 R49, 03 R77, R89). -/

namespace Sys2Proof.Machine

/-! ### The physical map (04 R97, R98) -/

/-- What a physical address names. -/
inductive PKind where | hbm | near | regs | host | absent
  deriving DecidableEq, Repr

/-- The first byte of device register space. -/
def regBase : Nat := 0x7000000000000
/-- The first byte of near-store. -/
def nearBase : Nat := 0x400000000000
/-- The first byte of host memory. -/
def hostBase : Nat := 0x8000000000000

/-- The stack of an HBM address (04 R98). -/
def stackOf (a : Nat) : Nat := fld a 24 5 ^^^ fld a 36 5

/-- The pseudo-channel of an HBM address, numbered stack * 64 + channel (04 R98). -/
def channelOf (a : Nat) : Nat := stackOf a * 64 + fld a 12 6

/-- What physical address a names in the present state: near-store reaches NS MiB of each slice, and a retired
pseudo-channel and the stacks and slices of a die held off are absent (01 R31, 04 R97, 18 R448). -/
def State.physKind (s : State) (a : Nat) : PKind :=
  if a < 0x20000000000 then (if NSet.mem (channelOf a) s.mgmt.pcRetired ∨ (s.die (stackOf a / 8)).off then .absent else .hbm)
  else if a < nearBase then .absent
  else if a < nearBase + 0x200000000 then
    (let d := (a - nearBase) / 0x80000000
     if (a - nearBase) % 0x2000000 < (s.die d).ns * 0x100000 ∧ ¬ (s.die d).off then .near else .absent)
  else if a < regBase then .absent
  else if a < regBase + 0x4000000 then .regs
  else if a < hostBase then .absent
  else if a < 2 ^ 52 then .host else .absent

/-- The die and home slice of a physical address; host memory and register space have none (04 R98, 18 R447). -/
def State.homeOf (s : State) (a : Nat) : Option (Nat × Nat) :=
  let place := if a < 0x20000000000 then some (stackOf a / 8, fld a 7 6 ^^^ fld a 13 6 ^^^ fld a 19 6)
    else if nearBase ≤ a ∧ a < nearBase + 0x200000000 then
      some ((a - nearBase) / 0x80000000, (a - nearBase) % 0x80000000 / 0x2000000)
    else none
  place.map fun (d, sl) => (d, if NSet.mem sl (s.die d).remap then sl ^^^ 32 else sl)

/-! ### Monitors (07 R193-R196) -/

/-- A wait reason reaches the waiter of a monitor entry: the first one counts (07 R196). A parked chain and a launch
dependence retry. The owner of a tagged MWAIT is its thread and 2^20 times its tag. -/
def State.endMonitor (s : State) (m : Monitor) (why : WakeReason) : State :=
  match m.kind with
  | 0 =>
    if m.owner < 2 ^ 20 then s.modTh m.owner fun th => { th with wake := th.wake.or (some why) }
    else s.modTh (m.owner % 2 ^ 20) fun th => { th with inflight := th.inflight.map fun i =>
      if i.tag.toNat = m.owner / 2 ^ 20 then { i with reason := i.reason.or (some why) } else i }
  | 1 => s
  | 2 =>
    (s.modMb (m.owner / 8) fun mb =>
      let c := vget mb.chans (m.owner % 8) Channel.reset
      { mb with chans := vset mb.chans (m.owner % 8) { c with chainParked := false } }).postOnce
        .chainRecordRead (m.owner / 8) (m.owner % 8)
  | _ => s.postOnce .launchQueueHead m.owner

/-- A write to sector w (address / 64) ends every entry on it with WRITE (07 R195). -/
def State.wakeSector (s : State) (w : Nat) : State :=
  match s.homeOf (w * 64) with
  | none => s
  | some (d, _) =>
    if (s.die d).monitors.any (·.sector == w) then
      ((s.die d).monitors.filter (·.sector == w)).foldl (fun s m => s.endMonitor m .write)
        (s.modDie d fun x => { x with monitors := x.monitors.filter (·.sector != w) })
    else s

/-- A monitor entry placed on the sector of a physical address; a full slice first evicts its entry of lowest AGE
(07 R195, R196). -/
def State.placeMonitor (s : State) (m : Monitor) : State :=
  match s.homeOf (m.sector * 64) with
  | none => s
  | some (d, sl) =>
    let here := (s.die d).monitors.filter fun x => (s.homeOf (x.sector * 64)).map (·.2) == some sl
    let s := if here.length < 64 then s else
      match here.foldl (fun (b : Option Monitor) x => match b with
          | none => some x | some y => if x.age < y.age then some x else some y) none with
      | none => s
      | some x => (s.modDie d fun di => { di with monitors := di.monitors.erase x }).endMonitor x .evict
    s.modDie d fun di => { di with age := di.age + 1, monitors := di.monitors ++ [{ m with age := di.age }] }

/-- Every entry of a waiter removed (07 R193). -/
def State.dropMonitors (s : State) (kind owner : Nat) : State :=
  if s.dies.toList.all (fun d => d.monitors.isEmpty) then s else
  s.allDies fun d => { d with monitors := d.monitors.filter fun m => !(m.kind == kind && m.owner == owner) }

/-! ### The directory (04 R95) -/

/-- The sectors that n bytes at a touch, by number. -/
def sectorsAt (a n : Nat) : List Nat := (List.range ((a + n - 1) / 64 + 1 - a / 64)).map (a / 64 + ·)

/-- A sector leaves one L1: a last or dirty copy is written back and the sector is then held by none. -/
def DirSt.leave (h : Nat) : DirSt → Option DirSt
  | .clean hs => if NSet.del h hs = [] then none else some (.clean (NSet.del h hs))
  | .dirty o => if o = h then none else some (.dirty o)

/-- The directory after a sector is filled into L1 number h in a state: which sector the L1, and which entry the directory,
gives up for it is free (04 R93, R95; assumption log 9). -/
def dirFill (tick h w : Nat) (st : DirSt) (t : Tbl DirSt) : Tbl DirSt :=
  let t := Tbl.insert w st t
  let t := match Config.evictL1 tick h w with
    | none => t
    | some v => match (Tbl.find v t).map (DirSt.leave h) with
      | some (some x) => Tbl.insert v x t
      | some none => Tbl.erase v t
      | none => t
  match Config.evictDir tick w with | none => t | some k => t.eraseIdx k

/-- What a read by L1 number h makes of a sector, and the recalls it takes: one when another L1 holds the sector DIRTY. -/
def DirSt.read (h : Nat) : Option DirSt → DirSt × Nat
  | none => (.clean [h], 0)
  | some (.clean hs) => (.clean (NSet.add h hs), 0)
  | some (.dirty o) => if o = h then (.dirty o, 0) else (.clean (NSet.add h [o]), 1)

/-- The recalls that a sector needs before an access that L1 number h alone may hold it for. -/
def recallsOf (h : Option Nat) : Option DirSt → Nat
  | some (.dirty o) => if h = some o then 0 else 1
  | _ => 0

/-- The directory of the die that homes address a changed by f, which also gives the recalls it takes (08 R214, event 0x202). -/
def State.modDir (s : State) (a : Nat) (f : Die → Option DirSt → Tbl DirSt × Nat) : State :=
  match s.homeOf a with
  | none => s
  | some (d, _) =>
    let r := f (s.die d) (Tbl.find (a / 64) (s.die d).dir)
    s.modDie d fun x => { x with dir := r.1 }.count 0x202 r.2

/-- The directory after a read by L1 number h of a sector: a DIRTY sector of another L1 is recalled first. -/
def State.dirRead (s : State) (h a : Nat) : State :=
  s.modDir a fun d o => (dirFill s.tick h (a / 64) (DirSt.read h o).1 d.dir, (DirSt.read h o).2)

/-- The directory after a write by L1 number h: every other copy is invalidated; a monitored sector is held at most CLEAN
(07 R195). -/
def State.dirWrite (s : State) (h a : Nat) : State :=
  s.modDir a fun d o =>
    (dirFill s.tick h (a / 64) (if d.monitors.any (·.sector == a / 64) then .clean [h] else .dirty h) d.dir, recallsOf (some h) o)

/-- The directory after a read that goes through no L1: a DIRTY sector is recalled first, and its L1 keeps it CLEAN. -/
def State.dirRecall (s : State) (a : Nat) : State :=
  s.modDir a fun d o => ((match o with | some (.dirty h) => Tbl.insert (a / 64) (.clean [h]) d.dir | _ => d.dir), recallsOf none o)

/-- The directory after an access performed at the home slice: no L1 holds the sector (05 R133). -/
def State.dirFlush (s : State) (a : Nat) : State :=
  s.modDir a fun d o => (Tbl.erase (a / 64) d.dir, recallsOf none o)

/-- Bytes written at a physical address by any agent: the bytes, then the wake of each monitored sector (07 R195). -/
def State.physWrite (s : State) (a : Nat) (bs : List Byte) : State :=
  let s := { s with mem := Mem.write s.mem a bs }
  if s.dies.toList.all (fun d => d.monitors.isEmpty) then s
  else (sectorsAt a bs.length).foldl State.wakeSector s

/-! ### Translation (04 R103-R107) -/

/-- Who makes an access: its region, die, team and member, whether it runs in supervisor mode, the physical lane that makes
it (its cluster's number and its own 0-31), and whether it asks not to be allocated in L1 (04 R108). -/
structure ACtx where
  rid : Nat
  die : Nat
  team : Nat
  mb : Option Nat
  sup : Bool
  lane : Option (Nat × Nat)
  nt : Bool
  deriving DecidableEq, Repr

/-- The kinds of access R102 checks. A carried read takes poison along with its bytes (04 R111); a monitored read is
refused by check 7 where an atomic is (14 R356). -/
inductive AKind where | read | write | atomic | fetch | carried | monitored
  deriving DecidableEq, Repr

/-- The accesses of thread t. -/
def State.ctxOf (s : State) (t : Nat) : ACtx :=
  if (s.th t).kind = .supervisor then
    { rid := 0, die := s.dieOf t, team := 0, mb := none, sup := true, lane := none, nt := false }
  else
    { rid := s.ridOf t, die := s.dieOf t, team := (s.th t).team, mb := some (s.th t).member, sup := false, lane := none,
      nt := false }

/-- The accesses of lane k of lane group lg of thread t's member. -/
def State.laneCtx (s : State) (t lg k : Nat) : ACtx :=
  let m := s.mbOf t
  { s.ctxOf t with lane := some (cluKey m.die m.cluster, (m.half * 2 + lg) % 4 * 8 + k % 8) }

/-- A trap found by a check of the access at va. -/
def memTrap (cause sub : BitVec 8) (va : Nat) : Trap := { cause, sub, elem := 0, addr := BitVec.ofNat 64 va }

/-- The areas of a context's address space (04 R99). -/
inductive Area where | ordinary | near | tile | tileHole | reserved | sup
  deriving DecidableEq, Repr

/-- The area of a canonical address. -/
def areaOf (va : Nat) : Area :=
  if va < 0x7E0000000000 then .ordinary
  else if va < 0x7F0000000000 then .near
  else if va < 0x7F0000400000 then .tile
  else if va < 0x7F0004000000 then .tileHole
  else if va < 0x800000000000 then .reserved
  else .sup

/-- Bits 63:48 copy bit 47. -/
def canonical (va : Nat) : Bool := va < 0x800000000000 || 0xFFFF800000000000 ≤ va

/-- The physical sector of an address holds poison. -/
def State.poisoned (s : State) (a : Nat) : Bool := NSet.mem (a / 64) s.poison

/-- A well-formed leaf at a level (04 R104): no reserved MT, the low bits of PA zero, CONT only at level 0. -/
def leafOk (level e : Nat) : Bool :=
  !bitAt e 11 && fld e 52 12 == 0 && fld e 8 2 < 2 && (level == 0 || !bitAt e 7) &&
  (level != 1 || fld e 12 9 == 0) && (level != 2 || fld e 12 18 == 0)

/-- The 16 entries of a contiguous group install one 64 KiB entry (04 R105). -/
def contGroup (m : Mem) (line : Nat) : Bool :=
  let es := (List.range 16).map fun k => Mem.readNat m (line + 8 * k) 8
  let key := fun (e : Nat) => (fld e 7 4, fld e 2 3)
  let e0 := es.headD 0
  es.all (fun e => bitAt e 0 && bitAt e 1 && bitAt e 7 && key e == key e0) && fld e0 12 4 == 0 &&
  (List.range 16).all fun k => fld (es.getD k 0) 12 40 == fld e0 12 40 + k

/-- What a walk did: the entries it read, the pointers it read with their walk-cache keys, and its leaf or the error, a cause
and its SUB. -/
structure Walked where
  reads : List Nat
  ptrs : List (Nat × Nat)
  out : Except (BitVec 8 × BitVec 8) TlbEntry

/-- The walk-cache key of the pointer that va passes at a level (04 R106). -/
def walkKey (rid level va : Nat) : Nat := (rid * 4 + level) * 2 ^ 36 + va / 2 ^ (12 + 9 * level)

/-- The translation a valid leaf e at address a and level gives. A level-0 leaf of a contiguous group has its whole
128-byte line read, poison included (04 R102, R104, R105, R111). -/
def State.leafAt (s : State) (va level a e : Nat) : Except (BitVec 8 × BitVec 8) TlbEntry :=
  let line := a / 128 * 128
  if 3 ≤ level ∨ ¬ leafOk level e ∨ (level = 2 ∧ areaOf va = .near) then .error (0x05, 0x01)
  else if level = 0 ∧ bitAt e 7 then
    if s.poisoned line ∨ s.poisoned (line + 64) then .error (0x08, 0x01)
    else if contGroup s.mem line then
      .ok { pte := line, pa := fld (Mem.readNat s.mem line 8) 12 40 * 4096, size := 16, leaf := BitVec.ofNat 64 e }
    else .ok { pte := a, pa := fld e 12 40 * 4096, size := 12, leaf := BitVec.ofNat 64 e }
  else .ok { pte := a, pa := fld e 12 40 * 4096, size := 12 + 9 * level, leaf := BitVec.ofNat 64 e }

/-- The entry that va takes in a table of a level, read: what the walk did if it ends here, or the next table (04 R103, R104). -/
def State.walkRead (s : State) (va level table : Nat) : List Nat × Except (Except (BitVec 8 × BitVec 8) TlbEntry) Nat :=
  let a := table + 8 * fld va (12 + 9 * level) 9
  let stop := fun (l : List Nat) x => (l, Except.error x)
  if s.physKind table ≠ .hbm then stop [] (.error (0x05, 0x01))
  else if s.poisoned a then stop [a] (.error (0x08, 0x01))
  else
    let e := Mem.readNat s.mem a 8
    if ¬ bitAt e 0 then stop [a] (.error (0x05, 0x00))
    else if fld e 52 12 ≠ 0 ∨ bitAt e 11 then stop [a] (.error (0x05, 0x01))
    else if bitAt e 1 then
      stop (a :: (if level = 0 ∧ bitAt e 7 then [a / 128 * 128, a / 128 * 128 + 64] else [])) (s.leafAt va level a e)
    else if fld e 2 9 ≠ 0 ∨ level = 0 then stop [a] (.error (0x05, 0x01))
    else ([a], .ok (fld e 12 40 * 4096))

/-- The walk from a table of a level (04 R103); `cached` gives the pointers the walk cache holds. -/
def State.walkFrom (s : State) (rid va : Nat) (cached : Nat → Option Nat) : Nat → Nat → Walked
  | 0, table =>
    match s.walkRead va 0 table with
    | (l, .error x) => ⟨l, [], x⟩
    | (l, .ok _) => ⟨l, [], .error (0x05, 0x01)⟩
  | n + 1, table =>
    match cached (walkKey rid (n + 1) va) with
    | some next => State.walkFrom s rid va cached n next
    | none =>
      match s.walkRead va (n + 1) table with
      | (l, .error x) => ⟨l, [], x⟩
      | (l, .ok next) =>
        let r := State.walkFrom s rid va cached n next
        { r with reads := l ++ r.reads, ptrs := (walkKey rid (n + 1) va, next) :: r.ptrs }

/-- The key of a cached translation: its region, its page number and the class of its size. -/
def tlbKey (rid size va : Nat) : Nat := (rid * 2 ^ 36 + va / 2 ^ size) * 64 + size

/-- The page sizes a translation cache holds, smallest first. -/
def tlbSizes : List Nat := [12, 16, 21, 30]

/-- The translation of va for a region in one cache. -/
def tlbSeek (rid va : Nat) (t : Tbl TlbEntry) : Option TlbEntry := tlbSizes.findSome? fun z => Tbl.find (tlbKey rid z va) t

/-- An entry put into a cache of a capacity: in a full one the entry at a free place gives way (04 R106). -/
def cachePut {α : Type} (cap free key : Nat) (e : α) (t : Tbl α) : Tbl α :=
  if cap ≤ t.length ∧ (Tbl.find key t).isNone then Tbl.insert key e (t.eraseIdx (free % t.length)) else Tbl.insert key e t

/-- The micro-TLB of a lane and the group TLB of its lane group. -/
def Cluster.lanesTlb (c : Cluster) (k : Nat) : List (Tbl TlbEntry) :=
  [(Tbl.find k c.utlb).getD [], (Tbl.find (k / 8) c.gtlb).getD []]

/-- The cached translation of va for an access: the lane's micro-TLB, its group TLB, then the die's last level; an access of
another unit asks the last level alone (04 R106; assumption log 35). -/
def State.tlbFind (s : State) (cx : ACtx) (va : Nat) : Option TlbEntry :=
  ((match cx.lane with | some (k, j) => (s.clu k).lanesTlb j | none => []) ++ [(s.die cx.die).tlb]).findSome? (tlbSeek cx.rid va)

/-- A translation entered at every level an access passes: 16 entries a lane, 512 a lane group, 131,072 a die (04 R106). -/
def State.tlbPut (s : State) (cx : ACtx) (va : Nat) (e : TlbEntry) : State :=
  let key := tlbKey cx.rid e.size va
  let free := Config.freeNat s.tick
  let s := match cx.lane with
    | none => s
    | some (k, j) => s.modClu k fun c =>
      { c with utlb := Tbl.insert j (cachePut 16 free key e ((Tbl.find j c.utlb).getD [])) c.utlb,
               gtlb := Tbl.insert (j / 8) (cachePut 512 free key e ((Tbl.find (j / 8) c.gtlb).getD [])) c.gtlb }
  s.modDie cx.die fun x => { x with tlb := cachePut 131072 free key e x.tlb }

/-- Entry a of a page table with bit k set by the atomic OR of 04 R104, at its home slice: no L1 keeps the sector, and its
monitors wake (05 R133, 07 R195). -/
def State.pteOr (s : State) (a k : Nat) : State :=
  (s.dirFlush a).physWrite a (bytesOf 8 (BitVec.ofNat 64 (Mem.readNat s.mem a 8) ||| (1#64 <<< k)).toNat)

/-- A walk's result installed: its pointers in the walk cache, of 1,024 entries, the entry in the TLBs, and its A bits set. The
entry of a translation that a later part of check 5 refuses is installed too (04 R104, R106; assumption log 35). -/
def State.tlbFill (s : State) (cx : ACtx) (va : Nat) (w : Walked) (e : TlbEntry) : State :=
  let s := if e.size = 16 then (List.range 16).foldl (fun s k => s.pteOr (e.pte + 8 * k) 5) s else s.pteOr e.pte 5
  let s := s.modDie cx.die fun x =>
    { x with walks := w.ptrs.foldl (fun t p => cachePut 1024 (Config.freeNat s.tick) p.1 p.2 t) x.walks }
  (s.tlbPut cx va e).countDie cx.die 0x205 1

/-- The address a failed translation of va records: 0 for an error in the region's own table entry (04 R111). -/
def faultAddr (c u : BitVec 8) (va : Nat) : Nat := if c = 0x08 ∧ u = 0x00 then 0 else va

/-- The walk of va: its root stands in the region's table entry, and the sectors of the entries it reads are recalled from the L1s
that hold them dirty (04 R95, R103, R111). -/
def State.walk (s : State) (cx : ACtx) (va : Nat) : State × Except (BitVec 8 × BitVec 8) TlbEntry :=
  if s.struck (.table cx.die 0 cx.rid) then (s, .error (0x08, 0x00)) else
  let w := s.walkFrom cx.rid va (fun k => Tbl.find k (s.die cx.die).walks) 3 (s.region cx.rid).root
  let s1 := w.reads.foldl State.dirRecall s
  match w.out with
  | .error x => (s.quiet cx.rid s1, .error x)
  | .ok e => (s.quiet cx.rid (s1.tlbFill cx va w e), .ok e)

/-- The leaf names memory of the wrong kind for the area (04 R97, R99, R102 check 5). -/
def wrongKind (ar : Area) (k : PKind) : Bool :=
  match ar, k with
  | .near, .near => false
  | .near, _ => true
  | _, .near => true
  | _, _ => false

/-- Check 5 for one page: the translation of va, cached or walked, with the confidential page map (04 R102, 17 R436). Of two
refusals of one leaf, absent memory comes before the wrong kind, and that before the page map (assumption log 100). -/
def State.translate (s : State) (cx : ACtx) (va : Nat) : State × Except (BitVec 8 × BitVec 8) (Nat × Word) :=
  if cx.sup then
    match Config.supXlate va with
    | none => (s, .error (0x05, 0x00))
    | some pa => (s, if s.physKind pa = .absent then .error (0x05, 0x02) else .ok (pa, 0x1F))
  else
    let found : State × Except (BitVec 8 × BitVec 8) TlbEntry := match s.tlbFind cx va with
      | some e => (if cx.lane.isSome then s.tlbPut cx va e else s, .ok e)
      | none => s.walk cx va
    match found with
    | (s, .error x) => (s, .error x)
    | (s, .ok e) =>
      let pa := e.pa + va % 2 ^ e.size
      let k := s.physKind pa
      let mark := NMap.get s.mgmt.cpmap (pa / 4096)
      if k = .absent then (s, .error (0x05, 0x02))
      else if wrongKind (areaOf va) k then (s, .error (0x05, 0x01))
      else if k = .hbm ∧ ((mark ≠ 0 ∧ mark ≠ cx.rid + 1) ∨ (mark = 0 ∧ (s.region cx.rid).conf)) then
        (s, .error (0x05, 0x04))
      else (s, .ok (pa, e.leaf))

/-- Check 6: the access kind is permitted by the leaf (04 R104). -/
def permits (leaf : Word) : AKind → Bool
  | .read => getBit leaf 2
  | .write => getBit leaf 3
  | .atomic => getBit leaf 2 && getBit leaf 3
  | .fetch => getBit leaf 4
  | .carried => getBit leaf 2
  | .monitored => getBit leaf 2

/-- D set by the first write through a cached translation (04 R104). -/
def State.markDirty (s : State) (cx : ACtx) (va : Nat) : State :=
  if cx.sup then s else
  match s.tlbFind cx va with
  | none => s
  | some e =>
    if e.size ≠ 16 ∧ getBit e.leaf 6 then s
    else
      let s := s.quiet cx.rid (s.pteOr (if e.size = 16 then e.pte + 8 * (va / 4096 % 16) else e.pte) 6)
      if e.size = 16 then s else s.tlbPut cx va { e with leaf := putBit e.leaf 6 true }

/-! ### Elements (04 R100-R102) -/

/-- Where bytes of an element lie: physical memory, cached in an L1 or not; a member's tile store; device registers. -/
inductive Place where
  | phys (a : Nat) (cached : Bool)
  | tile (m off : Nat)
  | reg (off : Nat)
  deriving DecidableEq, Repr

/-- A run of bytes of an element. -/
structure Span where
  place : Place
  n : Nat
  deriving DecidableEq, Repr

/-- The place a translation gives. -/
def State.placeOf (s : State) (pa : Nat) (leaf : Word) : Place :=
  match s.physKind pa with
  | .regs => .reg (pa - regBase)
  | .host => .phys pa false
  | _ => .phys pa (getField leaf 8 2 == 0)

/-- Some sector of the span holds poison. -/
def State.spanPoisoned (s : State) (p : Span) : Bool :=
  match p.place with
  | .phys a _ => s.poisoned a || s.poisoned (a + p.n - 1)
  | .tile m off => NSet.mem (off / 64) (s.mb m).tilePoison || NSet.mem ((off + p.n - 1) / 64) (s.mb m).tilePoison
  | .reg _ => false

/-- A data watchpoint of the team matches an access of the span (08 R227). -/
def State.watched (s : State) (team : Nat) (kind : AKind) (p : Span) : Bool :=
  match p.place with
  | .phys a _ => s.mgmt.watchpoints.any fun (tm, lo, len, mode) =>
      tm == team && decide (a < lo + len) && decide (lo < a + p.n) &&
      (if kind = .write ∨ kind = .atomic then bitAt mode 1 else bitAt mode 0)
  | _ => false

/-- Checks 7 to 9 of R102 on the spans of an element. -/
def State.checkSpans (s : State) (cx : ACtx) (kind : AKind) (va : Nat) (spans : List Span) : Except Trap (List Span) :=
  if (kind = .atomic ∨ kind = .monitored) ∧ (spans.any fun p => match p.place with
      | .phys a _ => decide (hostBase ≤ a) | .tile _ _ => true | .reg _ => false) then
    .error (memTrap 0x06 0x03 va)
  else if ¬ cx.sup ∧ (spans.any fun p => match p.place with | .reg _ => true | _ => false) then
    .error (memTrap 0x06 0x02 va)
  else if spans.any (s.watched cx.team kind) then .error (memTrap 0x12 0x00 va)
  else if kind ≠ .write ∧ kind ≠ .carried ∧ spans.any s.spanPoisoned then .error (memTrap 0x08 0x00 va)
  else .ok spans

/-- The nine checks of R102, in order, on the element of n bytes at va: its spans, or the first trap. Translations made
on the way stay cached. -/
def State.access (s : State) (cx : ACtx) (kind : AKind) (aligned : Bool) (va : Word) (n : Nat) :
    State × Except Trap (List Span) :=
  let a := va.toNat
  let l := a + n - 1
  if ¬ canonical a then (s, .error (memTrap 0x05 0x03 a))
  else if 0x800000000000 ≤ a ∧ ¬ cx.sup then (s, .error (memTrap 0x06 0x01 a))
  else
    let ar := areaOf a
    let grant := match cx.mb with | some m => (s.mb m).tilesz * 0x40000 | none => 0
    if (if cx.sup then decide (2 ^ 64 ≤ l) else
        (areaOf l != ar || ar == .tileHole || ar == .reserved ||
        (ar == .tile && decide (grant ≤ l - 0x7F0000000000)))) then
      (s, .error (memTrap 0x07 0x00 a))
    else if aligned ∧ a % n ≠ 0 then (s, .error (memTrap 0x0D 0x00 a))
    else if ar = .tile ∧ ¬ cx.sup then
      if kind = .fetch then (s, .error (memTrap 0x06 0x00 a))
      else (s, s.checkSpans cx kind a [⟨.tile (cx.mb.getD 0) (a - 0x7F0000000000), n⟩])
    else
      let first := 4096 - a % 4096
      match s.translate cx a with
      | (s, .error (c, u)) => (s, .error (memTrap c u (faultAddr c u a)))
      | (s, .ok (p1, l1)) =>
        if n ≤ first then
          if ¬ permits l1 kind then (s, .error (memTrap 0x06 0x00 a))
          else match s.checkSpans cx kind a [⟨s.placeOf p1 l1, n⟩] with
            | .error x => (s, .error x)
            | .ok sp => (if kind = .write ∨ kind = .atomic then s.markDirty cx a else s, .ok sp)
        else
          match s.translate cx (a + first) with
          | (s, .error (c, u)) => (s, .error (memTrap c u (faultAddr c u a)))
          | (s, .ok (p2, l2)) =>
            if ¬ permits l1 kind ∨ ¬ permits l2 kind then (s, .error (memTrap 0x06 0x00 a))
            else match s.checkSpans cx kind a [⟨s.placeOf p1 l1, first⟩, ⟨s.placeOf p2 l2, n - first⟩] with
              | .error x => (s, .error x)
              | .ok sp =>
                (if kind = .write ∨ kind = .atomic then (s.markDirty cx a).markDirty cx (a + first) else s, .ok sp)

/-! ### Level-1 caches (04 R93, R94) -/

/-- The L1 that an access of a member to physical address a goes through: that of a lane group, or of the first where none is
named; with fused L1s that of the group which address bits 8:7 name, in a half member bit 7 (04 R93, R94). -/
def State.l1Of (s : State) (cx : ACtx) (lg a : Nat) : Option Nat :=
  cx.mb.map fun m =>
    let mb := s.mb m
    let g := if mb.fusel1 then fld a 7 (if mb.full then 2 else 1) else lg
    cluKey mb.die mb.cluster * 4 + (mb.half * 2 + g) % 4

/-- The directory through a read of n bytes at a: cached sectors go through the access's L1; uncached ones, those of a
supervisor core and those not to be allocated are recalled only (04 R93, R95, R108). -/
def State.l1Read (s : State) (cx : ACtx) (lg a n : Nat) (cached : Bool) : State :=
  s.quiet cx.rid ((sectorsAt a n).foldl (fun s w =>
    match (if cached && !cx.nt then s.l1Of cx lg (w * 64) else none) with
    | some h => s.dirRead h (w * 64)
    | none => s.dirRecall (w * 64)) s)

/-- The directory through a write of n bytes at a. -/
def State.l1Write (s : State) (cx : ACtx) (lg a n : Nat) (cached : Bool) : State :=
  s.quiet cx.rid ((sectorsAt a n).foldl (fun s w =>
    match (if cached && !cx.nt then s.l1Of cx lg (w * 64) else none) with
    | some h => s.dirWrite h (w * 64)
    | none => s.dirFlush (w * 64)) s)

/-! ### Reading and writing elements -/

/-- The bytes of the spans. Reads of cached memory go through the L1 of the member; a supervisor core's register reads
may have an effect of their own. -/
def State.readSpans (s : State) (cx : ACtx) (lg : Nat) : List Span → State × List Byte
  | [] => (s, [])
  | p :: rest =>
    let r : State × List Byte := match p.place with
      | .phys a c => (s.l1Read cx lg a p.n c, Mem.read s.mem a p.n)
      | .tile m off => (s, Mem.read (s.mb m).tile off p.n)
      | .reg o =>
        if p.n = 8 then
          let q := s.devRead .supervisor o
          (q.1, bytesOf 8 q.2.toNat)
        else (s, List.replicate p.n 0)
    let q := State.readSpans r.1 cx lg rest
    (q.1, r.2 ++ q.2)

/-- The spans written with the bytes. -/
def State.writeSpans (s : State) (cx : ACtx) (lg : Nat) : List Span → List Byte → State
  | [], _ => s
  | p :: rest, bs =>
    let s := match p.place with
      | .phys a c => (s.l1Write cx lg a p.n c).physWrite a (bs.take p.n)
      | .tile m off => s.modMb m fun mb => { mb with tile := Mem.write mb.tile off (bs.take p.n) }
      | .reg o => if p.n = 8 then s.devWrite .supervisor o (BitVec.ofNat 64 (leNat (bs.take 8))) else s
    State.writeSpans s cx lg rest (bs.drop p.n)

/-- The key of a sector that a span touches, for coverage: tile-store sectors are numbered apart per member. -/
def Span.sectors (p : Span) : List (Nat × Nat × Nat) :=
  let base := match p.place with | .phys a _ => a | .tile m off => (m + 1) * 2 ^ 60 + off | .reg _ => 0
  match p.place with
  | .reg _ => []
  | _ => (List.range ((base + p.n - 1) / 64 + 1 - base / 64)).map fun k =>
      let w := base / 64 + k
      let lo := max base (w * 64)
      (w, lo - w * 64, min (base + p.n) (w * 64 + 64) - lo)

/-- The sector with coverage key w holds poison. -/
def State.keyPoisoned (s : State) (w : Nat) : Bool :=
  if w < 2 ^ 54 then NSet.mem w s.poison else NSet.mem (w % 2 ^ 54) (s.mb (w / 2 ^ 54 - 1)).tilePoison

/-- The die on which a mark of the sector with coverage key w counts. -/
def State.poisonDie (s : State) (w : Nat) : Option Nat :=
  if w < 2 ^ 54 then (s.homeOf (w * 64)).map (·.1) else some (s.mb (w / 2 ^ 54 - 1)).die

/-- Poison of the sector with coverage key w set or cleared; a new mark counts (08 R214). -/
def State.setPoison (s : State) (w : Nat) (b : Bool) : State :=
  let s := match (if b && !s.keyPoisoned w then s.poisonDie w else none) with | some d => s.countDie d 0x20F 1 | none => s
  if w < 2 ^ 54 then { s with poison := if b then NSet.add w s.poison else NSet.del w s.poison }
  else s.modMb (w / 2 ^ 54 - 1) fun mb =>
    { mb with tilePoison := if b then NSet.add (w % 2 ^ 54) mb.tilePoison else NSet.del (w % 2 ^ 54) mb.tilePoison }

/-- The coverage of one instruction or command after it writes n bytes of unpoisoned data at offset o of the sector with
key w: a poisoned sector whose 64 bytes it has written together loses its mark (04 R111). -/
def State.coverSector (s : State) (cov : NMap) (w o n : Nat) : State × NMap :=
  if s.keyPoisoned w then
    let m := NMap.get cov w ||| ((2 ^ n - 1) * 2 ^ o)
    if m = 2 ^ 64 - 1 then (s.setPoison w false, NMap.set cov w 0) else (s, NMap.set cov w m)
  else (s, cov)

/-- The coverage after a span of unpoisoned data. -/
def State.coverSpan (s : State) (cov : NMap) (p : Span) : State × NMap :=
  p.sectors.foldl (fun (acc : State × NMap) (w, o, n) => acc.1.coverSector acc.2 w o n) (s, cov)

/-- Spans written with bytes of which those flagged came from poisoned sectors: a sector that takes one is marked, the
others grow the coverage (04 R111). -/
def State.carryPoison (s : State) (cov : NMap) (sp : List Span) (flags : List Bool) : State × NMap :=
  let r := (sp.flatMap (·.sectors)).foldl (fun (acc : State × NMap × List Bool) (w, o, n) =>
    if (acc.2.2.take n).any id then (acc.1.setPoison w true, NMap.set acc.2.1 w 0, acc.2.2.drop n)
    else
      let q := acc.1.coverSector acc.2.1 w o n
      (q.1, q.2, acc.2.2.drop n)) (s, cov, flags)
  (r.1, r.2.1)

/-- For each byte of the spans, whether its sector holds poison. -/
def State.spanFlags (s : State) (sp : List Span) : List Bool :=
  sp.flatMap fun p => match p.place with
    | .reg _ => List.replicate p.n false
    | _ => p.sectors.flatMap fun (w, _, n) => List.replicate n (s.keyPoisoned w)

/-- The coverage after every span of an element. -/
def State.coverSpans (s : State) (cov : NMap) (sp : List Span) : State × NMap :=
  if s.poison.isEmpty ∧ (sp.all fun p => match p.place with | .tile m _ => (s.mb m).tilePoison.isEmpty | _ => true) then
    (s, cov)
  else sp.foldl (fun (acc : State × NMap) p => acc.1.coverSpan acc.2 p) (s, cov)

/-- One element read at va: its n bytes as a number, or the trap of R102. -/
def State.readElem (s : State) (cx : ACtx) (lg : Nat) (kind : AKind) (aligned : Bool) (va : Word) (n : Nat) :
    State × Except Trap Nat :=
  match s.access cx kind aligned va n with
  | (s, .error x) => (s, .error x)
  | (s, .ok sp) => let q := s.readSpans cx lg sp; (q.1, .ok (leNat q.2))

/-- One element written at va with the low n bytes of v, or the trap of R102. The coverage grows by it. -/
def State.writeElem (s : State) (cx : ACtx) (lg : Nat) (aligned : Bool) (va : Word) (n v : Nat) (cov : NMap) :
    State × NMap × Option Trap :=
  match s.access cx .write aligned va n with
  | (s, .error x) => (s, cov, some x)
  | (s, .ok sp) =>
    let q := (s.writeSpans cx lg sp (bytesOf n v)).coverSpans cov sp
    (q.1, q.2, none)

/-- One far atomic at va: the old value of n bytes, replaced by f of it where f gives a value. It is performed at the home
slice (05 R133). -/
def State.atomicElem (s : State) (cx : ACtx) (va : Word) (n : Nat) (f : Nat → Option Nat) : State × Except Trap Nat :=
  match s.access cx .atomic true va n with
  | (s, .error x) => (s, .error x)
  | (s, .ok sp) =>
    match sp with
    | [⟨.phys a _, _⟩] =>
      let old := Mem.readNat s.mem a n
      let s' := s.dirFlush a
      let s := s.quiet cx.rid (match s.homeOf a with | some (d, _) => s'.countDie d 0x203 1 | none => s')
      (match f old with | some v => s.physWrite a (bytesOf n v) | none => s, .ok old)
    | _ =>
      let q := s.readSpans cx 0 sp
      (match f (leNat q.2) with | some v => q.1.writeSpans cx 0 sp (bytesOf n v) | none => q.1, .ok (leNat q.2))

/-- A block of n bytes read at va in 64-byte pieces, each checked as one element; the first trap ends it. -/
def State.readBlock (s : State) (cx : ACtx) (va : Word) (n : Nat) : State × Except Trap (List Byte) :=
  let first := min n (64 - va.toNat % 64)
  let k := (n - first + 63) / 64
  (List.range (k + 1)).foldl (fun (acc : State × Except Trap (List Byte)) j =>
    match acc with
    | (s, .error x) => (s, .error x)
    | (s, .ok bs) =>
      let off := if j = 0 then 0 else first + (j - 1) * 64
      let m := if j = 0 then first else min 64 (n - off)
      if m = 0 then (s, .ok bs) else
      match s.access cx .read false (va + BitVec.ofNat 64 off) m with
      | (s, .error x) => (s, .error x)
      | (s, .ok sp) => let q := s.readSpans cx 0 sp; (q.1, .ok (bs ++ q.2))) (s, .ok [])

/-- A block of bytes written at va in 64-byte pieces, all checked before any is written; a trap writes nothing. -/
def State.writeBlock (s : State) (cx : ACtx) (va : Word) (bs : List Byte) : State × Option Trap :=
  let n := bs.length
  let first := min n (64 - va.toNat % 64)
  let k := (n - first + 63) / 64
  let piece := fun (j : Nat) =>
    let off := if j = 0 then 0 else first + (j - 1) * 64
    (off, if j = 0 then first else min 64 (n - off))
  let r := (List.range (k + 1)).foldl (fun (acc : State × Except Trap (List (List Span × Nat))) j =>
    match acc with
    | (s, .error x) => (s, .error x)
    | (s, .ok l) =>
      let (off, m) := piece j
      if m = 0 then (s, .ok l) else
      match s.access cx .write false (va + BitVec.ofNat 64 off) m with
      | (s, .error x) => (s, .error x)
      | (s, .ok sp) => (s, .ok (l ++ [(sp, off)]))) (s, .ok [])
  match r with
  | (s, .error x) => (s, some x)
  | (s, .ok l) =>
    ((l.foldl (fun (acc : State × NMap) (sp, off) =>
      (acc.1.writeSpans cx 0 sp (bs.drop off)).coverSpans acc.2 sp) (s, [])).1, none)

/-! ### The interlock table (05 R125, R126, 07 R187-R189) -/

/-- Bytes of an ESIZE code (04 R108). -/
def esizeBytes (z : Nat) : Nat := if z = 4 then 3 else 2 ^ z

/-- An access of the n bytes at va must wait for entry e (05 R126). -/
def Interlock.holds (e : Interlock) (isWrite : Bool) (va n : Nat) : Bool :=
  e.v && decide (va ≤ e.hi) && decide (e.lo < va + n) &&
  (isWrite || (e.write && !(e.dense && decide (va + n ≤ e.lo + e.boff + e.leadcnt * esizeBytes e.esize))))

/-- An access of thread t must wait for the thread's own engine work. -/
def State.interlocked (s : State) (t : Nat) (isWrite : Bool) (va : Word) (n : Nat) : Bool :=
  (s.th t).interlock.toList.any (·.holds isWrite va.toNat n)

/-- The free entries of thread t's table. -/
def Thread.freeLocks (th : Thread) : List Nat :=
  (List.range 16).filter fun k => !(vget th.interlock k Interlock.reset).v

/-- The entry of a byte range (05 R125, 07 R188): outward to 64-byte sectors. -/
def lockOf (write dense : Bool) (eng esize : Nat) (eseq : BitVec 32) (lo hi first : Nat) : Interlock :=
  { v := true, write, dense, eng, esize, lo := lo / 64 * 64, hi := hi / 64 * 64 + 63, boff := first % 64, eseq,
    leadcnt := 0 }

/-- The entries taken by a command of thread t, and their numbers. The caller has checked that they fit. -/
def State.takeLocks (s : State) (t : Nat) (es : List Interlock) : State × List Nat :=
  let ks := (s.th t).freeLocks.take es.length
  (s.modTh t fun th => { th with interlock := (ks.zip es).foldl (fun v (k, e) => vset v k e) th.interlock }, ks)

/-- The entries of a completed command freed. -/
def State.freeLocks (s : State) (t : Nat) (ks : List Nat) : State :=
  s.modTh t fun th => { th with interlock := ks.foldl (fun v k => vset v k Interlock.reset) th.interlock }

/-- The leading-element count of the write entries among ks set to n (08 R212). -/
def State.leadLocks (s : State) (t : Nat) (ks : List Nat) (n : Nat) : State :=
  s.modTh t fun th => { th with interlock := ks.foldl (fun v k =>
    let e := vget v k Interlock.reset
    if e.write then vset v k { e with leadcnt := n } else v) th.interlock }

/-- The leading-element counts of entries set one by one. -/
def State.leadEach (s : State) (t : Nat) (l : List (Nat × Nat)) : State := l.foldl (fun s e => s.leadLocks t [e.1] e.2) s

/-! ### Engine sequence numbers (08 R209, R210) -/

/-- The engine counter of thread t for engine code e (2-8). -/
def Thread.engCtr (th : Thread) (e : Nat) : EngCtr := vget th.eng (e - 2) { issued := 0, done := 0, early := [] }

/-- The number the next command to engine e takes. -/
def Thread.nextEseq (th : Thread) (e : Nat) : BitVec 32 := (th.engCtr e).issued + 1

/-- Acceptance of a command by engine e: ISSUED advances, and the command is the thread's newest (08 R210, R220). -/
def State.acceptEng (s : State) (t e chan : Nat) (eseq : BitVec 32) : State :=
  (s.modTh t fun th =>
    { th with
      eng := if 2 ≤ e then vset th.eng (e - 2) { th.engCtr e with issued := eseq } else th.eng
      newest := BitVec.ofNat 64 (eseq.toNat + e * 2 ^ 32 + chan * 2 ^ 40) }).count t 0x021 1

/-- Held completions n steps: DONE advances over every number that has completed. -/
def advanceDone : Nat → BitVec 32 → List (BitVec 32) → BitVec 32 × List (BitVec 32)
  | 0, d, l => (d, l)
  | k + 1, d, l => if l.contains (d + 1) then advanceDone k (d + 1) (l.erase (d + 1)) else (d, l)

/-- The slot of a thread in the member save area (08 R211). -/
def Thread.areaSlot (th : Thread) : Nat := if th.kind = .control then 4 else th.slotIdx % 4

/-- DONE of a thread's engine e as the member save area holds it, while the thread is off-core (08 R210, R211). -/
def State.writeDone (s : State) (t e : Nat) : State :=
  if 2 ≤ e ∧ (s.tm (s.th t).team).state = .saved then
    s.physWrite ((s.mbOf t).saveBase + 0x600 + (s.th t).areaSlot * 64 + (e - 2) * 8 + 4) (bytesOf 4 ((s.th t).engCtr e).done.toNat)
  else s

/-- A thread's counters after the completion of command n on engine e: DONE advances in order, and later numbers wait (08 R210). -/
def Thread.completeEng (th : Thread) (e : Nat) (n : BitVec 32) : Thread :=
  let c := th.engCtr e
  let l := if seqLe n c.done ∨ c.early.contains n then c.early else n :: c.early
  let r := advanceDone l.length c.done l
  { th with eng := vset th.eng (e - 2) { c with done := r.1, early := r.2 } }

/-- Completion of command n of thread t on engine e; off-core, the engine writes DONE into the save area (02 R57, 08 R210). -/
def State.completeEng (s : State) (t e : Nat) (n : BitVec 32) : State := (s.modTh t fun th => th.completeEng e n).writeDone t e

/-! ### Traps (02 R49, 03 R76, R77, R89) -/

/-- STATUS bits (03 R69). -/
def stCTL : Nat := 0
def stSUP : Nat := 1
def stINH : Nat := 2
def stBSKIP : Nat := 3
def stDBG : Nat := 4
def stHALFM : Nat := 5
def stDBL : Nat := 6
def stCONF : Nat := 7

/-- Thread t runs its own trap handler. -/
def Thread.inh (th : Thread) : Bool := getBit th.sys.status stINH

/-- What a trap records beside its condition: the engine, channel and engine number of an engine fault, the faulting
convoy, the lanes, and where the thread resumes. -/
structure TrapSite where
  eng : Nat
  chan : Nat
  eseq : BitVec 32
  pc : Word
  seq : BitVec 32
  lanes : BitVec 32
  refetch : Word
  deriving DecidableEq, Repr

/-- An instruction fault at pc. -/
def siteAt (pc : Word) (seq : BitVec 32) (refetch : Word) : TrapSite :=
  { eng := 0, chan := 0, eseq := 0, pc, seq, lanes := 0, refetch }

/-- The fault class of a cause in a report record (17 R437). -/
def faultClass (cause : Nat) : Nat :=
  if [0x05, 0x06, 0x07, 0x08, 0x0D].contains cause then 1
  else if cause = 0x09 then 2
  else if [0x01, 0x02, 0x03, 0x04, 0x10, 0x11, 0x12, 0x13].contains cause then 3
  else if [0x0E, 0x0F, 0x14].contains cause then 4
  else if cause = 0x16 then 5
  else if cause = 0x15 then 6
  else 7

/-- The trap registers of a recorded trap (02 R49, 03 R76). -/
def SysRegs.record (r : SysRegs) (tr : Trap) (si : TrapSite) : SysRegs :=
  { r with
    trapcause := BitVec.ofNat 64 (si.eseq.toNat * 2 ^ 32 + si.chan % 8 * 2 ^ 20 + si.eng % 16 * 2 ^ 16 +
      tr.sub.toNat * 2 ^ 8 + tr.cause.toNat)
    trappc := si.pc
    trapseq := si.seq.setWidth 64
    traplanes := si.lanes.setWidth 64
    trapelem := BitVec.ofNat 64 (tr.elem % 2 ^ 32)
    trapaddr := tr.addr }

/-- The cause goes to the thread's own handler (03 R89 item 1). -/
def Thread.toHandler (th : Thread) (cause : BitVec 8) : Bool :=
  (cause == 0x09 || cause == 0x0A || cause == 0x13 || (cause == 0x10 && !getBit th.sys.status stDBG)) &&
  th.sys.trapvec != 0 && !th.inh && th.run != .done

/-- Delivery of a recorded trap to one thread (03 R89): its handler, or the thread stops its member. -/
def Thread.deliver (th : Thread) (cause : BitVec 8) (refetch : Word) : Thread :=
  if th.toHandler cause then
    { th with sys := { th.sys with status := putBit th.sys.status stINH true }, refetch, pc := th.sys.trapvec,
              run := .running, queue := [], stepReq := false }
  else
    { th with sys := { th.sys with status := if th.inh then putBit th.sys.status stDBL true else th.sys.status },
              refetch, pc := refetch, queue := [], stepReq := false,
              run := if th.run = .done then .endedStopped else .stopped }

/-- The trap block (03 R78): commit pointers, and the cause and lowest element of each lane that faulted in convoy q. -/
def Thread.trapBlock (th : Thread) (q : Option (BitVec 32)) : Thread :=
  let f := fun (j : Nat) => match Tbl.find j th.laneFault with
    | some lf => if some (vget th.cp j 0) = q then some lf else none
    | none => none
  { th with
    tbCp := Vector.ofFn fun j : Fin 32 => if j.val < th.lanes then vget th.cp j 0 else 0
    tbCause := Vector.ofFn fun j : Fin 32 => match f j with | some lf => lf.trap.cause | none => 0
    tbElem := Vector.ofFn fun j : Fin 32 => if th.lanes ≤ j.val then 0 else
      match f j with | some lf => BitVec.ofNat 32 lf.trap.elem | none => BitVec.allOnes 32 }

/-- The 0x120 bytes of the trap block (03 R78). -/
def Thread.trapBytes (th : Thread) : List Byte :=
  th.tbCp.toList.flatMap (fun q => bytesOf 4 q.toNat) ++ th.tbCause.toList ++ th.tbElem.toList.flatMap (fun q => bytesOf 4 q.toNat)

/-- The trap block of a strand written with its trap record, at the base of its save area (02 R49, 03 R78, R87). -/
def State.putTrapBlock (s : State) (t : Nat) : State :=
  if (s.th t).kind = .strand then s.physWrite (s.th t).sys.ctxarea.toNat (s.th t).trapBytes else s

/-- A stopped thread waits for a supervisor core of the die it runs on (01 R24, 03 R89). -/
def State.callSupervisor (s : State) (t : Nat) : State :=
  if (s.th t).kind ≠ .supervisor ∧ ((s.th t).run = .stopped ∨ (s.th t).run = .endedStopped) then
    s.modDie (s.dieOf t) fun d => { d with stops := if d.stops.contains t then d.stops else d.stops ++ [t] }
  else s

/-- Taking a trap: the record of R49 or R77 is written, with the trap block of a strand, the convoys that have not issued are
discarded, and the trap is delivered under R89. This is the one operation every trap goes through. A record of no lanes has an
empty per-lane part; that of lane faults has been formed with them. -/
def State.takeTrap (s : State) (t : Nat) (tr : Trap) (si : TrapSite) : State :=
  let s := s.modTh t fun th =>
    let th := if si.lanes = 0 then th.trapBlock none else th
    Thread.deliver { th with sys := { th.sys.record tr si with
      cseq := match th.queue with | [] => th.sys.cseq | f :: _ => f.seq.setWidth 64 } } tr.cause si.refetch
  let s := (s.putTrapBlock t).callSupervisor t
  let s := s.modTm (s.th t).team fun tm =>
    if (s.th t).kind = .supervisor then tm
    else { tm with faultClass := faultClass tr.cause.toNat, faultEng := si.eng }
  s.count t 0x020 1

/-- The units of the words parked by a trap perform them again (15 R379). -/
def Thread.unpark (th : Thread) : Thread :=
  { th with inflight := th.inflight.map fun i => if i.parked then { i with parked := false } else i }

/-- Return from the handler (11 R294): INH clears and the thread goes on from the refetch PC; with BSKIP set, the first convoy
issued then matches no PC breakpoint (03 R69). The trap registers keep their contents. -/
def Thread.returnFromTrap (th : Thread) : Thread :=
  { th with sys := { th.sys with status := putBit th.sys.status stINH false }, pc := th.refetch, queue := [],
            run := .running, skipNow := getBit th.sys.status stBSKIP
            inflight := th.unpark.inflight }

/-- Resume by a supervisor core (03 R69, 02 R50): DBL clears, and the thread goes on from its PC; an ended thread stays
ended. -/
def Thread.resumeStopped (th : Thread) : Thread :=
  { th with sys := { th.sys with status := putBit th.sys.status stDBL false },
            run := if th.run = .endedStopped then .done else .running
            inflight := th.unpark.inflight }

/-! ### Floating-point flags (03 R71) -/

/-- Flags ORed into FFLAGS. -/
def State.orFlags (s : State) (t : Nat) (fl : BitVec 5) : State :=
  s.modTh t fun th => { th with sys := { th.sys with fflags := th.sys.fflags ||| fl.setWidth 64 } }

end Sys2Proof.Machine
end

