-- ==== Sys2Proof/Machine/Operands.lean ====
section
/-! DEFINITION. Operand forms: access types, literals, rounding modes, and the vector operands of a lane (02 R41, R42,
10 R254, R255, R264, 12 R301, R302). -/

namespace Sys2Proof
open Machine
namespace Machine

/-! ### Scalar operands -/

end Machine

/-- Bytes of an access type (10 R254). -/
def TI.bytes : TI → Nat
  | .i8 => 1 | .n8 => 1 | .i16 => 2 | .n16 => 2 | .i32 => 4 | .n32 => 4 | .i64 => 8 | .n64 => 8

/-- The access type sign-extends a load (11 R281). -/
def TI.signed : TI → Bool
  | .i8 => true | .i16 => true | .i32 => true | .i64 => true | _ => false

/-- A loaded value extended to 64 bits (11 R281). -/
def TI.extend (ti : TI) (v : Nat) : Word :=
  if ti.signed then BitVec.ofInt 64 (sintOf (8 * ti.bytes) v) else BitVec.ofNat 64 (v % 2 ^ (8 * ti.bytes))

/-- The A operand of an extended instruction (10 R264). -/
def AOp.val (th : Thread) : AOp → Word
  | .reg r => th.rx r
  | .lit v => v

/-- The registers an A operand reads. -/
def AOp.regs : AOp → List XReg
  | .reg r => [r]
  | .lit _ => []

namespace Machine

/-- A floating-point operand: the low bits of a register (11 R284). -/
def fop (f : FTy) (ftz : Bool) (w : Word) : FVal := fload (fmtOf f) ftz w.toNat

/-! ### Rounding (03 R70, 09 R235) -/

/-- The mode of an RM code; EFR reads as RNE. -/
def rmOf (rm : Nat) : RMode :=
  match rm with | 1 => .rtz | 2 => .rdn | 3 => .rup | 4 => .rna | _ => .rne

/-- RMODE.RM as a rounding mode. -/
def modeOf (rmode : Word) : RMode := rmOf (getField rmode 0 3)

end Machine

/-- The mode of an instruction with a prefix override. -/
def Rmo.mode (r : Rmo) (rmode : Word) : RMode :=
  match r with
  | .none => modeOf rmode | .rne => .rne | .rtz => .rtz | .rdn => .rdn | .rup => .rup | .rna => .rna | .efr => .rne

namespace Machine

/-- RMODE.FTZ. -/
def ftzOf (rmode : Word) : Bool := getBit rmode 3

end Machine

/-- The mode of a conversion is EFR (09 R235, 12 R321). -/
def Rmo.isEfr (r : Rmo) (rmode : Word) : Bool := r == .efr || (r == .none && getField rmode 0 3 == 5)

/-- The rounding override of a vector unit. -/
def VCtl.rmo (k : VCtl) : Rmo := match k.pfx with | some p => p.rmo | none => .none

/-- The SAT bit of a vector unit. -/
def VCtl.sat (k : VCtl) : Bool := match k.pfx with | some p => p.sat | none => false

/-- The fourth vector operand, if the unit has a prefix. -/
def VCtl.vc (k : VCtl) : Option VReg := k.pfx.map (·.vc)

namespace Machine

/-! ### Masks and policies (12 R302) -/

/-- How an instruction masks and what it writes to elements that are not active. -/
structure MaskCtl where
  m : Bool
  reg : Nat
  mz : Bool
  mp : Bool
  tp : Bool
  deriving DecidableEq, Repr

end Machine

/-- The mask register of a vector unit: v(MK) with MKE = 1, v0 otherwise. -/
def VCtl.maskReg (k : VCtl) : VReg := match k.pfx with | some p => if p.mke then p.mreg else 0 | none => 0

/-- The masking of a vector unit. -/
def VCtl.mask (k : VCtl) : MaskCtl :=
  { m := k.m, reg := k.maskReg.toNat, mz := match k.pfx with | some p => p.mz | none => false, mp := k.mp, tp := k.tp }

/-- The masking of an extended vector instruction. -/
def ECtl.mask (k : ECtl) : MaskCtl := { m := k.m, reg := k.mreg.toNat, mz := false, mp := k.mp, tp := k.tp }

namespace Machine

/-- The mask register an instruction reads, if it is masked. -/
def MaskCtl.reads (c : MaskCtl) : List Nat := if c.m then [c.reg] else []

/-! ### Vector operands (02 R41, R42) -/

/-- What a lane knows of the convoy it executes: the thread, the convoy's number and captured values, the lane, and the
element a re-execution starts at (05 R124). -/
structure LEnv where
  t : Nat
  seq : BitVec 32
  cap : Captured
  lane : Nat
  start : Nat
  /-- the distribution entry and owner words read at issue (07 R185) -/
  dist : Option (DistEntry × List Nat)
  deriving DecidableEq, Repr

/-- lanes(). -/
def Captured.lanes (c : Captured) : Nat := getField c.laneshare 8 6
/-- VSEW in bits. -/
def Captured.sew (c : Captured) : Nat := sewOf c.vcfgv
/-- VLEN. -/
def Captured.vl (c : Captured) : Nat := getField c.vlen 0 32
/-- MVL. -/
def Captured.mvl (c : Captured) : Nat := getField c.vcfgv 32 32
/-- The captured scalar register r. -/
def Captured.rx (c : Captured) (r : XReg) : Word := if r = 0 then 0 else c.x[r.toNat]

/-- Element i, w bits wide, of register r on L lanes. -/
def vget1 (v : NMap) (L w r i : Nat) : Nat := NMap.get v (r * 32 + i % L) / 2 ^ (w * (i / L)) % 2 ^ w

/-- Element i, w bits wide, of register r set to x. -/
def vput1 (v : NMap) (L w r i x : Nat) : NMap :=
  let sh := NMap.get v (r * 32 + i % L)
  NMap.set v (r * 32 + i % L) (sh - sh / 2 ^ (w * (i / L)) % 2 ^ w * 2 ^ (w * (i / L)) + x % 2 ^ w * 2 ^ (w * (i / L)))

/-- active(i). -/
def isActive (v : NMap) (L : Nat) (c : MaskCtl) (i : Nat) : Bool := !c.m || vget1 v L 1 c.reg i == 1

/-- The elements below n of a lane, in ascending order. -/
def laneElems (L n lane : Nat) : List Nat := (List.range ((n + L - 1 - lane) / L)).map fun p => lane + p * L

/-- Elements from n up to the capacity of the register written all ones in one lane: TP = 1 (12 R302). -/
def fillTail (v : NMap) (L w r n cap lane : Nat) : NMap :=
  let lo := (n + L - 1 - lane) / L * w
  let hi := cap / L * w
  let sh := NMap.get v (r * 32 + lane)
  if hi ≤ lo then v
  else NMap.set v (r * 32 + lane) (sh % 2 ^ lo + (2 ^ (hi - lo) - 1) * 2 ^ lo + sh / 2 ^ hi * 2 ^ hi)

/-- The tail policy of a destination in one lane: capacity is MVL × VSEW ÷ w elements of w bits. -/
def tailPolicy (cap : Captured) (c : MaskCtl) (v : NMap) (w r n lane : Nat) : NMap :=
  if c.tp then fillTail v cap.lanes w r n (cap.mvl * cap.sew / w) lane else v

/-- The tail policy of an instruction of chapter 12, which writes no element when VLEN = 0 (12 R300). -/
def tailPolicy12 (cap : Captured) (c : MaskCtl) (v : NMap) (w r n lane : Nat) : NMap :=
  if cap.vl = 0 then v else tailPolicy cap c v w r n lane

/-- The value a masked-off element of w bits takes, or none when it is left (12 R302). -/
def MaskCtl.off (c : MaskCtl) (w : Nat) : Option Nat :=
  if c.mz then some 0 else if c.mp then some (2 ^ w - 1) else none

/-- An element read as the type says. -/
def elInt (signed : Bool) (w x : Nat) : Int := if signed then sintOf w x else (x % 2 ^ w : Nat)

end Machine
end Sys2Proof
end

