-- ==== Sys2Proof/Machine/Flags.lean ====
section
/-! DEFINITION. Flags: how an element's or an instruction's exceptions meet FTRAPEN and FFLAGS (03 R71, 09 R236, 12 R305),
and the element loop of lane-local vector instructions. -/

namespace Sys2Proof.Machine

/-- Some raised exception is enabled in FTRAPEN. -/
def fpx (trapen : Word) (fl : Flags) : Bool := (trapen.setWidth 5 &&& fl) != 0

/-- The FPX trap of an element. -/
def fpxTrap (i : Nat) : Trap := { cause := 0x09, sub := 0, elem := i, addr := 0 }

/-- The registers after a lane-local instruction with its flags, or the element that trapped FPX. -/
structure LaneOut where
  v : NMap
  flags : Flags
  fault : Option Nat
  deriving DecidableEq, Repr

/-- One element of the loop: the policy of R302, and FPX under R236. -/
def elemStep (e : LEnv) (c : MaskCtl) (src : NMap) (vd dw : Nat) (f : Nat → FRes) (o : LaneOut) (i : Nat) : LaneOut :=
  match o.fault with
  | some _ => o
  | none =>
    if isActive src e.cap.lanes c i then
      let r := f i
      if fpx e.cap.ftrapen r.flags then { o with fault := some i }
      else { o with v := vput1 o.v e.cap.lanes dw vd i r.bits, flags := o.flags ||| r.flags }
    else match c.off dw with
      | some x => { o with v := vput1 o.v e.cap.lanes dw vd i x }
      | none => o

/-- The element loop of one lane: active elements in ascending order take f, the others their policy, then the tail
(02 R46, 12 R302, R305). -/
def fillBody (e : LEnv) (c : MaskCtl) (v : NMap) (vd dw : Nat) (f : Nat → FRes) : LaneOut :=
  let o := (laneElems e.cap.lanes e.cap.vl e.lane).foldl (elemStep e c v vd dw f) { v, flags := 0, fault := none }
  match o.fault with
  | some _ => o
  | none => { o with v := tailPolicy e.cap c o.v dw vd e.cap.vl e.lane }

/-- The element loop of an instruction of chapter 12: with VLEN = 0 it writes nothing (12 R300). -/
def mapLane (e : LEnv) (c : MaskCtl) (v : NMap) (vd dw : Nat) (f : Nat → FRes) : LaneOut :=
  if e.cap.vl = 0 then { v, flags := 0, fault := none } else fillBody e c v vd dw f

/-- Flags of a floating-point result that is then saturated (12 R304, R318). -/
def FRes.sat (f : Fmt) (sat : Bool) (r : FRes) : FRes := if sat then { r with bits := satBits f r.bits } else r

/-- A result with no flag. -/
def FRes.plain (n : Nat) : FRes := ⟨n, 0⟩

end Sys2Proof.Machine
end

