-- ==== Sys2Proof/Machine/Remote.lean ====
section
/-! DEFINITION. Atomic operations (14 R361), and remote operations: what a target checks and performs (07 R182, R183, 17
R424), and how a source sends an element and takes its answer (05 R134, 13 R332, 17 R416, R417). -/

namespace Sys2Proof.Machine

/-! ### Atomic operations -/

/-- The value an integer atomic of w bits writes (14 R361). -/
def amoNew (op : AmoOp) (signed : Bool) (w old b : Nat) : Nat :=
  match op with
  | .add => (old + b) % 2 ^ w
  | .and => old &&& b
  | .or => old ||| b
  | .xor => old ^^^ b
  | .min => if elInt signed w old ≤ elInt signed w b then old else b
  | .max => if elInt signed w old ≤ elInt signed w b then b else old
  | .swap => b

/-- The value a floating-point atomic writes, and its flags: RNE, no FTZ (14 R361). -/
def famoNew (op : FRedOp) (f64 : Bool) (old b : Nat) : FRes :=
  let F := fmtOf (if f64 then .f64 else .f32)
  match op with
  | .sum => addVal F .rne false (fload F false old) (fload F false b)
  | .min => minmax F false false old b
  | .max => minmax F true false old b

/-! ### Formes (07 R182) -/

/-- The number of elements of a forme. -/
def Forme.count (f : Forme) : Nat := f.ext.getD 0 1 * f.ext.getD 1 1 * f.ext.getD 2 1

/-- The address of element e of a forme, below its element count, in exact arithmetic (00 R14, 07 R182). -/
def Forme.addr (f : Forme) (e : Nat) : Int :=
  let e0 := f.ext.getD 0 1
  let e1 := f.ext.getD 1 1
  (f.base.toNat : Int) + (e % e0 : Nat) * f.str.getD 0 0 + (e / e0 % e1 : Nat) * f.str.getD 1 0 +
    (e / (e0 * e1) : Nat) * f.str.getD 2 0

/-- A forme reference (13 R331), which is also TRAPADDR of FORME and FABRIC (03 R76). -/
def formeRef (md forme elem : Nat) : Word := BitVec.ofNat 64 (md % 1024 * 2 ^ 54 + forme % 2 ^ 14 * 2 ^ 40 + elem % 2 ^ 40)

/-- The number of this module. -/
def State.moduleNo (s : State) : Nat := getField s.fab.fabcfg 0 10

/-- The forme's SRCSET permits a source module (07 R181). -/
def State.srcPermitted (s : State) (f : Forme) (src : Nat) : Bool :=
  match f.srcset with
  | 0 => true
  | 1 => bitAt (Mem.get s.mem (f.mask.toNat + src / 8)).toNat (src % 8)
  | _ => src == f.mod

/-- The forme permits an operation (07 R183 check 3). -/
def Forme.permits (f : Forme) : RemoteKind → Bool
  | .load => f.rd && !f.msg
  | .store _ => f.wr && !f.msg
  | .ordStore _ _ _ => f.wr && !f.msg
  | .payload _ => f.msg
  | _ => f.atom && f.rd && f.wr && !f.msg

/-- The kind of access a remote operation makes. -/
def remoteAKind : RemoteKind → AKind
  | .load => .read
  | .payload _ => .read
  | .store _ => .write
  | .ordStore _ _ _ => .write
  | _ => .atomic

/-- The accesses performed for a forme at this module: in its region, by no member. -/
def State.formeCtx (s : State) (f : Forme) : ACtx :=
  { rid := f.rid, die := (s.region f.rid).home % 4, team := 0, mb := none, sup := false, lane := none, nt := false }

/-- A remote element performed by this module as its target, with the checks of R183 in order. -/
def State.performRemote (s : State) (r : RemoteReq) : State × RemoteAnswer :=
  match Tbl.find r.forme s.formes with
  | none => (s, .forme 0x00)
  | some f =>
    if s.struck (.table ((s.region f.rid).home % 4) 1 r.forme) then (s, .forme 0x05)
    else if ¬ s.srcPermitted f r.src then (s, .forme 0x03)
    else if ¬ f.permits r.kind then (s, .forme 0x02)
    else if f.count ≤ r.elem then (s, .forme 0x01)
    else if r.width ≠ 2 ^ f.esize then (s, .forme 0x02)
    else if f.addr r.elem < 0 ∨ (2 ^ 64 : Int) ≤ f.addr r.elem then (s, .forme 0x04)
    else
      let n := r.width
      let w := 8 * n
      match s.access (s.formeCtx f) (remoteAKind r.kind) (decide (remoteAKind r.kind = .atomic)) (BitVec.ofInt 64 (f.addr r.elem)) n with
      | (s, .error tr) => (s, .forme (if tr.cause = 0x08 ∧ tr.sub = 0x00 then 0x05 else 0x04))
      | (s, .ok sp) =>
        let q := s.readSpans (s.formeCtx f) 0 sp
        let old := leNat q.2
        let put := fun (v : Nat) =>
          let c := (q.1.writeSpans (s.formeCtx f) 0 sp (bytesOf n v)).coverSpans [] sp
          (c.1, RemoteAnswer.ok (BitVec.ofNat 64 old))
        match r.kind with
        | .load => (q.1, .ok (BitVec.ofNat 64 old))
        | .payload _ => (q.1, .ok (BitVec.ofNat 64 old))
        | .store d => put (d.toNat % 2 ^ w)
        | .ordStore d _ _ => put (d.toNat % 2 ^ w)
        | .amo op sg d => put (amoNew op sg w old (d.toNat % 2 ^ w))
        | .cas c d => put (if old = c.toNat % 2 ^ w then d.toNat % 2 ^ w else old)
        | .famo op d => put (famoNew op (n == 8) old (d.toNat % 2 ^ w)).bits

/-! ### Packets (17 R416, R417) -/

/-- Bytes of the transaction that carries a remote operation: its name word, in which an element index of 2^40 or more stands
modulo 2^40 (assumption log 30), its width, and its data (assumption log 110). -/
def remoteBody (md forme elem width : Nat) (k : RemoteKind) : List Byte :=
  let d : List Nat := match k with
    | .load => [] | .payload n => [n] | .store d => [d.toNat] | .ordStore d q c => [d.toNat, q, c]
    | .amo _ _ d => [d.toNat] | .cas a b => [a.toNat, b.toNat] | .famo _ d => [d.toNat]
  bytesOf 8 (formeRef md forme elem).toNat ++ bytesOf 8 width ++ d.flatMap (bytesOf 8)

/-- The generation new requests are injected under: ACTIVE, or STANDBY during a swap (17 R426). -/
def State.genNow (s : State) : Nat := (getField s.fab.rtstat 16 8 + bitOf (getBit s.fab.rtstat 2)) % 256

/-- The table of a generation: ACTIVE, or STANDBY for the next one; a packet of any other has none (17 R422). -/
def State.genTable (s : State) (g : Nat) : Tbl Route :=
  if g = getField s.fab.rtstat 16 8 then s.fab.active
  else if g = (getField s.fab.rtstat 16 8 + 1) % 256 then s.fab.standby else []

/-- A packet of this module to module dst. -/
def State.packetTo (s : State) (dst cls : Nat) (body : List Byte) : Packet :=
  { src := s.moduleNo, dst, via := 0x3FF, gen := s.genNow, hop := 0, phase := false, cls, port := 32, body }

/-- The weight of a path whose first hop uses a port of reduced width (17 R428). -/
def scaledWeight (w width : Nat) : Nat := if w = 0 then 0 else if width = 2 then max 1 (w / 2) else if width = 1 then max 1 (w / 4) else w

/-- The non-minimal slots of a route, each with its first port and its weight there. -/
def State.slotsOf (s : State) (tb : Tbl Route) (r : Route) : List (Nat × Nat × Nat) :=
  r.slots.filterMap fun (via, w) => match Tbl.find via tb with
    | some v => let k := scaledWeight w (vget s.ports v.minport Port.reset).width
      if k = 0 then none else some (via, v.minport, k)
    | none => none

/-- Bytes queued at a port. -/
def State.portBytes (s : State) (port : Nat) : Nat := ((vget s.ports port Port.reset).queue.map fun p => 16 + p.body.length).sum

/-- The intermediate module of a new packet to dst: 0x3FF for the minimal path; with ADAPT, weighted round-robin among the
non-minimal slots when the minimal first port's queue is longer by more than ADTHR (17 R422). -/
def State.choosePath (s : State) (dst : Nat) : State × Nat :=
  let tb := s.genTable s.genNow
  match Tbl.find dst tb with
  | none => (s, 0x3FF)
  | some r =>
    let l := s.slotsOf tb r
    let least := (l.map fun e => s.portBytes e.2.1).foldl min (s.portBytes r.minport)
    if ¬ getBit s.fab.fabcfg 10 ∨ l = [] ∨ s.portBytes r.minport ≤ least + getField s.fab.fabcfg 24 8 * 1024 then (s, 0x3FF)
    else
      let turns := l.flatMap fun e => List.replicate e.2.2 e.1
      ({ s with fab := { s.fab with rr := s.fab.rr + 1 } }, turns.getD (s.fab.rr % turns.length) 0x3FF)

/-- A port sends on a free number of the packets queued to it. -/
def State.transmit (s : State) (port : Nat) : State :=
  let p := vget s.ports port Port.reset
  let n := Config.freeNat s.tick % (p.queue.length + 1)
  { s with tick := s.tick + 1, outbox := s.outbox ++ p.queue.take n, ports := vset s.ports port { p with queue := p.queue.drop n } }

/-- A packet that leaves this router: into the queue of the port that the table of its generation names; none when that is not
UP, or the table does not reach the module it goes to next (17 R422, R427). -/
def State.forward (s : State) (p : Packet) : Option State :=
  match Tbl.find (if p.phase ∨ p.via = 0x3FF then p.dst else p.via) (s.genTable p.gen) with
  | none => none
  | some r =>
    let q := vget s.ports r.minport Port.reset
    if q.state ≠ .up then none
    else some (State.transmit { s with ports := vset s.ports r.minport { q with queue := q.queue ++ [p] } } r.minport)

/-- A packet of this module handed to the fabric: its path is chosen, and it joins its port's queue. A request that finds no port is
kept by its unit, as if answered NAK (17 R422, R427); a response has no unit that keeps it (assumption log 117). -/
def State.emit (s : State) (p : Packet) : State :=
  let q := s.choosePath p.dst
  (q.1.forward { p with via := q.2 }).getD q.1

/-- The answer of this module to a remote request, sent back to its source. -/
def State.answerTo (s : State) (r : RemoteReq) (a : RemoteAnswer) : State :=
  let body := bytesOf 8 (formeRef s.moduleNo r.forme r.elem).toNat ++
    (match a with | .ok v => 0 :: bytesOf 8 v.toNat | .forme u => [1, u] | .notReady => [2])
  s.emit (s.packetTo r.src 1 body)

/-- The die's routing table reaches a module (17 R421). -/
def State.reaches (s : State) (md : Nat) : Bool := (Tbl.find md s.fab.active).isSome

/-! ### The source side -/

/-- The trap of a remote element. -/
def remoteTrap (cause sub : BitVec 8) (md forme elem idx : Nat) : Trap :=
  { cause, sub, elem := idx, addr := formeRef md forme elem }

/-- A remote element sent: outstanding until its answer. This module serves its own elements at once (13 R331). -/
def State.sendRemote (s : State) (r : RemoteOut) : State × Option Answer :=
  if r.dst = s.moduleNo then
    match s.performRemote { src := r.dst, forme := r.forme, elem := r.elem, width := r.width, kind := r.kind } with
    | (s, .ok v) => (s, some (.val v))
    | (s, .forme u) => (s, some (.trap (remoteTrap 0x0E u r.dst r.forme r.elem r.idx)))
    | (s, .notReady) => (s, some (.trap (remoteTrap 0x0F 0x00 r.dst r.forme r.elem r.idx)))
  else if ¬ s.reaches r.dst then (s, some (.trap (remoteTrap 0x0F 0x01 r.dst r.forme r.elem r.idx)))
  else
    (State.emit { s with remotes := s.remotes ++ [{ r with tagno := s.nextTag }], nextTag := s.nextTag + 1 }
      (s.packetTo r.dst 0 (remoteBody r.dst r.forme r.elem r.width r.kind)), none)

/-- The remote elements of convoy q of thread t in one lane that have no answer yet. -/
def State.outstanding (s : State) (t : Nat) (q : BitVec 32) (lane : Nat) : Bool :=
  s.remotes.any fun r => r.thr == t && r.seq == q && r.lane == lane && r.answer.isNone

/-- The next ORDSEQ of thread t to forme f of module m (17 R424). -/
def State.takeOrd (s : State) (t m f : Nat) : State × Nat :=
  let key := (t * 1024 + m) * 16384 + f
  let n := (Tbl.find key s.ordSend).getD 0
  ({ s with ordSend := Tbl.insert key (n + 1) s.ordSend }, n)

/-- An answer delivered to a lane's element: a loaded or old value is written where the convoy still waits for it, and the
lowest fault of each lane is kept in the window entry (13 R332, R333). -/
def Thread.takeAnswer (th : Thread) (r : RemoteOut) (a : Answer) : Thread :=
  match a with
  | .val v => match r.vd with
    | some d => { th with v := vput1 th.v th.lanes r.ew d r.idx v.toNat, invalid := NSet.del (d * 2 ^ 32 + r.idx) th.invalid }
    | none => th
  | .trap tr =>
    let th := match r.vd with
      | some d => { th with invalid := NSet.del (d * 2 ^ 32 + r.idx) th.invalid } | none => th
    { th with window := th.window.map fun w =>
      if w.seq = r.seq then
        match Tbl.find r.lane w.rfault with
        | some old => if old.elem ≤ tr.elem then w else { w with rfault := Tbl.insert r.lane tr w.rfault }
        | none => { w with rfault := Tbl.insert r.lane tr w.rfault }
      else w }

end Sys2Proof.Machine
end

