-- ==== Sys2Proof/Machine/LaneMem.lean ====
section
/-! DEFINITION. What one lane does in each vector memory, remote, tile and vector atomic instruction (13 R326-R336, 14
R362): elements in ascending order, each checked for interlocks, watermarks and traps. -/

namespace Sys2Proof.Machine

/-- The outcome of one instruction in one lane. A stall leaves the lane at its convoy. -/
inductive LRes where
  | ok (s : State) (fl : Flags)
  | fault (s : State) (tr : Trap)
  | stall (s : State)

/-- The member-relative lane group of lane j: the (j div 8)-th group of LGMASK (02 R39). -/
def groupOf (laneshare : Word) (j : Nat) : Nat :=
  ((List.range 4).filter (getBit laneshare ·)).getD (j / 8) 0

/-- The lane group of the lane. -/
def LEnv.lg (e : LEnv) : Nat := groupOf e.cap.laneshare e.lane

/-- The accesses of the lane. -/
def LEnv.cx (e : LEnv) (s : State) : ACtx := s.laneCtx e.t e.lg e.lane

/-! ### Addresses (R326, R327) -/

/-- A unit-stride operand: base register and byte offset. -/
def unitAddr (e : LEnv) (xa : XReg) (off : BitVec 5) (w i : Nat) : Word :=
  let base := e.cap.rx xa + off.signExtend 64
  if w = 4 ∨ w = 6 then base + BitVec.ofNat 64 (3 * (i / (24 / w))) else base + BitVec.ofNat 64 (i * (w / 8))

/-- A strided operand. -/
def strideAddr (e : LEnv) (xa xb : XReg) (i : Nat) : Word := e.cap.rx xa + BitVec.ofNat 64 i * e.cap.rx xb

/-- An indexed operand. -/
def indexAddr (e : LEnv) (v : NMap) (xa : XReg) (vb : VReg) (w i : Nat) : Word :=
  e.cap.rx xa + BitVec.ofInt 64 (sintOf w (vget1 v e.cap.lanes w vb.toNat i))

/-- The slot of element i in its 24-bit group; 0 for wider elements. -/
def slotOf (w i : Nat) : Nat := if w = 4 ∨ w = 6 then i % (24 / w) else 0

/-- The bytes an element's access takes. -/
def accessBytes (w : Nat) : Nat := if w = 4 ∨ w = 6 then 3 else w / 8

/-! ### Watermarks (07 R192) -/

/-- The watermark entry a binding names, when it is valid and of the region. -/
def State.wmEntry (s : State) (rid : Nat) (b : Word) : Option WmEntry :=
  match Tbl.find (getField b 0 8) (s.die ((s.region rid).home % 4)).wmarks with
  | some m => if m.rid = rid then some m else none
  | none => none

/-- Bytes [va, va + n) touch the entry's range at an index that is not published. -/
def WmEntry.holds (m : WmEntry) (va n : Nat) : Bool :=
  let z := 2 ^ m.esize
  let lo := m.base.toNat
  decide (va < lo + m.nelem * z) && decide (lo < va + n) && decide (m.count ≤ (max va lo - lo) / z)

/-- A vector load of the convoy must wait at bytes [va, va + n). -/
def State.watermarked (s : State) (e : LEnv) (va : Word) (n : Nat) : Bool :=
  e.cap.wmark.toList.any fun b => getBit b 31 &&
    match s.wmEntry (s.ridOf e.t) b with | some m => m.holds va.toNat n | none => false

/-! ### The element loop -/

/-- The vector registers of thread t. -/
def State.vr (s : State) (t : Nat) : NMap := (s.th t).v

/-- The vector registers of thread t changed. -/
def State.setVr (s : State) (t : Nat) (v : NMap) : State := s.modTh t fun th => { th with v }

/-- The window entry of convoy q of thread t changed. -/
def State.modWin (s : State) (t : Nat) (q : BitVec 32) (f : WinEntry → WinEntry) : State :=
  s.modTh t fun th => { th with window := th.window.map fun w => if w.seq = q then f w else w }

/-- The coverage of poisoned sectors by convoy q of thread t (04 R111). -/
def State.winCover (s : State) (t : Nat) (q : BitVec 32) : NMap :=
  match (s.th t).window.find? (·.seq == q) with | some w => w.cover | none => []

/-- The loop over the active elements of one lane, in ascending order; `f` performs one element. A stalled or faulting
element ends it. -/
def laneLoop (s : State) (e : LEnv) (c : MaskCtl) (f : State → Nat → LRes) : LRes :=
  let src := s.vr e.t
  (laneElems e.cap.lanes e.cap.vl e.lane).foldl (fun r i =>
    match r with
    | .ok s fl => if isActive src e.cap.lanes c i then
        (match f s i with
         | .ok s g => .ok s (fl ||| g)
         | .fault s tr => .fault s { tr with elem := i }
         | .stall s => .stall s)
      else .ok s fl
    | r => r) (.ok s 0)

/-- The policy values of masked-off and tail elements of a destination in one lane (12 R302). -/
def State.lanePolicy (s : State) (e : LEnv) (c : MaskCtl) (w : Nat) (vd : VReg) : State :=
  let src := s.vr e.t
  let v := match c.off w with
    | none => src
    | some x => (laneElems e.cap.lanes e.cap.vl e.lane).foldl (fun v i =>
        if isActive src e.cap.lanes c i then v else vput1 v e.cap.lanes w vd.toNat i x) src
  s.setVr e.t (tailPolicy e.cap c v w vd.toNat e.cap.vl e.lane)

/-- A loop that fills a destination: the loop, then the policy values. A stall undoes the elements before it. -/
def fillLane (s : State) (e : LEnv) (c : MaskCtl) (w : Nat) (vd : VReg) (f : State → Nat → LRes) : LRes :=
  match laneLoop s e c f with
  | .ok s' fl => .ok (s'.lanePolicy e c w vd) fl
  | .fault s' tr => .fault s' tr
  | .stall _ => .stall s

/-! ### Local loads and stores (R326-R330) -/

/-- One element loaded: interlocks, watermarks, then R102. -/
def loadElem (s : State) (e : LEnv) (w vd i : Nat) (wm aligned : Bool) (va : Word) : LRes :=
  let n := accessBytes w
  if s.interlocked e.t false va n ∨ (wm ∧ s.watermarked e va n) then .stall s
  else match s.readElem (e.cx s) e.lg .read aligned va n with
    | (s, .error tr) => .fault s tr
    | (s, .ok x) => .ok (s.setVr e.t (vput1 (s.vr e.t) e.cap.lanes w vd i (x / 2 ^ (w * slotOf w i)))) 0

/-- The bytes o to o + n - 1 of the spans. -/
def cutSpans : List Span → Nat → Nat → List Span
  | [], _, _ => []
  | p :: rest, o, n =>
    if p.n ≤ o then cutSpans rest (o - p.n) n
    else
      let m := min n (p.n - o)
      let q : Span := { place := (match p.place with
        | .phys a c => .phys (a + o) c | .tile k f => .tile k (f + o) | .reg r => .reg (r + o)), n := m }
      if n ≤ m then [q] else q :: cutSpans rest 0 (n - m)

/-- One element stored: interlocks, then R102. A packed element writes its own bits alone (R327). -/
def storeElem (s : State) (e : LEnv) (w vs i : Nat) (aligned : Bool) (va : Word) : LRes :=
  let n := accessBytes w
  let cx := e.cx s
  let lg := e.lg
  let x := vget1 (s.vr e.t) e.cap.lanes w vs i
  if s.interlocked e.t true va n then .stall s
  else match s.access cx .write aligned va n with
    | (s, .error tr) => .fault s tr
    | (s, .ok sp) =>
      if w = 4 ∨ w = 6 then
        let lo := w * slotOf w i
        let part := cutSpans sp (lo / 8) ((lo + w + 7) / 8 - lo / 8)
        let q := s.readSpans cx lg part
        let old := leNat q.2
        let sh := lo % 8
        let new := old - old / 2 ^ sh % 2 ^ w * 2 ^ sh + x * 2 ^ sh
        let r := (q.1.writeSpans cx lg part (bytesOf ((lo + w + 7) / 8 - lo / 8) new)).coverSpans
          (q.1.winCover e.t e.seq) part
        .ok (r.1.modWin e.t e.seq fun y => { y with cover := r.2 }) 0
      else
        let r := (s.writeSpans cx lg sp (bytesOf n x)).coverSpans (s.winCover e.t e.seq) sp
        .ok (r.1.modWin e.t e.seq fun y => { y with cover := r.2 }) 0

/-- VLD in one lane. -/
def laneVld (s : State) (e : LEnv) (k : VCtl) (off : BitVec 5) (xa : XReg) (vd : VReg) : LRes :=
  let w := e.cap.sew
  fillLane s e k.mask w vd fun s i => loadElem s e w vd.toNat i true false (unitAddr e xa off w i)
/-- VLDS in one lane. -/
def laneVlds (s : State) (e : LEnv) (k : VCtl) (xb xa : XReg) (vd : VReg) : LRes :=
  let w := e.cap.sew
  fillLane s e k.mask w vd fun s i => loadElem s e w vd.toNat i true false (strideAddr e xa xb i)
/-- VLDX in one lane. -/
def laneVldx (s : State) (e : LEnv) (k : VCtl) (vb : VReg) (xa : XReg) (vd : VReg) : LRes :=
  let w := e.cap.sew
  fillLane s e k.mask w vd fun s i => loadElem s e w vd.toNat i true false (indexAddr e (s.vr e.t) xa vb w i)
/-- VLDA in one lane: every element naturally aligned. -/
def laneVlda (s : State) (e : LEnv) (k : VCtl) (off : BitVec 5) (xa : XReg) (vd : VReg) : LRes :=
  let w := e.cap.sew
  fillLane s e k.mask w vd fun s i => loadElem s e w vd.toNat i true true (unitAddr e xa off w i)

/-- A store loop. A stall undoes the elements before it. -/
def storeLane (s : State) (e : LEnv) (c : MaskCtl) (vs : VReg) (aligned : Bool) (addr : State → Nat → Word) : LRes :=
  match laneLoop s e c fun s i => storeElem s e e.cap.sew vs.toNat i aligned (addr s i) with
  | .stall _ => .stall s
  | r => r

/-- VST in one lane. -/
def laneVst (s : State) (e : LEnv) (k : VCtl) (off : BitVec 5) (xa : XReg) (vs : VReg) : LRes :=
  storeLane s e k.mask vs false fun _ i => unitAddr e xa off e.cap.sew i
/-- VSTS in one lane. -/
def laneVsts (s : State) (e : LEnv) (k : VCtl) (xb xa : XReg) (vs : VReg) : LRes :=
  storeLane s e k.mask vs false fun _ i => strideAddr e xa xb i
/-- VSTX in one lane. -/
def laneVstx (s : State) (e : LEnv) (k : VCtl) (vb : VReg) (xa : XReg) (vs : VReg) : LRes :=
  storeLane s e k.mask vs false fun s i => indexAddr e (s.vr e.t) xa vb e.cap.sew i
/-- VSTL in one lane: every element naturally aligned. -/
def laneVstl (s : State) (e : LEnv) (k : VCtl) (off : BitVec 5) (xa : XReg) (vs : VReg) : LRes :=
  storeLane s e k.mask vs true fun _ i => unitAddr e xa off e.cap.sew i

/-- The places of the n bytes at a user address for which each page's translation succeeds, whatever its leaf permits (R330). -/
def State.translated (s : State) (cx : ACtx) (a n : Nat) : State × Option (List Span) :=
  let first := 4096 - a % 4096
  match s.translate cx a with
  | (s, .error _) => (s, none)
  | (s, .ok (p, l)) =>
    if n ≤ first then (s, some [⟨s.placeOf p l, n⟩])
    else match s.translate cx (a + first) with
      | (s, .error _) => (s, none)
      | (s, .ok (q, m)) => (s, some [⟨s.placeOf p l, first⟩, ⟨s.placeOf q m, n - first⟩])

/-- One element prefetched: where its translation succeeds and its page is cached ordinary or near-store memory, the L1
fetches its sectors; otherwise it is skipped (R330). -/
def prefetchElem (s : State) (e : LEnv) (va : Word) (n : Nat) : LRes :=
  let a := va.toNat
  let ar := areaOf a
  if ¬ canonical a ∨ (ar ≠ .ordinary ∧ ar ≠ .near) ∨ areaOf (a + n - 1) ≠ ar then .ok s 0
  else match s.translated (e.cx s) a n with
    | (s, none) => .ok s 0
    | (s, some sp) =>
      if sp.all fun p => match p.place with | .phys _ c => c | _ => false then .ok (s.readSpans (e.cx s) e.lg sp).1 0
      else .ok s 0

/-- VPRF at unit stride in one lane. -/
def laneVprf (s : State) (e : LEnv) (k : VCtl) (off : BitVec 5) (xa : XReg) : LRes :=
  laneLoop s e k.mask fun s i => prefetchElem s e (unitAddr e xa off e.cap.sew i) (accessBytes e.cap.sew)
/-- VPRF with a stride in one lane. -/
def laneVprfStrided (s : State) (e : LEnv) (k : VCtl) (xb xa : XReg) : LRes :=
  laneLoop s e k.mask fun s i => prefetchElem s e (strideAddr e xa xb i) (accessBytes e.cap.sew)

/-- One element of VLDO. -/
def elemVldo (s : State) (e : LEnv) (vb : VReg) (xa : XReg) (vd : VReg) (i : Nat) : LRes :=
  loadElem s e e.cap.sew vd.toNat i true false (indexAddr e (s.vr e.t) xa vb e.cap.sew i)
/-- One element of VSTXO. -/
def elemVstxo (s : State) (e : LEnv) (vb : VReg) (xa : XReg) (vs : VReg) (i : Nat) : LRes :=
  storeElem s e e.cap.sew vs.toNat i false (indexAddr e (s.vr e.t) xa vb e.cap.sew i)

/-! ### Tile instructions (R334-R336) -/

/-- The slices N of a tile store: 32 in a full member, 16 in a half member (04 R100). -/
def Member.slices (m : Member) : Nat := if m.full then 32 else 16

/-- The bytes of a slice's grant. -/
def Member.sliceBytes (m : Member) : Nat := m.tilesz * (if m.full then 8192 else 16384)

/-- The tile-window location of byte b of slice i. -/
def Member.tileLoc (m : Member) (i b : Nat) : Nat := b / 64 * 64 * m.slices + 64 * i + b % 64

/-- The member slice of a lane. -/
def sliceOf (e : LEnv) : Nat := 8 * e.lg + e.lane % 8

/-- The first slice byte of position p of a lane, from slice base b0, both exact (00 R14, R334). -/
def tilePos (w : Nat) (b0 : Int) (p : Nat) : Int := if w = 4 ∨ w = 6 then b0 + (3 * (p / (24 / w)) : Nat) else b0 + (p * (w / 8) : Nat)

/-- The window locations of the bytes of position p. -/
def Member.tileBytes (m : Member) (slice w : Nat) (b0 : Int) (p : Nat) : List Nat :=
  (List.range (accessBytes w)).map fun k => m.tileLoc slice ((tilePos w b0 p).toNat + k)

/-- The bytes of position p reach beyond the grant of a slice. -/
def Member.tileBeyond (m : Member) (w : Nat) (b0 : Int) (p : Nat) : Bool :=
  decide (tilePos w b0 p < 0) || decide ((m.sliceBytes : Int) < tilePos w b0 p + accessBytes w)

/-- The trap of a tile access at the location of its first byte; for a byte before the slice, of byte 0 (assumption log 101). -/
def tileTrap (cause : BitVec 8) (locs : List Nat) : Trap :=
  memTrap cause 0 (0x7F0000000000 + locs.headD 0)

/-- Some byte of a tile access must wait for the thread's own engine work. -/
def State.tileInterlocked (s : State) (t : Nat) (isWrite : Bool) (locs : List Nat) : Bool :=
  locs.any fun o => s.interlocked t isWrite (BitVec.ofNat 64 (0x7F0000000000 + o)) 1

/-- The element at tile locations of member m, or its trap: beyond the grant BOUNDS, in a poisoned sector POISON. -/
def State.tileRead (s : State) (m slice w : Nat) (b0 : Int) (p : Nat) : Except Trap Nat :=
  let mb := s.mb m
  let locs := mb.tileBytes slice w b0 p
  if mb.tileBeyond w b0 p then .error (tileTrap 0x0D locs)
  else if locs.any fun o => NSet.mem (o / 64) mb.tilePoison then .error (tileTrap 0x08 locs)
  else .ok (leNat (locs.map fun o => Mem.get mb.tile o) / 2 ^ (w * slotOf w p) % 2 ^ w)

/-- The element x written at position p of a slice of member m; a packed element writes its own bits alone. -/
def State.tileWrite (s : State) (e : LEnv) (m slice w : Nat) (b0 : Int) (p x : Nat) : State × Option Trap :=
  let mb := s.mb m
  let locs := mb.tileBytes slice w b0 p
  if mb.tileBeyond w b0 p then (s, some (tileTrap 0x0D locs))
  else
    let sh := w * slotOf w p
    let old := leNat (locs.map fun o => Mem.get mb.tile o)
    let new := bytesOf locs.length (old - old / 2 ^ sh % 2 ^ w * 2 ^ sh + x % 2 ^ w * 2 ^ sh)
    let s := s.modMb m fun mb => { mb with
      tile := (locs.zip new).foldl (fun t (o, b) => Mem.set t o b) mb.tile }
    let touched := (locs.drop (sh / 8)).take ((sh + w + 7) / 8 - sh / 8)
    let q := s.coverSpans (s.winCover e.t e.seq) (touched.map fun o => ⟨.tile m o, 1⟩)
    (q.1.modWin e.t e.seq fun y => { y with cover := q.2 }, none)

/-- The slice base of a tile instruction: nat(xa) + sint(OFF5), exact. -/
def tileBase (e : LEnv) (xa : XReg) (off : BitVec 5) : Int := (e.cap.rx xa).toNat + off.toInt

/-- TLD in one lane. -/
def laneTld (s : State) (e : LEnv) (k : VCtl) (off : BitVec 5) (xa : XReg) (vd : VReg) : LRes :=
  let w := e.cap.sew
  let b0 := tileBase e xa off
  let m := (s.th e.t).member
  fillLane s e k.mask w vd fun s i =>
    let p := i / e.cap.lanes
    if s.tileInterlocked e.t false ((s.mb m).tileBytes (sliceOf e) w b0 p) then .stall s
    else match s.tileRead m (sliceOf e) w b0 p with
      | .error tr => .fault s tr
      | .ok x => .ok (s.setVr e.t (vput1 (s.vr e.t) e.cap.lanes w vd.toNat i x)) 0

/-- A tile store of value f i at each active element. -/
def tileStore (s : State) (e : LEnv) (k : VCtl) (off : BitVec 5) (xa : XReg) (f : State → Nat → Nat) : LRes :=
  let w := e.cap.sew
  let b0 := tileBase e xa off
  let m := (s.th e.t).member
  match laneLoop s e k.mask fun s i =>
    let p := i / e.cap.lanes
    if s.tileInterlocked e.t true ((s.mb m).tileBytes (sliceOf e) w b0 p) then .stall s
    else match s.tileWrite e m (sliceOf e) w b0 p (f s i) with
      | (s, some tr) => .fault s tr
      | (s, none) => .ok s 0 with
  | .stall _ => .stall s
  | r => r

/-- TST in one lane. -/
def laneTst (s : State) (e : LEnv) (k : VCtl) (off : BitVec 5) (xa : XReg) (vs : VReg) : LRes :=
  tileStore s e k off xa fun s i => vget1 (s.vr e.t) e.cap.lanes e.cap.sew vs.toNat i
/-- TFILL in one lane. -/
def laneTfill (s : State) (e : LEnv) (k : VCtl) (off : BitVec 5) (xa xb : XReg) : LRes :=
  tileStore s e k off xa fun _ _ => (e.cap.rx xb).toNat

/-- The member next to that of thread t in its team (02 R36, 13 R336). -/
def State.nextMember (s : State) (t : Nat) : Nat :=
  let ms := (s.tm (s.th t).team).members
  ms.getD (((s.mbOf t).idx + 1) % max 1 ms.length) (s.th t).member

/-- TROT in one lane. -/
def laneTrot (s : State) (e : LEnv) (k : VCtl) (xb xa : XReg) : LRes :=
  let w := e.cap.sew
  let m := (s.th e.t).member
  let n := s.nextMember e.t
  let b0 : Int := (e.cap.rx xa).toNat
  let b1 : Int := (e.cap.rx xb).toNat
  match laneLoop s e k.mask fun s i =>
    let p := i / e.cap.lanes
    if s.tileInterlocked e.t false ((s.mb m).tileBytes (sliceOf e) w b0 p) ∨
        (n = m ∧ s.tileInterlocked e.t true ((s.mb m).tileBytes (sliceOf e) w b1 p)) then .stall s
    else match s.tileRead m (sliceOf e) w b0 p with
      | .error tr => .fault s tr
      | .ok x => match s.tileWrite e n (sliceOf e) w b1 p x with
        | (s, some tr) => .fault s tr
        | (s, none) => .ok s 0 with
  | .stall _ => .stall s
  | r => r

/-! ### Remote and fabric-spanning accesses (R331-R333) -/

/-- Where an element of a remote instruction goes: module, forme, element; or the trap of the element. -/
abbrev Target := Except Trap (Nat × Nat × Nat)

/-- The target named by a forme reference in xa and an element index in vb. -/
def formeTarget (e : LEnv) (v : NMap) (xa : XReg) (vb : VReg) (w i : Nat) : Target :=
  let a := e.cap.rx xa
  .ok (getField a 54 10, getField a 40 14, (getField a 0 40 + vget1 v e.cap.lanes w vb.toNat i) % 2 ^ 40)

/-- The distribution entry of a die that a reference names, when it is valid and of the region (07 R185, 13 R331). -/
def State.distOf (s : State) (t : Nat) (a : Word) : Option DistEntry :=
  if getField a 10 54 ≠ 0 then none
  else match Tbl.find (getField a 0 10) (s.die (s.dieOf t)).dist with
    | some d => if d.rid = s.ridOf t then some d else none
    | none => none

/-- The target of flat index f under a distribution entry with the owner words read at issue (07 R185, R186). -/
def distTarget (d : DistEntry) (owners : List Nat) (f i : Nat) : Target :=
  let r := f / d.rowlen
  if d.rows ≤ r then .error { cause := 0x0D, sub := 0, elem := i, addr := 0 }
  else
    let b := r / 2 ^ d.blog
    let w := owners.getD (b % d.nown) 0
    .ok (w / 2 ^ 22, w % 2 ^ 14, (b / d.nown * 2 ^ d.blog + r % 2 ^ d.blog) * d.rowlen + f % d.rowlen)

/-- One remote element of a lane sent: the trap that keeps it from being sent, the answer of this module's own forme, or a
request that is outstanding from now on (R331-R333). -/
def sendElem (s : State) (e : LEnv) (vd : Option VReg) (n i : Nat) (tg : Target) (kind : State → Nat → Nat → State × RemoteKind) :
    State :=
  let out := fun (md fo el : Nat) (kd : RemoteKind) (vd : Option VReg) =>
    ({ tagno := 0, thr := e.t, dst := md, forme := fo, elem := el, width := n, kind := kd, vd := vd.map (·.toNat), idx := i,
       lane := e.lane, ew := 8 * n, seq := e.seq, retries := 0, answer := none, eseq := none } : RemoteOut)
  match tg with
  | .error tr => s.modTh e.t fun th => th.takeAnswer (out 0 0 0 .load none) (.trap { tr with elem := i })
  | .ok (md, fo, el) =>
    let q := kind s md fo
    let r := out md fo el q.2 vd
    match q.1.sendRemote r with
    | (s, some a) => s.modTh e.t fun th => th.takeAnswer r a
    | (s, none) => match vd with
      | some d => s.modTh e.t fun th => { th with invalid := NSet.add (d.toNat * 2 ^ 32 + i) th.invalid }
      | none => s

/-- Remote elements of one lane: sent once, in ascending order, from the element a re-execution starts at. The lane goes on; it
commits the convoy when every answer is in (R332, R333). `tg` gives the targets, `kind` the operations. -/
def remoteLane (s : State) (e : LEnv) (c : MaskCtl) (at_ : Nat) (vd : Option VReg) (n : Nat) (tg : State → Nat → Target)
    (kind : State → Nat → Nat → Nat → State × RemoteKind) : LRes :=
  let sent := match (s.th e.t).window.find? (·.seq == e.seq) with | some w => NMap.get w.sent e.lane | none => 0
  if sent ≠ 0 then .ok s 0 else
    let src := s.vr e.t
    let s := match vd with | some d => s.lanePolicy e c (8 * n) d | none => s
    let s := (laneElems e.cap.lanes e.cap.vl e.lane).foldl (fun s i =>
      if isActive src e.cap.lanes c i ∧ e.start ≤ i then sendElem s e vd n i (tg s i) (kind · i) else s) s
    .ok (s.modWin e.t e.seq fun w => { w with sent := NMap.set w.sent e.lane (at_ + 1) }) 0

/-- VRLD in one lane. -/
def laneVrld (s : State) (e : LEnv) (at_ : Nat) (k : VCtl) (vb : VReg) (xa : XReg) (vd : VReg) : LRes :=
  remoteLane s e k.mask at_ (some vd) (e.cap.sew / 8)
    (fun s i => formeTarget e (s.vr e.t) xa vb e.cap.sew i) fun s _ _ _ => (s, .load)
/-- VRST in one lane. -/
def laneVrst (s : State) (e : LEnv) (at_ : Nat) (k : VCtl) (vb : VReg) (xa : XReg) (vs : VReg) : LRes :=
  let w := e.cap.sew
  remoteLane s e k.mask at_ none (w / 8) (fun s i => formeTarget e (s.vr e.t) xa vb w i)
    fun s i _ _ => (s, .store (BitVec.ofNat 64 (vget1 (s.vr e.t) e.cap.lanes w vs.toNat i)))
/-- One element of VRST with ORD: it takes the next ORDSEQ of the strand to its forme (17 R424). -/
def elemVrstOrd (s : State) (e : LEnv) (vb : VReg) (xa : XReg) (vs : VReg) (i : Nat) : LRes :=
  let w := e.cap.sew
  let tg := formeTarget e (s.vr e.t) xa vb w i
  .ok (if i < e.start then s else sendElem s e none (w / 8) i tg fun s md fo =>
    let q := s.takeOrd e.t md fo
    (q.1, .ordStore (BitVec.ofNat 64 (vget1 (s.vr e.t) e.cap.lanes w vs.toNat i)) q.2 e.t)) 0
/-- The target of element i of VFGATH and VFSCAT. -/
def spanTarget (e : LEnv) (vb : VReg) (s : State) (i : Nat) : Target :=
  match e.dist with
  | none => .error { cause := 0x0D, sub := 0, elem := i, addr := 0 }
  | some (d, ws) => distTarget d ws (vget1 (s.vr e.t) e.cap.lanes e.cap.sew vb.toNat i) i
/-- VFGATH in one lane. -/
def laneVfgath (s : State) (e : LEnv) (at_ : Nat) (k : VCtl) (vb : VReg) (vd : VReg) : LRes :=
  remoteLane s e k.mask at_ (some vd) (e.cap.sew / 8) (spanTarget e vb) fun s _ _ _ => (s, .load)
/-- VFSCAT in one lane. -/
def laneVfscat (s : State) (e : LEnv) (at_ : Nat) (k : VCtl) (vb : VReg) (vs : VReg) : LRes :=
  remoteLane s e k.mask at_ none (e.cap.sew / 8) (spanTarget e vb)
    fun s i _ _ => (s, .store (BitVec.ofNat 64 (vget1 (s.vr e.t) e.cap.lanes e.cap.sew vs.toNat i)))

/-! ### Vector atomics (14 R362) -/

/-- The local atomics of one lane, from the element a re-execution starts at. Every element's interlocks are checked
before any is performed, so a wait repeats none. -/
def amoLane (s : State) (e : LEnv) (c : MaskCtl) (vd : VReg) (addr : State → Nat → Word) (f : State → Nat → Nat → Nat) :
    LRes :=
  let w := e.cap.sew
  let src := s.vr e.t
  if (laneElems e.cap.lanes e.cap.vl e.lane).any fun i =>
      isActive src e.cap.lanes c i && decide (e.start ≤ i) && s.interlocked e.t true (addr s i) (w / 8) then .stall s
  else fillLane s e c w vd fun s i =>
    if i < e.start then .ok s 0
    else match s.atomicElem (e.cx s) (addr s i) (w / 8) (fun old => some (f s i old)) with
      | (s, .error tr) => .fault s tr
      | (s, .ok old) => .ok (s.setVr e.t (vput1 (s.vr e.t) e.cap.lanes w vd.toNat i old)) 0

/-- VAMO in one lane. -/
def laneVamo (s : State) (e : LEnv) (at_ : Nat) (k : ECtl) (op : AmoOp) (t : ITy) (q : AmoCtl) (vd : VReg) (xa : XReg)
    (vb vq : VReg) : LRes :=
  let w := e.cap.sew
  if q.remote then
    remoteLane s e k.mask at_ (some vd) (w / 8)
      (fun s i =>
        let a := e.cap.rx xa
        let el := getField a 0 40 + vget1 (s.vr e.t) e.cap.lanes w vb.toNat i
        if 2 ^ 40 ≤ el then .error (remoteTrap 0x0E 0x01 (getField a 54 10) (getField a 40 14) (2 ^ 40 - 1) i)
        else .ok (getField a 54 10, getField a 40 14, el))
      fun s i _ _ => (s, .amo op (t == .i) (BitVec.ofNat 64 (vget1 (s.vr e.t) e.cap.lanes w vq.toNat i)))
  else amoLane s e k.mask vd (fun s i => indexAddr e (s.vr e.t) xa vb w i)
    fun s i old => amoNew op (t == .i) w old (vget1 (s.vr e.t) e.cap.lanes w vq.toNat i)

/-- VAMOCAS in one lane. -/
def laneVamocas (s : State) (e : LEnv) (k : ECtl) (vd vb va vq : VReg) : LRes :=
  amoLane s e k.mask vd (fun s i => BitVec.ofNat 64 (vget1 (s.vr e.t) e.cap.lanes 64 vb.toNat i))
    fun s i old => if old = vget1 (s.vr e.t) e.cap.lanes 64 va.toNat i then
      vget1 (s.vr e.t) e.cap.lanes 64 vq.toNat i else old

end Sys2Proof.Machine
end

