-- ==== Sys2Proof/Machine/LaneArith.lean ====
section
/-! DEFINITION. What one lane does in each lane-local vector instruction that makes no memory access (12 R307-R325,
13 R340): one definition per instruction, from the lane's registers to its registers, flags or fault. -/

namespace Sys2Proof.Machine

/-! ### Shared loops -/

/-- An integer operation on two elements; x is wrapped, or saturated with `sat` (12 R307). -/
def intLane (e : LEnv) (v : NMap) (k : VCtl) (t : ITy) (sat : Bool) (vd va vb : VReg) (g : Int → Int → Int) : LaneOut :=
  let w := e.cap.sew
  let sg := t == .i
  mapLane e k.mask v vd.toNat w fun i =>
    let x := g (elInt sg w (vget1 v e.cap.lanes w va.toNat i)) (elInt sg w (vget1 v e.cap.lanes w vb.toNat i))
    FRes.plain (wrapTo w (if sat then clampTo sg w x else x))

/-- A bitwise operation on two elements, given the width (12 R308). -/
def bitLane (e : LEnv) (v : NMap) (k : VCtl) (vd va vb : VReg) (g : Nat → Nat → Nat → Nat) : LaneOut :=
  let w := e.cap.sew
  mapLane e k.mask v vd.toNat w fun i =>
    FRes.plain (g w (vget1 v e.cap.lanes w va.toNat i) (vget1 v e.cap.lanes w vb.toNat i))

/-- A floating-point operation on two elements (12 R310). -/
def fltLane (e : LEnv) (v : NMap) (k : VCtl) (f : FTy) (vd va vb : VReg)
    (g : Fmt → RMode → Bool → FVal → FVal → FRes) : LaneOut :=
  let F := fmtOf f
  let w := F.width
  let ftz := ftzOf e.cap.rmode
  mapLane e k.mask v vd.toNat w fun i =>
    g F (k.rmo.mode e.cap.rmode) ftz (fload F ftz (vget1 v e.cap.lanes w va.toNat i))
      (fload F ftz (vget1 v e.cap.lanes w vb.toNat i))

/-- A floating-point operation on the bits of one element (12 R312). -/
def fltLane1 (e : LEnv) (v : NMap) (k : VCtl) (f : FTy) (vd va : VReg)
    (g : Fmt → RMode → Bool → Nat → FRes) : LaneOut :=
  let F := fmtOf f
  mapLane e k.mask v vd.toNat F.width fun i =>
    g F (k.rmo.mode e.cap.rmode) (ftzOf e.cap.rmode) (vget1 v e.cap.lanes F.width va.toNat i)

/-- The register that holds the addend of a multiply-add: v(VC), or vd when the base word stands alone (12 R309). -/
def addendReg (k : VCtl) (vd : VReg) : Nat := (k.vc.getD vd).toNat

/-- A multiply-add of three elements (12 R311). -/
def fmaLane (e : LEnv) (v : NMap) (k : VCtl) (f : FTy) (vd va vb : VReg)
    (g : Fmt → RMode → Bool → FVal → FVal → FVal → FRes) : LaneOut :=
  let F := fmtOf f
  let w := F.width
  let ftz := ftzOf e.cap.rmode
  mapLane e k.mask v vd.toNat w fun i =>
    g F (k.rmo.mode e.cap.rmode) ftz (fload F ftz (vget1 v e.cap.lanes w va.toNat i))
      (fload F ftz (vget1 v e.cap.lanes w vb.toNat i)) (fload F ftz (vget1 v e.cap.lanes w (addendReg k vd) i))

/-- A comparison into a mask register: capacity MVL bits, tail bits unchanged (12 R313). -/
def cmpLane (e : LEnv) (v : NMap) (k : VCtl) (vd : VReg) (f : Nat → FRes) : LaneOut :=
  mapLane e { k.mask with tp := false, mp := false } v vd.toNat 1 f

/-- A logic operation on mask bits (12 R314). -/
def maskLane (e : LEnv) (v : NMap) (k : VCtl) (vd va vb : VReg) (g : Bool → Bool → Bool) : LaneOut :=
  let L := e.cap.lanes
  let o := (laneElems L e.cap.vl e.lane).foldl (fun v' i =>
    vput1 v' L 1 vd.toNat i (bitOf (g (vget1 v L 1 va.toNat i == 1) (vget1 v L 1 vb.toNat i == 1)))) v
  { v := if k.tp ∧ e.cap.vl ≠ 0 then fillTail o L 1 vd.toNat e.cap.vl e.cap.mvl e.lane else o, flags := 0, fault := none }

/-! ### Integer arithmetic (R307-R309) -/

/-- VADD in one lane. -/
def laneVadd (e : LEnv) (v : NMap) (k : VCtl) (t : ITy) (vd va vb : VReg) : LaneOut :=
  intLane e v k t k.sat vd va vb fun a b => a + b
/-- VSUB in one lane. -/
def laneVsub (e : LEnv) (v : NMap) (k : VCtl) (t : ITy) (vd va vb : VReg) : LaneOut :=
  intLane e v k t k.sat vd va vb fun a b => a - b
/-- VMUL in one lane. -/
def laneVmul (e : LEnv) (v : NMap) (k : VCtl) (t : ITy) (vd va vb : VReg) : LaneOut :=
  intLane e v k t k.sat vd va vb fun a b => a * b
/-- VMULH in one lane: floor(a × b ÷ 2^w). -/
def laneVmulh (e : LEnv) (v : NMap) (k : VCtl) (t : ITy) (vd va vb : VReg) : LaneOut :=
  intLane e v k t false vd va vb fun a b => a * b / (2 ^ e.cap.sew : Nat)
/-- VMADD in one lane: a × b + c. -/
def laneVmadd (e : LEnv) (v : NMap) (k : VCtl) (t : ITy) (vd va vb : VReg) : LaneOut :=
  let w := e.cap.sew
  let sg := t == .i
  mapLane e k.mask v vd.toNat w fun i =>
    let el := fun r => elInt sg w (vget1 v e.cap.lanes w r i)
    let x := el va.toNat * el vb.toNat + el (addendReg k vd)
    FRes.plain (wrapTo w (if k.sat then clampTo sg w x else x))
/-- VMIN in one lane. -/
def laneVmin (e : LEnv) (v : NMap) (k : VCtl) (t : ITy) (vd va vb : VReg) : LaneOut :=
  intLane e v k t false vd va vb fun a b => if a ≤ b then a else b
/-- VMAX in one lane. -/
def laneVmax (e : LEnv) (v : NMap) (k : VCtl) (t : ITy) (vd va vb : VReg) : LaneOut :=
  intLane e v k t false vd va vb fun a b => if a ≤ b then b else a
/-- VSADD in one lane. -/
def laneVsadd (e : LEnv) (v : NMap) (k : VCtl) (t : ITy) (vd va vb : VReg) : LaneOut :=
  intLane e v k t true vd va vb fun a b => a + b
/-- VSSUB in one lane. -/
def laneVssub (e : LEnv) (v : NMap) (k : VCtl) (t : ITy) (vd va vb : VReg) : LaneOut :=
  intLane e v k t true vd va vb fun a b => a - b
/-- VAVG in one lane: floor((a + b + 1) ÷ 2). -/
def laneVavg (e : LEnv) (v : NMap) (k : VCtl) (t : ITy) (vd va vb : VReg) : LaneOut :=
  intLane e v k t false vd va vb fun a b => (a + b + 1) / 2
/-- VABS in one lane. -/
def laneVabs (e : LEnv) (v : NMap) (k : VCtl) (vd va : VReg) : LaneOut :=
  intLane e v k .i false vd va va fun a _ => a.natAbs
/-- VNEG in one lane. -/
def laneVneg (e : LEnv) (v : NMap) (k : VCtl) (t : ITy) (vd va : VReg) : LaneOut :=
  intLane e v k t false vd va va fun a _ => -a
/-- VAND in one lane. -/
def laneVand (e : LEnv) (v : NMap) (k : VCtl) (vd va vb : VReg) : LaneOut := bitLane e v k vd va vb fun _ a b => a &&& b
/-- VOR in one lane. -/
def laneVor (e : LEnv) (v : NMap) (k : VCtl) (vd va vb : VReg) : LaneOut := bitLane e v k vd va vb fun _ a b => a ||| b
/-- VXOR in one lane. -/
def laneVxor (e : LEnv) (v : NMap) (k : VCtl) (vd va vb : VReg) : LaneOut := bitLane e v k vd va vb fun _ a b => a ^^^ b
/-- VSHL in one lane: with `sat`, sat(sint(a) × 2^s). A count above w acts as w + 1 does. -/
def laneVshl (e : LEnv) (v : NMap) (k : VCtl) (vd va vb : VReg) : LaneOut :=
  bitLane e v k vd va vb fun w a s =>
    let n := if w < s then w + 1 else s
    if k.sat then wrapTo w (clampTo true w (sintOf w a * (2 ^ n : Nat))) else a * 2 ^ n % 2 ^ w
/-- VSHA in one lane. -/
def laneVsha (e : LEnv) (v : NMap) (k : VCtl) (vd va vb : VReg) : LaneOut :=
  bitLane e v k vd va vb fun w a s => wrapTo w (sintOf w a / (2 ^ (if w < s then w else s) : Nat))
/-- VSHR in one lane. -/
def laneVshr (e : LEnv) (v : NMap) (k : VCtl) (vd va vb : VReg) : LaneOut :=
  bitLane e v k vd va vb fun w a s => a / 2 ^ (if w < s then w else s)

/-! ### Floating point (R310-R312) -/

/-- VFADD in one lane. -/
def laneVfadd (e : LEnv) (v : NMap) (k : VCtl) (f : FTy) (vd va vb : VReg) : LaneOut := fltLane e v k f vd va vb addVal
/-- VFSUB in one lane. -/
def laneVfsub (e : LEnv) (v : NMap) (k : VCtl) (f : FTy) (vd va vb : VReg) : LaneOut :=
  fltLane e v k f vd va vb fun F m z a b => addVal F m z a b.flip
/-- VFMUL in one lane. -/
def laneVfmul (e : LEnv) (v : NMap) (k : VCtl) (f : FTy) (vd va vb : VReg) : LaneOut := fltLane e v k f vd va vb mulVal
/-- VFDIV in one lane. -/
def laneVfdiv (e : LEnv) (v : NMap) (k : VCtl) (f : FTy) (vd va vb : VReg) : LaneOut := fltLane e v k f vd va vb divVal
/-- VFFMA in one lane: a × b + c. -/
def laneVffma (e : LEnv) (v : NMap) (k : VCtl) (f : FTy) (vd va vb : VReg) : LaneOut := fmaLane e v k f vd va vb fmaVal
/-- VFFMS in one lane: a × b − c. -/
def laneVffms (e : LEnv) (v : NMap) (k : VCtl) (f : FTy) (vd va vb : VReg) : LaneOut :=
  fmaLane e v k f vd va vb fun F m z a b c => fmaVal F m z a b c.flip
/-- VFNMA in one lane: −(a × b) + c. -/
def laneVfnma (e : LEnv) (v : NMap) (k : VCtl) (f : FTy) (vd va vb : VReg) : LaneOut :=
  fmaLane e v k f vd va vb fun F m z a b c => fmaVal F m z a.flip b c
/-- VFMIN in one lane. -/
def laneVfmin (e : LEnv) (v : NMap) (k : VCtl) (f : FTy) (vd va vb : VReg) : LaneOut :=
  let F := fmtOf f
  mapLane e k.mask v vd.toNat F.width fun i => minmax F false (ftzOf e.cap.rmode)
    (vget1 v e.cap.lanes F.width va.toNat i) (vget1 v e.cap.lanes F.width vb.toNat i)
/-- VFMAX in one lane. -/
def laneVfmax (e : LEnv) (v : NMap) (k : VCtl) (f : FTy) (vd va vb : VReg) : LaneOut :=
  let F := fmtOf f
  mapLane e k.mask v vd.toNat F.width fun i => minmax F true (ftzOf e.cap.rmode)
    (vget1 v e.cap.lanes F.width va.toNat i) (vget1 v e.cap.lanes F.width vb.toNat i)
/-- VFSQRT in one lane. -/
def laneVfsqrt (e : LEnv) (v : NMap) (k : VCtl) (f : FTy) (vd va : VReg) : LaneOut :=
  fltLane1 e v k f vd va fun F m z x => sqrtVal F m z (fload F z x)
/-- VFABS in one lane: the sign cleared. -/
def laneVfabs (e : LEnv) (v : NMap) (k : VCtl) (f : FTy) (vd va : VReg) : LaneOut :=
  fltLane1 e v k f vd va fun F _ _ x => FRes.plain (x % F.sign)
/-- VFNEG in one lane: the sign inverted. -/
def laneVfneg (e : LEnv) (v : NMap) (k : VCtl) (f : FTy) (vd va : VReg) : LaneOut :=
  fltLane1 e v k f vd va fun F _ _ x => FRes.plain ((x + F.sign) % (2 * F.sign))
/-- VFCLASS in one lane. -/
def laneVfclass (e : LEnv) (v : NMap) (k : VCtl) (f : FTy) (vd va : VReg) : LaneOut :=
  fltLane1 e v k f vd va fun F _ _ x => FRes.plain (fclassOf F x)
/-- VFRCP in one lane. -/
def laneVfrcp (e : LEnv) (v : NMap) (k : VCtl) (f : FTy) (vd va : VReg) : LaneOut :=
  fltLane1 e v k f vd va fun F m z x => rcpVal F m z (fload F z x)
/-- VFRSQ in one lane. -/
def laneVfrsq (e : LEnv) (v : NMap) (k : VCtl) (f : FTy) (vd va : VReg) : LaneOut :=
  fltLane1 e v k f vd va fun F m z x => rsqVal F m z (fload F z x)
/-- VFEXP2 in one lane (09 R247, R248). -/
def laneVfexp2 (e : LEnv) (v : NMap) (k : VCtl) (f : FTy) (vd va : VReg) : LaneOut :=
  fltLane1 e v k f vd va fun F m z x => if f = .f32 then exp2F32 x else exp2F16 F m z (fload F z x)
/-- VFLOG2 in one lane (09 R247, R248). -/
def laneVflog2 (e : LEnv) (v : NMap) (k : VCtl) (f : FTy) (vd va : VReg) : LaneOut :=
  fltLane1 e v k f vd va fun F m z x => if f = .f32 then log2F32 x else log2F16 F m z (fload F z x)
/-- VFSINPI in one lane (09 R247, R249). -/
def laneVfsinpi (e : LEnv) (v : NMap) (k : VCtl) (f : FTy) (vd va : VReg) : LaneOut :=
  fltLane1 e v k f vd va fun F m z x => if f = .f32 then sincosF32 false x else sincosF16 F false m z (fload F z x)
/-- VFCOSPI in one lane (09 R247, R249). -/
def laneVfcospi (e : LEnv) (v : NMap) (k : VCtl) (f : FTy) (vd va : VReg) : LaneOut :=
  fltLane1 e v k f vd va fun F m z x => if f = .f32 then sincosF32 true x else sincosF16 F true m z (fload F z x)

/-! ### Comparisons, masks and select (R313, R314, R316) -/

/-- The integer comparisons of VCMP. -/
def icmp (c : ICond) (a b : Int) : Bool :=
  match c with | .eq => a == b | .ne => a != b | .lt => decide (a < b) | .ge => decide (b ≤ a)

/-- VCMP in one lane. -/
def laneVcmp (e : LEnv) (v : NMap) (k : VCtl) (c : ICond) (t : ITy) (vd va vb : VReg) : LaneOut :=
  let w := e.cap.sew
  cmpLane e v k vd fun i => FRes.plain (bitOf (icmp c (elInt (t == .i) w (vget1 v e.cap.lanes w va.toNat i))
    (elInt (t == .i) w (vget1 v e.cap.lanes w vb.toNat i))))
/-- VFCMP in one lane. -/
def laneVfcmp (e : LEnv) (v : NMap) (k : VCtl) (c : FCond) (f : FTy) (vd va vb : VReg) : LaneOut :=
  let F := fmtOf f
  let z := ftzOf e.cap.rmode
  cmpLane e v k vd fun i =>
    let r := fcmpVal c (fload F z (vget1 v e.cap.lanes F.width va.toNat i))
      (fload F z (vget1 v e.cap.lanes F.width vb.toNat i))
    ⟨bitOf r.1, r.2⟩
/-- MAND in one lane. -/
def laneMand (e : LEnv) (v : NMap) (k : VCtl) (vd va vb : VReg) : LaneOut := maskLane e v k vd va vb fun a b => a && b
/-- MOR in one lane. -/
def laneMor (e : LEnv) (v : NMap) (k : VCtl) (vd va vb : VReg) : LaneOut := maskLane e v k vd va vb fun a b => a || b
/-- MXOR in one lane. -/
def laneMxor (e : LEnv) (v : NMap) (k : VCtl) (vd va vb : VReg) : LaneOut := maskLane e v k vd va vb fun a b => a != b
/-- MANDN in one lane. -/
def laneMandn (e : LEnv) (v : NMap) (k : VCtl) (vd va vb : VReg) : LaneOut := maskLane e v k vd va vb fun a b => a && !b
/-- VMERGE in one lane: va where active, vb or zero elsewhere. -/
def laneVmerge (e : LEnv) (v : NMap) (k : VCtl) (_t : ElTy) (vd va vb : VReg) : LaneOut :=
  let w := e.cap.sew
  let L := e.cap.lanes
  let c := k.mask
  mapLane e { c with m := false } v vd.toNat w fun i =>
    FRes.plain (if isActive v L c i then vget1 v L w va.toNat i
      else if c.mz then 0 else vget1 v L w vb.toNat i)

/-! ### Conversions (R317-R323) -/

/-- The width of an element type, an integer having width w. -/
def elWidth (w : Nat) : ElTy → Nat
  | .f f => (fmtOf f).width
  | _ => w

/-- The source and destination widths of VCVT, VWIDEN and VNARROW under VSEW = w (12 R317). -/
def cvtWidths (w : Nat) (dt st : ElTy) : Nat × Nat := (elWidth w st, elWidth w dt)
/-- Widths of VWIDEN. -/
def widenWidths (w : Nat) (dt st : ElTy) : Nat × Nat := (elWidth (w / 2) st, elWidth w dt)
/-- Widths of VNARROW. -/
def narrowWidths (w : Nat) (dt st : ElTy) : Nat × Nat := (elWidth w st, elWidth (w / 2) dt)

/-- One element converted (12 R318-R320). -/
def convElem (dt st : ElTy) (dw sw : Nat) (m : RMode) (ftz sat : Bool) (x : Nat) : FRes :=
  match st, dt with
  | .f a, .f b => (cvtFloat (fmtOf b) m ftz (fload (fmtOf a) ftz x)).sat (fmtOf b) sat
  | .f a, d => toInt (d == .i) dw m (fload (fmtOf a) ftz x)
  | s, .f b => (ofInt (fmtOf b) m ftz (elInt (s == .i) sw x)).sat (fmtOf b) sat
  | s, d => FRes.plain (wrapTo dw (if sat then clampTo (d == .i) dw (elInt (s == .i) sw x) else elInt (s == .i) sw x))

/-- The conversion loop. -/
def convLane (e : LEnv) (v : NMap) (k : VCtl) (dt st : ElTy) (ws : Nat × Nat) (vd va : VReg) : LaneOut :=
  mapLane e k.mask v vd.toNat ws.2 fun i =>
    convElem dt st ws.2 ws.1 (k.rmo.mode e.cap.rmode) (ftzOf e.cap.rmode) k.sat (vget1 v e.cap.lanes ws.1 va.toNat i)

/-- VCVT in one lane, when its mode is not error feedback. -/
def laneVcvt (e : LEnv) (v : NMap) (k : VCtl) (dt st : ElTy) (vd va : VReg) : LaneOut :=
  convLane e v k dt st (cvtWidths e.cap.sew dt st) vd va
/-- VWIDEN in one lane: exact. -/
def laneVwiden (e : LEnv) (v : NMap) (k : VCtl) (dt st : ElTy) (vd va : VReg) : LaneOut :=
  convLane e v k dt st (widenWidths e.cap.sew dt st) vd va
/-- VNARROW in one lane, when its mode is not error feedback. -/
def laneVnarrow (e : LEnv) (v : NMap) (k : VCtl) (dt st : ElTy) (vd va : VReg) : LaneOut :=
  convLane e v k dt st (narrowWidths e.cap.sew dt st) vd va

/-- The elements of a block of L. -/
def blkLen : BlkLen → Nat
  | .l32 => 32 | .l64 => 64 | .l128 => 128

/-- q[i] of 09 R240 at exponent E: x × 2^(127 − E) rounded to an integer, and whether that was inexact. -/
def packQ (m : RMode) (x : FVal) (E : Nat) : Int × Bool := roundInt m ⟨x.dy.n, x.dy.e + 127 - E⟩

/-- The exponent of a block of finite values: the smallest for which every q fits in mb bits; none when none does
(09 R240). -/
def packExp (m : RMode) (mb : Nat) (xs : List FVal) : Option Nat :=
  (List.range 255).find? fun E => xs.all fun x => clampTo true mb (packQ m x E).1 == (packQ m x E).1

/-- One block packed: its exponent, its mantissas and its flags (09 R240). -/
def packBlock (m : RMode) (mb : Nat) (xs : List FVal) : Nat × List Int × Flags :=
  if xs.any fun x => x.isNan || x.isInf then (255, xs.map fun _ => 0, flNV)
  else match packExp m mb xs with
    | some E =>
      let qs := xs.map fun x => packQ m x E
      let nx := qs.any (·.2)
      (E, qs.map (·.1), (if nx then flNX else 0) ||| (if E = 0 ∧ nx then flUF else 0))
    | none => (254, xs.map fun x => clampTo true mb (packQ m x 254).1, flOF ||| flNX)

/-- The element indices of block j of a lane (12 R322). -/
def blockElems (L len lane j : Nat) : List Nat := (List.range len).map fun t => lane + (j * len + t) * L

/-- VPACK in one lane, when its mode is not error feedback. A block that raises an enabled flag traps FPX at its lowest
element (12 R322). -/
def laneVpack (e : LEnv) (v : NMap) (k : VCtl) (mb : BitVec 3) (l : BlkLen) (vd va : VReg) : LaneOut :=
  let L := e.cap.lanes
  let len := blkLen l
  let w := e.cap.sew
  let ve := (k.vc.getD 0).toNat
  let f32 := fmtOf .f32
  let o := (List.range (e.cap.vl / (L * len))).foldl (fun (o : LaneOut) j =>
    match o.fault with
    | some _ => o
    | none =>
      let is := blockElems L len e.lane j
      let b := packBlock (k.rmo.mode e.cap.rmode) (mb.toNat + 2) (is.map fun i => fdecode f32 (vget1 v L 32 va.toNat i))
      if fpx e.cap.ftrapen b.2.2 then { o with fault := some (e.lane + j * len * L) }
      else
        let v1 := (is.zip b.2.1).foldl (fun v' (i, q) => vput1 v' L w vd.toNat i (wrapTo w q)) o.v
        { v := vput1 v1 L w ve (e.lane + j * L) b.1, flags := o.flags ||| b.2.2, fault := none })
    { v, flags := 0, fault := none }
  match o.fault with
  | some _ => o
  | none =>
    let v1 := tailPolicy12 e.cap k.mask o.v w vd.toNat e.cap.vl e.lane
    { o with v := tailPolicy12 e.cap k.mask v1 w ve (e.cap.vl / len) e.lane }

/-- VUNPACK in one lane: f32(M × 2^(E − 127)), the canonical NaN for E = 255 (12 R323). -/
def laneVunpack (e : LEnv) (v : NMap) (k : VCtl) (mb : BitVec 3) (l : BlkLen) (vd va : VReg) : LaneOut :=
  let L := e.cap.lanes
  let w := e.cap.sew
  let f32 := fmtOf .f32
  mapLane e k.mask v vd.toNat 32 fun i =>
    let E := vget1 v L w (k.vc.getD 0).toNat (e.lane + i / L / blkLen l * L) % 256
    let M := sintOf (mb.toNat + 2) (vget1 v L w va.toNat i)
    FRes.plain (if E = 255 then f32.nan else (roundDy f32 .rne false ⟨M, (E : Int) - 127⟩ false).bits)

/-- VSCALE in one lane: a × 2^sint(b), rounded once (12 R324). A scale beyond ±2^14 acts as ±2^14 does. -/
def laneVscale (e : LEnv) (v : NMap) (k : VCtl) (f : FTy) (vd va vb : VReg) : LaneOut :=
  let F := fmtOf f
  let w := F.width
  let z := ftzOf e.cap.rmode
  mapLane e k.mask v vd.toNat w fun i =>
    let n := clampTo true 15 (sintOf w (vget1 v e.cap.lanes w vb.toNat i))
    let r := match fload F z (vget1 v e.cap.lanes w va.toNat i) with
      | .fin s m x => roundFin F (k.rmo.mode e.cap.rmode) z s m (x + n) false
      | a => roundVal F (k.rmo.mode e.cap.rmode) z a
    r.sat F k.sat

/-- VSCACC in one lane: a + P × 2^(K − 254), rounded once (12 R325). -/
def laneVscacc (e : LEnv) (v : NMap) (k : VCtl) (f : FTy) (vd va vb : VReg) : LaneOut :=
  let F := fmtOf f
  let w := F.width
  let pb := w - 9
  mapLane e k.mask v vd.toNat w fun i =>
    let word := vget1 v e.cap.lanes w vb.toNat i
    let K := word / 2 ^ pb
    if 509 ≤ K then invalidRes F
    else
      let P := sintOf pb word
      let m := k.rmo.mode e.cap.rmode
      let a := fdecode F (vget1 v e.cap.lanes w va.toNat i)
      addVal F m false a (if P = 0 then .zero false else .fin (decide (P < 0)) P.natAbs ((K : Int) - 254))

/-! ### Lane-local moves (13 R340) -/

/-- VBCAST in one lane. -/
def laneVbcast (e : LEnv) (v : NMap) (k : VCtl) (vd : VReg) (xb : XReg) : LaneOut :=
  fillBody e k.mask v vd.toNat e.cap.sew fun _ => FRes.plain ((e.cap.rx xb).toNat % 2 ^ e.cap.sew)
/-- VINS in one lane. -/
def laneVins (e : LEnv) (v : NMap) (k : VCtl) (vd : VReg) (xa xb : XReg) : LaneOut :=
  let s := (e.cap.rx xb).toNat
  { v := if s < e.cap.vl ∧ s % e.cap.lanes = e.lane ∧ isActive v e.cap.lanes k.mask s then
      vput1 v e.cap.lanes e.cap.sew vd.toNat s (e.cap.rx xa).toNat else v, flags := 0, fault := none }
/-- VIDX in one lane. -/
def laneVidx (e : LEnv) (v : NMap) (k : VCtl) (vd : VReg) : LaneOut :=
  fillBody e k.mask v vd.toNat e.cap.sew fun i => FRes.plain (i % 2 ^ e.cap.sew)

end Sys2Proof.Machine
end

