-- ==== Sys2Proof/Machine/Rendezvous.lean ====
section
/-! DEFINITION. What the combining unit delivers for each rendezvous instruction (12 R315, R321, R322, 13 R337-R346, 09
R246): from the held registers and the captured operands to every destination, the flags and VCARRY. -/

namespace Sys2Proof.Machine

/-- A delivery: the vector registers, the scalar destination with its value, the flags, and VCARRY. -/
structure Delivery where
  v : NMap
  x : Option (XReg × Word)
  flags : Flags
  carry : Word

/-- What a delivery starts from: the captured operands, the registers, VCARRY as the strand's previous rendezvous left it, and
the partials the lanes have deposited. -/
structure RdvIn where
  cap : Captured
  v : NMap
  carry : Word
  parts : Tbl SlotPart

/-- A delivery that changes no flag and no carry. -/
def RdvIn.out (r : RdvIn) (v : NMap) (x : Option (XReg × Word)) (flags : Flags) : Delivery :=
  { v, x, flags, carry := r.carry }

/-- The body elements. -/
def RdvIn.body (r : RdvIn) : List Nat := List.range r.cap.vl

/-- Element i, w bits wide, of register a. -/
def RdvIn.el (r : RdvIn) (w : Nat) (a : VReg) (i : Nat) : Nat := vget1 r.v r.cap.lanes w a.toNat i

/-- active(i). -/
def RdvIn.act (r : RdvIn) (c : MaskCtl) (i : Nat) : Bool := isActive r.v r.cap.lanes c i

/-- The active body elements, in ascending order. -/
def RdvIn.active (r : RdvIn) (c : MaskCtl) : List Nat := r.body.filter (r.act c)

/-- The tail of a destination in every lane, from element n. -/
def allTails (cap : Captured) (c : MaskCtl) (v : NMap) (w vd n : Nat) : NMap :=
  (List.range cap.lanes).foldl (fun v j => tailPolicy cap c v w vd n j) v

/-- A destination of w bits: f at active elements, the policy values elsewhere (12 R302). -/
def RdvIn.mapAll (r : RdvIn) (c : MaskCtl) (w : Nat) (vd : VReg) (f : Nat → Nat) : NMap :=
  let L := r.cap.lanes
  let v := r.body.foldl (fun v i =>
    if r.act c i then vput1 v L w vd.toNat i (f i)
    else match c.off w with | some x => vput1 v L w vd.toNat i x | none => v) r.v
  allTails r.cap c v w vd.toNat r.cap.vl

/-- A packed destination: the results at places 0, 1, …, then all ones up to VLEN, then the tail (13 R339). -/
def RdvIn.packed (r : RdvIn) (c : MaskCtl) (w : Nat) (vd : VReg) (xs : List Nat) : NMap :=
  let L := r.cap.lanes
  let v := xs.zipIdx.foldl (fun v (x, j) => vput1 v L w vd.toNat j x) r.v
  let v := (List.range (r.cap.vl - xs.length)).foldl (fun v j => vput1 v L w vd.toNat (xs.length + j) (2 ^ w - 1)) v
  allTails r.cap c v w vd.toNat (max r.cap.vl xs.length)

/-- The partials in lane order; a lane that has deposited none has an empty one. -/
def RdvIn.partList (r : RdvIn) : List SlotPart :=
  (List.range r.cap.lanes).map fun j => (Tbl.find j r.parts).getD { val := none, flags := 0 }

/-- The active body elements of lane j, in ascending order. -/
def RdvIn.laneActive (r : RdvIn) (c : MaskCtl) (j : Nat) : List Nat :=
  (laneElems r.cap.lanes r.cap.vl j).filter (r.act c)

/-! ### Mask to scalar (12 R315) -/

/-- The elements of lane j that count for MPOPC and MFIRST. -/
def RdvIn.counting (r : RdvIn) (k : VCtl) (va : VReg) (j : Nat) : List Nat :=
  (r.laneActive k.mask j).filter fun i => r.el 1 va i == 1

/-- The count lane j deposits for MPOPC. -/
def partMpopc (r : RdvIn) (k : VCtl) (va : VReg) (j : Nat) : SlotPart := { val := some (r.counting k va j).length, flags := 0 }
/-- The lowest counting index lane j deposits for MFIRST. -/
def partMfirst (r : RdvIn) (k : VCtl) (va : VReg) (j : Nat) : SlotPart := { val := (r.counting k va j).head?, flags := 0 }

/-- MPOPC delivers the sum of the counts. -/
def rdvMpopc (r : RdvIn) (xd : XReg) : Delivery :=
  r.out r.v (some (xd, BitVec.ofNat 64 (r.partList.filterMap (·.val)).sum)) 0
/-- MFIRST delivers the least index, or all ones. -/
def rdvMfirst (r : RdvIn) (xd : XReg) : Delivery :=
  r.out r.v (some (xd, match (r.partList.filterMap (·.val)).min? with | some i => BitVec.ofNat 64 i | none => BitVec.allOnes 64)) 0

/-! ### Permutes (13 R340) -/

/-- VPERM. -/
def rdvVperm (r : RdvIn) (k : VCtl) (vd va vb : VReg) : Delivery :=
  let w := r.cap.sew
  r.out (r.mapAll k.mask w vd fun i => if r.el w vb i < r.cap.vl then r.el w va (r.el w vb i) else 0) none 0
/-- VSLUP: elements below the slide are left. -/
def rdvVslup (r : RdvIn) (k : VCtl) (vd va : VReg) (xb : XReg) : Delivery :=
  let w := r.cap.sew
  let s := (r.cap.rx xb).toNat
  r.out (r.mapAll k.mask w vd fun i => if s ≤ i then r.el w va (i - s) else r.el w vd i) none 0
/-- VSLDN. -/
def rdvVsldn (r : RdvIn) (k : VCtl) (vd va : VReg) (xb : XReg) : Delivery :=
  let w := r.cap.sew
  let s := (r.cap.rx xb).toNat
  r.out (r.mapAll k.mask w vd fun i => if i + s < r.cap.vl then r.el w va (i + s) else 0) none 0
/-- VEXTR. -/
def rdvVextr (r : RdvIn) (xd : XReg) (va : VReg) (xb : XReg) : Delivery :=
  let s := (r.cap.rx xb).toNat
  r.out r.v (some (xd, if s < r.cap.vl then BitVec.ofNat 64 (r.el r.cap.sew va s) else 0)) 0

/-! ### Reductions and scans (13 R341-R343) -/

/-- An integer reduction step on w-bit values. -/
def redStep (op : RedOp) (t : ITy) (w a b : Nat) : Nat :=
  match op with
  | .add => (a + b) % 2 ^ w
  | .min => if elInt (t == .i) w a ≤ elInt (t == .i) w b then a else b
  | .max => if elInt (t == .i) w a ≤ elInt (t == .i) w b then b else a
  | .and => a &&& b
  | .or => a ||| b
  | .xor => a ^^^ b

/-- The identity of a reduction. -/
def redId (op : RedOp) (t : ITy) (w : Nat) : Nat :=
  match op, t with
  | .add, _ => 0 | .or, _ => 0 | .xor, _ => 0
  | .and, _ => 2 ^ w - 1
  | .min, .i => 2 ^ (w - 1) - 1 | .min, .n => 2 ^ w - 1
  | .max, .i => 2 ^ (w - 1) | .max, .n => 0

/-- The reduction of its own elements lane j deposits for VRED. -/
def partVred (r : RdvIn) (k : VCtl) (op : RedOp) (t : ITy) (va : VReg) (j : Nat) : SlotPart :=
  let w := r.cap.sew
  { val := some (((r.laneActive k.mask j).map (r.el w va)).foldl (redStep op t w) (redId op t w)), flags := 0 }

/-- VRED delivers the reduction of the partials. -/
def rdvVred (r : RdvIn) (op : RedOp) (t : ITy) (xd : XReg) : Delivery :=
  let w := r.cap.sew
  let x := (r.partList.filterMap (·.val)).foldl (redStep op t w) (redId op t w)
  r.out r.v (some (xd, BitVec.ofInt 64 (elInt (t == .i) w x))) 0

/-- comb() of R342. -/
def fcomb (op : FRedOp) (F : Fmt) (m : RMode) (z : Bool) (a b : Nat) : FRes :=
  match op with
  | .sum => addVal F m z (fload F z a) (fload F z b)
  | .min => minmax F false z a b
  | .max => minmax F true z a b

/-- A partial with the flags of the roundings that formed it. -/
abbrev Part := Option Nat × Flags

/-- comb() of two partials, either of which may be none. -/
def combPart (op : FRedOp) (F : Fmt) (m : RMode) (z : Bool) (a b : Part) : Part :=
  match a.1, b.1 with
  | none, _ => (b.1, a.2 ||| b.2)
  | _, none => (a.1, a.2 ||| b.2)
  | some x, some y => let c := fcomb op F m z x y; (some c.bits, a.2 ||| b.2 ||| c.flags)

/-- The next element of a running comb(): the first is rounded alone. -/
def combNext (op : FRedOp) (F : Fmt) (m : RMode) (z : Bool) (p : Part) (x : Nat) : Part :=
  match p.1 with
  | none => let c := roundVal F m z (fload F z x); (some c.bits, p.2 ||| c.flags)
  | some y => let c := fcomb op F m z y x; (some c.bits, p.2 ||| c.flags)

/-- tree(lo, n) of R342 over the lanes' partials; the first argument bounds the depth. -/
def combTree (op : FRedOp) (F : Fmt) (m : RMode) (z : Bool) : Nat → List Part → Part
  | _, [] => (none, 0)
  | _, [p] => p
  | 0, p :: _ => p
  | d + 1, ps =>
    let h := 2 ^ (topBit (ps.length - 1))
    combPart op F m z (combTree op F m z d (ps.take h)) (combTree op F m z d (ps.drop h))

/-- The partial lane j deposits for VFRED, with the flags of its roundings. -/
def partVfred (r : RdvIn) (k : VCtl) (op : FRedOp) (f : FTy) (va : VReg) (j : Nat) : SlotPart :=
  let F := fmtOf f
  let p := (r.laneActive k.mask j).foldl
    (fun p i => combNext op F (k.rmo.mode r.cap.rmode) (ftzOf r.cap.rmode) p (r.el F.width va i)) ((none, 0) : Part)
  { val := p.1, flags := p.2 }

/-- VFRED delivers the tree over the partials. -/
def rdvVfred (r : RdvIn) (k : VCtl) (op : FRedOp) (f : FTy) (xd : XReg) : Delivery :=
  let F := fmtOf f
  let p := combTree op F (k.rmo.mode r.cap.rmode) (ftzOf r.cap.rmode) 6 (r.partList.map fun q => (q.val, q.flags))
  let x := p.1.getD (match op with | .sum => 0 | .min => F.inf | .max => F.inf + F.sign)
  r.out r.v (some (xd, BitVec.ofNat 64 x)) p.2

/-- The running values of a scan, one for each body element; none where the element is not active. -/
def RdvIn.scan (r : RdvIn) (c : MaskCtl) (step : Part → Nat → Part) : List (Option Nat) × Flags :=
  let q := r.body.foldl (fun (acc : List (Option Nat) × Part) i =>
    if r.act c i then let p := step acc.2 i; (p.1 :: acc.1, p) else (none :: acc.1, acc.2)) ([], (none, 0))
  (q.1.reverse, q.2.2)

/-- VSCAN. -/
def rdvVscan (r : RdvIn) (k : VCtl) (op : ScanOp) (vd va : VReg) : Delivery :=
  let m := k.rmo.mode r.cap.rmode
  let z := ftzOf r.cap.rmode
  let w := match op with | .int _ _ => r.cap.sew | .flt _ f => (fmtOf f).width
  let q := r.scan k.mask fun p i => match op with
    | .int o t => (some (match p.1 with | none => r.el w va i | some a => redStep o t w a (r.el w va i)), 0)
    | .flt o f => combNext o (fmtOf f) m z p (r.el w va i)
  r.out (r.mapAll k.mask w vd fun i => (q.1.getD i none).getD 0) none q.2

/-! ### Compress, expand, nonzero (13 R344) -/

/-- VCOMP. -/
def rdvVcomp (r : RdvIn) (k : VCtl) (vd va : VReg) : Delivery :=
  r.out (r.packed k.mask r.cap.sew vd ((r.active k.mask).map (r.el r.cap.sew va))) none 0
/-- VEXPD. -/
def rdvVexpd (r : RdvIn) (k : VCtl) (vd va : VReg) : Delivery :=
  let w := r.cap.sew
  r.out (r.mapAll k.mask w vd fun i => r.el w va ((r.active k.mask).filter (· < i)).length) none 0

/-- An element as a typed instruction reads it: under FTZ a subnormal 16-bit value is zero of its sign (09 R237). -/
def readEl (t : ElTy) (z : Bool) (x : Nat) : Nat :=
  match t with
  | .f f => (match fload (fmtOf f) z x with | .zero neg => if neg then (fmtOf f).sign else 0 | _ => x)
  | _ => x

/-- An element is nonzero: any bit, or for a floating type any but the sign. -/
def nonzeroEl (t : ElTy) (w x : Nat) : Bool := match t with | .f _ => x % 2 ^ (w - 1) != 0 | _ => x != 0

/-- VNZIDX. -/
def rdvVnzidx (r : RdvIn) (k : VCtl) (t : ElTy) (vd va : VReg) : Delivery :=
  let w := r.cap.sew
  r.out (r.packed k.mask w vd ((r.active k.mask).filter fun i => nonzeroEl t w (readEl t (ftzOf r.cap.rmode) (r.el w va i)))) none 0

/-! ### Top-k (13 R345) -/

/-- The value of an element is a NaN, quiet or signalling. -/
def elNan (t : ElTy) (x : Nat) : Bool := match t with | .f f => (fdecode (fmtOf f) x).isNan | _ => false

/-- Element a comes before element b: a greater value. -/
def elAbove (t : ElTy) (w a b : Nat) : Bool :=
  match t with
  | .f f => ltVal (fdecode (fmtOf f) b) (fdecode (fmtOf f) a)
  | .i => decide (sintOf w b < sintOf w a)
  | .n => decide (b < a)

/-- A candidate put in its place: behind every earlier one that is not below it. -/
def insertTop (t : ElTy) (w : Nat) (x : Nat × Nat) : List (Nat × Nat) → List (Nat × Nat)
  | [] => [x]
  | y :: l => if elAbove t w x.1 y.1 then x :: y :: l else y :: insertTop t w x l

/-- VTOPK. -/
def rdvVtopk (r : RdvIn) (k : ECtl) (nonzero : Bool) (t : ElTy) (vd vq va : VReg) (xd : XReg) (count : BitVec 32) :
    Delivery :=
  let w := r.cap.sew
  let n := count.toNat
  let c := k.mask
  let body := (r.active c).map fun i => (readEl t (ftzOf r.cap.rmode) (r.el w va i), i)
  let cand := (body.filter fun (x, _) => !elNan t x && (!nonzero || nonzeroEl t w x)).foldl
    (fun l x => insertTop t w x l) []
  let top := cand.take n
  let low := match t with | .f f => (fmtOf f).inf + (fmtOf f).sign | .i => 2 ^ (w - 1) | .n => 0
  let vals := (List.range n).map fun j => match top[j]? with | some x => x.1 | none => low
  let idxs := (List.range n).map fun j => match top[j]? with | some x => x.2 | none => 2 ^ w - 1
  let v1 := r.packed c w vd vals
  let v2 := ({ r with v := v1 } : RdvIn).packed c w vq idxs
  let sig := match t with | .f f => body.any fun (x, _) => (fdecode (fmtOf f) x).isSig | _ => false
  r.out v2 (some (xd, BitVec.ofNat 64 (min n cand.length))) (if sig then flNV else 0)

/-! ### Set intersection (13 R346) -/

/-- The merge: values kept in order, and the positions reached. The first argument bounds the steps. -/
def merge (a b : Nat → Nat) (lt : Nat → Nat → Bool) (na nb : Nat) :
    Nat → Nat → Nat → List Nat → List Nat × Nat × Nat
  | 0, ia, ib, acc => (acc.reverse, ia, ib)
  | n + 1, ia, ib, acc =>
    if na ≤ ia ∨ nb ≤ ib then (acc.reverse, ia, ib)
    else if a ia = b ib then merge a b lt na nb n (ia + 1) (ib + 1) (a ia :: acc)
    else if lt (a ia) (b ib) then merge a b lt na nb n (ia + 1) ib acc
    else merge a b lt na nb n ia (ib + 1) acc

/-- VISECT. -/
def rdvVisect (r : RdvIn) (k : ECtl) (t : ITy) (vd va vb : VReg) (xs xn : XReg) : Delivery :=
  let w := r.cap.sew
  let na := getField (r.cap.rx xn) 0 32
  let nb := getField (r.cap.rx xn) 32 32
  let q := merge (r.el w va) (r.el w vb) (fun x y => decide (elInt (t == .i) w x < elInt (t == .i) w y)) na nb
    (na + nb) 0 0 []
  let st := q.1.length % 2 ^ 20 + q.2.1 % 2 ^ 20 * 2 ^ 20 + q.2.2 % 2 ^ 20 * 2 ^ 40 + bitOf (decide (q.2.1 = na)) * 2 ^ 62 +
    bitOf (decide (q.2.2 = nb)) * 2 ^ 63
  r.out (r.packed k.mask w vd q.1) (some (xs, BitVec.ofNat 64 st)) 0

/-! ### Error-feedback conversions (09 R246, 12 R321) -/

/-- The destination of an error-feedback conversion. -/
inductive EfrDst where
  | flt (F : Fmt)
  | int8
  | bfp (mb E : Nat)

/-- One step of the loop of R246: from the carry and x to y, the carry and the flags. -/
def efrStep (d : EfrDst) (z sat : Bool) (r x : Nat) : Nat × Nat × Flags :=
  let f32 := fmtOf .f32
  let xv := fdecode f32 x
  let rv := fdecode f32 r
  let s := Dy.add xv.dy rv.dy
  let carry := fun (y : Dy) => (roundDy f32 .rne false (Dy.add s y.neg) false).bits
  match d with
  | .flt F =>
    if xv.isNan ∨ xv.isInf then
      let c := cvtFloat F .rne z xv
      (if sat then satBits F c.bits else c.bits, r, c.flags)
    else
      let c := roundDy F .rne z s (xv.isNeg && rv.isNeg)
      if c.bits % F.sign = F.inf then (if sat then satBits F c.bits else c.bits, r, c.flags)
      else (c.bits, carry (fdecode F c.bits).dy, c.flags)
  | .int8 =>
    if xv.isNan ∨ xv.isInf then
      let c := toInt true 8 .rne xv
      (c.bits, r, c.flags)
    else
      let q := roundInt .rne s
      let y := clampTo true 8 q.1
      (wrapTo 8 y, carry ⟨y, 0⟩, if y ≠ q.1 then flNV else if q.2 then flNX else 0)
  | .bfp mb E =>
    let q := roundInt .rne ⟨s.n, s.e + 127 - E⟩
    let y := clampTo true mb q.1
    (wrapTo 64 y, carry ⟨y, (E : Int) - 127⟩, if y ≠ q.1 then flNV else if q.2 then flNX else 0)

/-- The carry an EFR loop starts from (09 R246). -/
def efrStart (carry : Word) : Nat :=
  let r := carry.toNat % 2 ^ 32
  if (fdecode (fmtOf .f32) r).isNan ∨ (fdecode (fmtOf .f32) r).isInf then 0 else r

/-- An error-feedback conversion of F32 elements to a floating type or I8. -/
def rdvEfr (r : RdvIn) (k : VCtl) (dt : ElTy) (vd va : VReg) : Delivery :=
  let d := match dt with | .f f => EfrDst.flt (fmtOf f) | _ => .int8
  let w := match dt with | .f f => (fmtOf f).width | _ => 8
  if r.cap.vl = 0 then r.out r.v none 0 else
  let q := r.body.foldl (fun (acc : NMap × Nat × Flags) i =>
    if r.act k.mask i then
      let s := efrStep d (ftzOf r.cap.rmode) k.sat acc.2.1 (r.el 32 va i)
      (vput1 acc.1 r.cap.lanes w vd.toNat i s.1, s.2.1, acc.2.2 ||| s.2.2)
    else match k.mask.off w with
      | some x => (vput1 acc.1 r.cap.lanes w vd.toNat i x, acc.2)
      | none => acc) (r.v, efrStart r.carry, 0)
  { v := allTails r.cap k.mask q.1 w vd.toNat r.cap.vl, x := none, flags := q.2.2, carry := BitVec.ofNat 64 q.2.1 }

/-- VPACK under error feedback: exponents chosen as under RNE, mantissas formed by the loop of R246 (12 R322). -/
def rdvVpack (r : RdvIn) (k : VCtl) (mb : BitVec 3) (l : BlkLen) (vd va : VReg) : Delivery :=
  let L := r.cap.lanes
  let len := blkLen l
  let w := r.cap.sew
  let m := mb.toNat + 2
  let ve := (k.vc.getD 0).toNat
  let f32 := fmtOf .f32
  if r.cap.vl = 0 then r.out r.v none 0 else
  let blocks := (List.range (r.cap.vl / (L * len))).flatMap fun j => (List.range L).map fun lane =>
    (lane + j * L, (packBlock .rne m ((blockElems L len lane j).map fun i => fdecode f32 (r.el 32 va i))).1)
  let v1 := blocks.foldl (fun v (i, E) => vput1 v L w ve i E) r.v
  let fl0 : Flags := if blocks.any fun (_, E) => E == 255 then flNV else 0
  let expOf := fun (i : Nat) => ((blocks.find? fun (b, _) => b == i % L + i / L / len * L).map (·.2)).getD 255
  let q := r.body.foldl (fun (acc : NMap × Nat × Flags) i =>
    if expOf i = 255 then (vput1 acc.1 L w vd.toNat i 0, acc.2)
    else
      let s := efrStep (.bfp m (expOf i)) false false acc.2.1 (r.el 32 va i)
      (vput1 acc.1 L w vd.toNat i s.1, s.2.1, acc.2.2 ||| s.2.2)) (v1, efrStart r.carry, fl0)
  let v2 := allTails r.cap k.mask q.1 w vd.toNat r.cap.vl
  { v := allTails r.cap k.mask v2 w ve (r.cap.vl / len), x := none, flags := q.2.2, carry := BitVec.ofNat 64 q.2.1 }

end Sys2Proof.Machine
end

