-- ==== Sys2Proof/Machine/Sample.lean ====
section
/-! DEFINITION. The sample stream and the capture record of a thread (08 R216-R221). -/

namespace Sys2Proof.Machine

/-- PEXP, RSIZE and the enables of SAMPCFG (03 R83). -/
def SysRegs.pexp (r : SysRegs) : Nat := getField r.sampcfg 8 5
/-- SAMPCFG.RSIZE. -/
def SysRegs.rsize (r : SysRegs) : Nat := getField r.sampcfg 16 5
/-- SAMPCFG.EN. -/
def SysRegs.sampOn (r : SysRegs) : Bool := getBit r.sampcfg 0
/-- SAMPCFG.ADAPT. -/
def SysRegs.sampAdapt (r : SysRegs) : Bool := getBit r.sampcfg 1

/-- The 32 bytes of a record (08 R220). -/
def sampleBytes (kind : Nat) (ctl : Bool) (pexp f4 : Nat) (f8 : Nat) (f10 f14 f15 stint f18 : Nat) : List Byte :=
  bytesOf 1 kind ++ bytesOf 1 (bitOf ctl) ++ bytesOf 2 pexp ++ bytesOf 4 f4 ++ bytesOf 8 f8 ++ bytesOf 4 f10 ++
    bytesOf 1 f14 ++ bytesOf 1 f15 ++ bytesOf 2 stint ++ bytesOf 8 f18

/-- One record stored at HEAD, if its store passes the checks of R102. -/
def State.storeSample (s : State) (t : Nat) (bs : List Byte) : State × Bool :=
  let r := (s.th t).sys
  let va := r.sampbase + BitVec.ofNat 64 (r.samphead.toNat % 2 ^ r.rsize)
  match s.writeElem (s.ctxOf t) 0 false va 32 (leNat bs) [] with
  | (s, _, none) =>
    (s.modTh t fun th => { th with sys := { th.sys with samphead := th.sys.samphead + 32 }, adaptDue := true }, true)
  | (s, _, some _) => (s.modTh t fun th => { th with lost := th.lost + 1 }, false)

/-- A record appended to the stream: dropped and counted when the ring has no room for it and a LOST record; a LOST
record goes first when records were dropped (08 R218). -/
def State.appendSample (s : State) (t : Nat) (bs : List Byte) : State :=
  let th := s.th t
  if ¬ th.sys.sampOn then s
  else if 2 ^ th.sys.rsize + th.sys.samptail.toNat < th.sys.samphead.toNat + 64 then
    s.modTh t fun th => { th with lost := th.lost + 1 }
  else if th.lost = 0 then (s.storeSample t bs).1
  else
    let lost := sampleBytes 3 (th.kind == .control) th.sys.pexp th.lost 0 0 0 0 th.stint.toNat (s.cycleOf t).toNat
    match s.storeSample t lost with
    | (s, true) => ((s.modTh t fun th => { th with lost := 0 }).storeSample t bs).1
    | (s, false) => s

/-- A PERIOD record after PEXP changes from `old` to `new`. -/
def State.changePeriod (s : State) (t new : Nat) : State :=
  let th := s.th t
  let old := th.sys.pexp
  (s.modTh t fun th => { th with sys := { th.sys with sampcfg := putField th.sys.sampcfg 8 5 new }, perChanged := true }).appendSample
    t (sampleBytes 2 (th.kind == .control) new old 0 0 0 0 th.stint.toNat (s.cycleOf t).toNat)

/-- The adaptation after a record write (`grow`) or a SAMPTAIL write: at most one change for each SAMPLE record (08
R221). -/
def State.adaptPeriod (s : State) (t : Nat) (grow : Bool) : State :=
  let th := s.th t
  let used := th.sys.samphead.toNat - th.sys.samptail.toNat
  if ¬ th.sys.sampOn ∨ ¬ th.sys.sampAdapt ∨ th.perChanged then s
  else if grow ∧ 3 * 2 ^ th.sys.rsize < 4 * used ∧ th.sys.pexp < 24 then s.changePeriod t (th.sys.pexp + 1)
  else if 4 * used < 2 ^ th.sys.rsize ∧ 10 < th.sys.pexp then s.changePeriod t (th.sys.pexp - 1)
  else s

/-- The adaptation after the records of a convoy or word, when one of them has been written (08 R220, R221). -/
def State.endRecords (s : State) (t : Nat) : State :=
  if (s.th t).adaptDue then (s.adaptPeriod t true).modTh t fun th => { th with adaptDue := false } else s

/-- The SAMPLE record of the convoy or word (seq, pc), its countdown reloaded (08 R219, R220). -/
def State.sampleOf (s : State) (t : Nat) (seq : BitVec 32) (pc : Word) : State × List Byte :=
  let th := s.th t
  (s.modTh t fun th => { th with countdown := 2 ^ th.sys.pexp, perChanged := false },
    sampleBytes 1 (th.kind == .control) th.sys.pexp seq.toNat pc.toNat (getField th.newest 0 32)
      (getField th.newest 32 8) (getField th.newest 40 8) th.stint.toNat (s.cycleOf t).toNat)

/-- A SAMPLE record of the convoy or word (seq, pc), then the adaptation (08 R219-R221). -/
def State.sampleRecord (s : State) (t : Nat) (seq : BitVec 32) (pc : Word) : State :=
  let q := s.sampleOf t seq pc
  (q.1.appendSample t q.2).endRecords t

/-- The convoy or word seq of thread t is an STCHK whose comparison has still to end: its SKIP record, if it has one, stands
before its SAMPLE record (08 R220). -/
def State.comparing (s : State) (t : Nat) (seq : BitVec 32) : Bool :=
  s.cmds.any fun c => c.thr == t && c.cseq == seq && match c.body with | .stchk _ _ _ _ _ _ _ _ none => true | _ => false

/-- The sample countdown of a convoy committed by every bound lane, or of a control word issued: at its end a SAMPLE record names
it; then the adaptation (08 R219-R221). -/
def State.countdown (s : State) (t : Nat) (seq : BitVec 32) (pc : Word) : State :=
  if ¬ (s.th t).sys.sampOn then s
  else if 1 < (s.th t).countdown then
    (s.modTh t fun th => { th with countdown := th.countdown - 1 }).endRecords t
  else if s.comparing t seq then
    let q := s.sampleOf t seq pc
    q.1.modTh t fun th => { th with heldSamples := th.heldSamples ++ [(seq, q.2)] }
  else s.sampleRecord t seq pc

/-- A convoy committed by every bound lane, or a control word issued: event 0x002 or 0x080, and the sample countdown. -/
def State.convoyDone (s : State) (t : Nat) (seq : BitVec 32) (pc : Word) : State :=
  (s.count t (if (s.th t).kind = .control then 0x080 else 0x002) 1).countdown t seq pc

/-- A SKIP or MARK record (08 R220). -/
def State.markRecord (s : State) (t kind : Nat) (seq : BitVec 32) (pc eseq eng chan data : Nat) : State :=
  let th := s.th t
  s.appendSample t (sampleBytes kind (th.kind == .control) th.sys.pexp seq.toNat pc eseq eng chan th.stint.toNat data)

/-- The comparison of the STCHK of convoy or word seq has ended, its SKIP record written: the SAMPLE record held for it follows, and
the adaptation (08 R220). -/
def State.releaseSample (s : State) (t : Nat) (seq : BitVec 32) : State :=
  let mine := (s.th t).heldSamples.filter (·.1 == seq)
  let s := s.modTh t fun th => { th with heldSamples := th.heldSamples.filter (·.1 != seq) }
  (mine.foldl (fun s r => s.appendSample t r.2) s).endRecords t

/-! ### Capture windows -/

/-- Counters of a thread: 16 in a strand, 8 in a control thread. -/
def Thread.npmc (th : Thread) : Nat := if th.kind = .control then 8 else 16

/-- CAPSTART: the window starts afresh (08 R216). -/
def Thread.capstart (th : Thread) : Thread :=
  { th with snap := th.sys.pmc, oncore := Vector.replicate 4 0, offcore := Vector.replicate 4 0, wrmask := 0,
            sys := { th.sys with capstate := 1 } }

/-- The 256 bytes of a capture record (08 R217). -/
def Thread.captureBytes (th : Thread) : List Byte :=
  bytesOf 1 1 ++ bytesOf 1 th.npmc ++ bytesOf 2 (getField th.sys.capstate 32 16) ++ bytesOf 2 th.wrmask.toNat ++
  bytesOf 2 0 ++ bytesOf 8 0 ++ th.oncore.toList.flatMap (fun w => bytesOf 8 w.toNat) ++
  th.offcore.toList.flatMap (fun w => bytesOf 8 w.toNat) ++
  ((List.range 16).flatMap fun k => bytesOf 8 (if k < th.npmc then (vget th.sys.pmc k 0 - vget th.snap k 0).toNat else 0)) ++
  List.replicate 48 0

/-- CAPSTATE.ACTIVE cleared. -/
def Thread.capstop (th : Thread) : Thread := { th with sys := { th.sys with capstate := putBit th.sys.capstate 0 false } }

end Sys2Proof.Machine
end

