-- ==== Sys2Proof/Machine/Lanes.lean ====
section
/-! DEFINITION. Vector convoys in their lanes: what each vector instruction reads and writes, the lane and rendezvous
dispatch, and the replay window, commit pointers and rendezvous slots that carry a convoy from broadcast to commit (02
R44-R52). -/

namespace Sys2Proof
open Machine
namespace Machine

/-- What the issue rules need to know of a vector instruction (10 R257, 12 R303). -/
structure VInfo where
  c : Bool
  xr : List XReg
  vr : List VReg
  mreg : List VReg
  xw : List XReg
  vw : List VReg
  /-- a memory or engine instruction -/
  mem : Bool
  /-- alone in a convoy of one -/
  alone : Bool
  rdv : Bool
  /-- waits for the lanes before broadcast (05 R117, R121) -/
  drain : Bool
  /-- takes a number of engine 8 -/
  eng8 : Bool
  /-- its type widths agree with VSEW -/
  wok : Bool
  /-- it writes masked-off elements, and the tail -/
  mp : Bool
  tp : Bool

/-- An instruction that names no register. -/
def VInfo.of (c : Bool) (m : MaskCtl) : VInfo :=
  { c, xr := [], vr := [], mreg := if m.m then [BitVec.ofNat 6 m.reg] else [], xw := [], vw := [], mem := false,
    alone := false, rdv := false, drain := false, eng8 := false, wok := true, mp := m.mp, tp := m.tp }

/-! ### Widths and error feedback (12 R317, R321) -/

/-- The pairs of VCVT under VSEW = w. -/
def cvtOk (w : Nat) (dt st : ElTy) : Bool :=
  match dt, st with
  | .f a, .f b => a != b && max (fmtOf a).width (fmtOf b).width == w
  | .f _, b => b != .n || decide (8 ≤ w)
  | a, .f _ => a != .n || decide (8 ≤ w)
  | _, _ => false

/-- The pairs of VWIDEN. -/
def widenOk (w : Nat) (dt st : ElTy) : Bool :=
  match dt, st with
  | .f .f32, .f b => (b == .f16 || b == .bf16) && w == 32
  | .f .f64, .f .f32 => w == 64
  | .i, .i => decide (8 ≤ w)
  | .n, .n => decide (16 ≤ w)
  | _, _ => false

/-- The pairs of VNARROW. -/
def narrowOk (w : Nat) (dt st : ElTy) : Bool :=
  match dt, st with
  | .f .f32, .f .f64 => w == 64
  | .f b, .f .f32 => (b == .f16 || b == .bf16) && w == 32
  | .f _, _ => false
  | _, .f _ => false
  | .n, _ => decide (16 ≤ w)
  | _, _ => decide (8 ≤ w)

/-- The pairs of VNARROW that are eligible for error feedback: F32 to F16 or BF16. -/
def narrowEfr (dt st : ElTy) : Bool := st == .f .f32 && (dt == .f .f16 || dt == .f .bf16)

/-- The pairs of VCVT and VCVTE that are eligible: also F32 to I with VSEW = 8. -/
def efrPair (w : Nat) (dt st : ElTy) : Bool := narrowEfr dt st || (st == .f .f32 && dt == .i && w == 8)

/-- The block widths of VPACK and VUNPACK. -/
def packOk (w : Nat) (m : BitVec 3) : Bool := (w == 8 || w == 16 || w == 32) && decide (m.toNat + 2 ≤ w)

/-- The operand widths of VSCAN. -/
def scanOk (w : Nat) : ScanOp → Bool | .int _ t => t == .i || decide (8 ≤ w) | .flt _ f => (fmtOf f).width == w

end Machine

/-- An eligible conversion rounds by error feedback. -/
def efrOn (k : VCtl) (rm : Word) (eligible : Bool) : Bool := eligible && k.rmo.isEfr rm

/-- A prefix EFR stands only on an eligible pair. -/
def efrLegal (k : VCtl) (eligible : Bool) : Bool := eligible || k.rmo != .efr

/-- VCVTE accepts no other rounding. -/
def vcvteRmo (k : VCtl) : Bool := k.rmo == .none || k.rmo == .efr

namespace Machine

/-- The outcome of a lane-local instruction that makes no memory access. -/
def State.ofLane (s : State) (e : LEnv) (o : LaneOut) : LRes :=
  match o.fault with
  | some i => .fault (s.setVr e.t o.v) (fpxTrap i)
  | none => .ok (s.setVr e.t o.v) o.flags

/-- The classification of a vector instruction under element width `w` and rounding word `rm`; none for any other
instruction (09 R229, 10 R256 check 8, R257, 12 R303, R317, 13 R327). -/
def vinfo (w : Nat) (rm : Word) (i : Instr) : Option VInfo :=
  let fw := fun (f : FTy) => (fmtOf f).width == w
  let iw := fun (t : ITy) => t == .i || decide (8 ≤ w)
  let tw := fun (t : ElTy) => elWidth w t == w && (t != .n || decide (8 ≤ w))
  match i with
  | .vadd k t d a b => some { VInfo.of k.c k.mask with vr := [a, b], vw := [d], wok := iw t }
  | .vsub k t d a b => some { VInfo.of k.c k.mask with vr := [a, b], vw := [d], wok := iw t }
  | .vmul k t d a b => some { VInfo.of k.c k.mask with vr := [a, b], vw := [d], wok := iw t }
  | .vmulh k t d a b => some { VInfo.of k.c k.mask with vr := [a, b], vw := [d], wok := iw t }
  | .vmin k t d a b => some { VInfo.of k.c k.mask with vr := [a, b], vw := [d], wok := iw t }
  | .vmax k t d a b => some { VInfo.of k.c k.mask with vr := [a, b], vw := [d], wok := iw t }
  | .vsadd k t d a b => some { VInfo.of k.c k.mask with vr := [a, b], vw := [d], wok := iw t }
  | .vssub k t d a b => some { VInfo.of k.c k.mask with vr := [a, b], vw := [d], wok := iw t }
  | .vavg k t d a b => some { VInfo.of k.c k.mask with vr := [a, b], vw := [d], wok := iw t }
  | .vmadd k t d a b => some { VInfo.of k.c k.mask with vr := [a, b, k.vc.getD d], vw := [d], wok := iw t }
  | .vand k d a b => some { VInfo.of k.c k.mask with vr := [a, b], vw := [d] }
  | .vor k d a b => some { VInfo.of k.c k.mask with vr := [a, b], vw := [d] }
  | .vxor k d a b => some { VInfo.of k.c k.mask with vr := [a, b], vw := [d] }
  | .vshl k d a b => some { VInfo.of k.c k.mask with vr := [a, b], vw := [d] }
  | .vsha k d a b => some { VInfo.of k.c k.mask with vr := [a, b], vw := [d] }
  | .vshr k d a b => some { VInfo.of k.c k.mask with vr := [a, b], vw := [d] }
  | .mand k d a b => some { VInfo.of k.c k.mask with vr := [a, b], vw := [d] }
  | .mor k d a b => some { VInfo.of k.c k.mask with vr := [a, b], vw := [d] }
  | .mxor k d a b => some { VInfo.of k.c k.mask with vr := [a, b], vw := [d] }
  | .mandn k d a b => some { VInfo.of k.c k.mask with vr := [a, b], vw := [d] }
  | .vabs k d a => some { VInfo.of k.c k.mask with vr := [a], vw := [d] }
  | .vneg k t d a => some { VInfo.of k.c k.mask with vr := [a], vw := [d], wok := iw t }
  | .vfadd k f d a b => some { VInfo.of k.c k.mask with vr := [a, b], vw := [d], wok := fw f }
  | .vfsub k f d a b => some { VInfo.of k.c k.mask with vr := [a, b], vw := [d], wok := fw f }
  | .vfmul k f d a b => some { VInfo.of k.c k.mask with vr := [a, b], vw := [d], wok := fw f }
  | .vfdiv k f d a b => some { VInfo.of k.c k.mask with vr := [a, b], vw := [d], wok := fw f }
  | .vfmin k f d a b => some { VInfo.of k.c k.mask with vr := [a, b], vw := [d], wok := fw f }
  | .vfmax k f d a b => some { VInfo.of k.c k.mask with vr := [a, b], vw := [d], wok := fw f }
  | .vffma k f d a b => some { VInfo.of k.c k.mask with vr := [a, b, k.vc.getD d], vw := [d], wok := fw f }
  | .vffms k f d a b => some { VInfo.of k.c k.mask with vr := [a, b, k.vc.getD d], vw := [d], wok := fw f }
  | .vfnma k f d a b => some { VInfo.of k.c k.mask with vr := [a, b, k.vc.getD d], vw := [d], wok := fw f }
  | .vfsqrt k f d a => some { VInfo.of k.c k.mask with vr := [a], vw := [d], wok := fw f }
  | .vfabs k f d a => some { VInfo.of k.c k.mask with vr := [a], vw := [d], wok := fw f }
  | .vfneg k f d a => some { VInfo.of k.c k.mask with vr := [a], vw := [d], wok := fw f }
  | .vfclass k f d a => some { VInfo.of k.c k.mask with vr := [a], vw := [d], wok := fw f }
  | .vfrcp k f d a => some { VInfo.of k.c k.mask with vr := [a], vw := [d], wok := fw f }
  | .vfrsq k f d a => some { VInfo.of k.c k.mask with vr := [a], vw := [d], wok := fw f }
  | .vfexp2 k f d a => some { VInfo.of k.c k.mask with vr := [a], vw := [d], wok := fw f }
  | .vflog2 k f d a => some { VInfo.of k.c k.mask with vr := [a], vw := [d], wok := fw f }
  | .vfsinpi k f d a => some { VInfo.of k.c k.mask with vr := [a], vw := [d], wok := fw f }
  | .vfcospi k f d a => some { VInfo.of k.c k.mask with vr := [a], vw := [d], wok := fw f }
  | .vcmp k _ t d a b => some { VInfo.of k.c k.mask with vr := [a, b], vw := [d], wok := iw t }
  | .vfcmp k _ f d a b => some { VInfo.of k.c k.mask with vr := [a, b], vw := [d], wok := fw f }
  | .mpopc k x a => some { VInfo.of k.c k.mask with vr := [a], vw := [], xw := [x], rdv := true }
  | .mfirst k x a => some { VInfo.of k.c k.mask with vr := [a], vw := [], xw := [x], rdv := true }
  | .vmerge k t d a b => some { VInfo.of k.c k.mask with vr := [a, b], vw := [d], wok := tw t }
  | .vcvt k dt st d a => some { VInfo.of k.c k.mask with
      vr := [a], vw := [d], rdv := efrOn k rm (efrPair w dt st), wok := cvtOk w dt st && efrLegal k (efrPair w dt st) }
  | .vcvte k dt st d a => some { VInfo.of k.c k.mask with
      vr := [a], vw := [d], rdv := true, wok := efrPair w dt st && (w == 16 || dt == .i) && vcvteRmo k }
  | .vwiden k dt st d a => some { VInfo.of k.c k.mask with
      vr := [a], vw := [d], wok := widenOk w dt st && k.rmo != .efr }
  | .vnarrow k dt st d a => some { VInfo.of k.c k.mask with
      vr := [a], vw := [d], rdv := efrOn k rm (narrowEfr dt st), wok := narrowOk w dt st && efrLegal k (narrowEfr dt st) }
  | .vpack k m _ d a => some { VInfo.of k.c k.mask with
      vr := [a], vw := [d, k.vc.getD 0], rdv := efrOn k rm true, wok := packOk w m && d != k.vc.getD 0 }
  | .vunpack k m _ d a => some { VInfo.of k.c k.mask with
      vr := [a, k.vc.getD 0], vw := [d], wok := packOk w m && k.rmo == .none }
  | .vscale k f d a b => some { VInfo.of k.c k.mask with vr := [a, b], vw := [d], wok := fw f }
  | .vscacc k f d a b => some { VInfo.of k.c k.mask with
      vr := [a, b], vw := [d], wok := fw f && (f == .f32 || f == .f64) }
  | .vld k _ x d => some { VInfo.of k.c k.mask with vr := [], vw := [d], xr := [x], mem := true }
  | .vlds k y x d => some { VInfo.of k.c k.mask with
      vr := [], vw := [d], xr := [x, y], mem := true, wok := decide (8 ≤ w) }
  | .vldx k b x d => some { VInfo.of k.c k.mask with
      vr := [b], vw := [d], xr := [x], mem := true, wok := decide (8 ≤ w) }
  | .vldo k b x d => some { VInfo.of k.c k.mask with
      vr := [b], vw := [d], xr := [x], mem := true, wok := decide (8 ≤ w) }
  | .vprf k _ x => some { VInfo.of k.c k.mask with vr := [], vw := [], xr := [x], mem := true }
  | .vprfStrided k y x => some { VInfo.of k.c k.mask with
      vr := [], vw := [], xr := [x, y], mem := true, wok := decide (8 ≤ w) }
  | .vlda k _ _ x d => some { VInfo.of k.c k.mask with
      vr := [], vw := [d], xr := [x], mem := true, drain := true, wok := decide (8 ≤ w) }
  | .vst k _ x d => some { VInfo.of k.c k.mask with vr := [d], vw := [], xr := [x], mem := true }
  | .vsts k y x d => some { VInfo.of k.c k.mask with
      vr := [d], vw := [], xr := [x, y], mem := true, wok := decide (8 ≤ w) }
  | .vstx k b x d => some { VInfo.of k.c k.mask with
      vr := [d, b], vw := [], xr := [x], mem := true, wok := decide (8 ≤ w) }
  | .vstxo k b x d => some { VInfo.of k.c k.mask with
      vr := [d, b], vw := [], xr := [x], mem := true, wok := decide (8 ≤ w) }
  | .vstl k _ _ x d => some { VInfo.of k.c k.mask with
      vr := [d], vw := [], xr := [x], mem := true, drain := true, wok := decide (8 ≤ w) }
  | .vrld k b x d => some { VInfo.of k.c k.mask with
      vr := [b], vw := [d], xr := [x], mem := true, wok := decide (8 ≤ w) }
  | .vrst k b x d => some { VInfo.of k.c k.mask with
      vr := [d, b], vw := [], xr := [x], mem := true, alone := true, eng8 := true, wok := decide (8 ≤ w) }
  | .vrstOrd k b x d => some { VInfo.of k.c k.mask with
      vr := [d, b], vw := [], xr := [x], mem := true, alone := true, eng8 := true, wok := decide (8 ≤ w) }
  | .vfgath k b x d => some { VInfo.of k.c k.mask with
      vr := [b], vw := [d], xr := [x], mem := true, wok := decide (8 ≤ w) }
  | .vfscat k b x d => some { VInfo.of k.c k.mask with
      vr := [d, b], vw := [], xr := [x], mem := true, alone := true, eng8 := true, wok := decide (8 ≤ w) }
  | .tld k _ x d => some { VInfo.of k.c k.mask with vr := [], vw := [d], xr := [x], mem := true }
  | .tst k _ x d => some { VInfo.of k.c k.mask with vr := [d], vw := [], xr := [x], mem := true }
  | .trot k y x => some { VInfo.of k.c k.mask with vr := [], vw := [], xr := [x, y], mem := true }
  | .tfill k _ x y => some { VInfo.of k.c k.mask with vr := [], vw := [], xr := [x, y], mem := true }
  | .vperm k d a b => some { VInfo.of k.c k.mask with vr := [a, b], vw := [d], rdv := true }
  | .vslup k d a y => some { VInfo.of k.c k.mask with vr := [a], vw := [d], xr := [y], rdv := true }
  | .vsldn k d a y => some { VInfo.of k.c k.mask with vr := [a], vw := [d], xr := [y], rdv := true }
  | .vbcast k d y => some { VInfo.of k.c k.mask with vr := [], vw := [d], xr := [y] }
  | .vextr k x a y => some { VInfo.of k.c k.mask with vr := [a], vw := [], xr := [y], xw := [x], rdv := true }
  | .vins k d x y => some { VInfo.of k.c k.mask with vr := [], vw := [d], xr := [x, y] }
  | .vidx k d => some { VInfo.of k.c k.mask with vr := [], vw := [d] }
  | .vred k _ t x a => some { VInfo.of k.c k.mask with vr := [a], vw := [], xw := [x], rdv := true, wok := iw t }
  | .vfred k _ f x a => some { VInfo.of k.c k.mask with vr := [a], vw := [], xw := [x], rdv := true, wok := fw f }
  | .vscan k op d a => some { VInfo.of k.c k.mask with vr := [a], vw := [d], rdv := true, wok := scanOk w op }
  | .vcomp k d a => some { VInfo.of k.c k.mask with vr := [a], vw := [d], rdv := true }
  | .vexpd k d a => some { VInfo.of k.c k.mask with vr := [a], vw := [d], rdv := true }
  | .vnzidx k t d a => some { VInfo.of k.c k.mask with vr := [a], vw := [d], rdv := true, wok := tw t }
  | .vtopk e _ t d q a x _ => some { VInfo.of e.c e.mask with vr := [a], vw := [d, q], xw := [x], rdv := true, wok := tw t }
  | .visect e _ d a b xs xn => some { VInfo.of e.c e.mask with
      vr := [a, b], vw := [d], xr := [xn], xw := [xs], rdv := true, wok := (w == 16 || w == 32 || w == 64) }
  | .vamo e _ _ _ q d x b vq => some { VInfo.of e.c e.mask with
      vr := [b, vq], vw := [d], xr := [x], mem := true, alone := true, drain := true, eng8 := q.remote, wok := (w == 32 || w == 64) }
  | .vamocas e _ _ _ d b a vq => some { VInfo.of e.c e.mask with
      vr := [a, b, vq], vw := [d], mem := true, alone := true, drain := true, wok := w == 64 }
  | .vwait e _ _ _ xd vq xa b _ => some { VInfo.of e.c e.mask with
      vr := [b], vw := [vq], xr := [xa], xw := [xd], mem := true, alone := true, wok := decide (8 ≤ w) }
  | _ => none

/-- What one lane does in a lane-local instruction of a convoy; `at_` is the instruction's place in it. -/
def laneSem (s : State) (e : LEnv) (at_ : Nat) (i : Instr) : LRes :=
  let v := s.vr e.t
  match i with
  | .vadd k t d a b => s.ofLane e (laneVadd e v k t d a b)
  | .vsub k t d a b => s.ofLane e (laneVsub e v k t d a b)
  | .vmul k t d a b => s.ofLane e (laneVmul e v k t d a b)
  | .vmulh k t d a b => s.ofLane e (laneVmulh e v k t d a b)
  | .vmadd k t d a b => s.ofLane e (laneVmadd e v k t d a b)
  | .vmin k t d a b => s.ofLane e (laneVmin e v k t d a b)
  | .vmax k t d a b => s.ofLane e (laneVmax e v k t d a b)
  | .vand k d a b => s.ofLane e (laneVand e v k d a b)
  | .vor k d a b => s.ofLane e (laneVor e v k d a b)
  | .vxor k d a b => s.ofLane e (laneVxor e v k d a b)
  | .vshl k d a b => s.ofLane e (laneVshl e v k d a b)
  | .vsha k d a b => s.ofLane e (laneVsha e v k d a b)
  | .vshr k d a b => s.ofLane e (laneVshr e v k d a b)
  | .vsadd k t d a b => s.ofLane e (laneVsadd e v k t d a b)
  | .vssub k t d a b => s.ofLane e (laneVssub e v k t d a b)
  | .vavg k t d a b => s.ofLane e (laneVavg e v k t d a b)
  | .vabs k d a => s.ofLane e (laneVabs e v k d a)
  | .vneg k t d a => s.ofLane e (laneVneg e v k t d a)
  | .vfadd k f d a b => s.ofLane e (laneVfadd e v k f d a b)
  | .vfsub k f d a b => s.ofLane e (laneVfsub e v k f d a b)
  | .vfmul k f d a b => s.ofLane e (laneVfmul e v k f d a b)
  | .vfdiv k f d a b => s.ofLane e (laneVfdiv e v k f d a b)
  | .vffma k f d a b => s.ofLane e (laneVffma e v k f d a b)
  | .vffms k f d a b => s.ofLane e (laneVffms e v k f d a b)
  | .vfnma k f d a b => s.ofLane e (laneVfnma e v k f d a b)
  | .vfmin k f d a b => s.ofLane e (laneVfmin e v k f d a b)
  | .vfmax k f d a b => s.ofLane e (laneVfmax e v k f d a b)
  | .vfsqrt k f d a => s.ofLane e (laneVfsqrt e v k f d a)
  | .vfabs k f d a => s.ofLane e (laneVfabs e v k f d a)
  | .vfneg k f d a => s.ofLane e (laneVfneg e v k f d a)
  | .vfclass k f d a => s.ofLane e (laneVfclass e v k f d a)
  | .vfrcp k f d a => s.ofLane e (laneVfrcp e v k f d a)
  | .vfrsq k f d a => s.ofLane e (laneVfrsq e v k f d a)
  | .vfexp2 k f d a => s.ofLane e (laneVfexp2 e v k f d a)
  | .vflog2 k f d a => s.ofLane e (laneVflog2 e v k f d a)
  | .vfsinpi k f d a => s.ofLane e (laneVfsinpi e v k f d a)
  | .vfcospi k f d a => s.ofLane e (laneVfcospi e v k f d a)
  | .vcmp k c t d a b => s.ofLane e (laneVcmp e v k c t d a b)
  | .vfcmp k c f d a b => s.ofLane e (laneVfcmp e v k c f d a b)
  | .mand k d a b => s.ofLane e (laneMand e v k d a b)
  | .mor k d a b => s.ofLane e (laneMor e v k d a b)
  | .mxor k d a b => s.ofLane e (laneMxor e v k d a b)
  | .mandn k d a b => s.ofLane e (laneMandn e v k d a b)
  | .vmerge k t d a b => s.ofLane e (laneVmerge e v k t d a b)
  | .vcvt k t u d a => s.ofLane e (laneVcvt e v k t u d a)
  | .vwiden k t u d a => s.ofLane e (laneVwiden e v k t u d a)
  | .vnarrow k t u d a => s.ofLane e (laneVnarrow e v k t u d a)
  | .vpack k m l d a => s.ofLane e (laneVpack e v k m l d a)
  | .vunpack k m l d a => s.ofLane e (laneVunpack e v k m l d a)
  | .vscale k f d a b => s.ofLane e (laneVscale e v k f d a b)
  | .vscacc k f d a b => s.ofLane e (laneVscacc e v k f d a b)
  | .vbcast k d y => s.ofLane e (laneVbcast e v k d y)
  | .vins k d x y => s.ofLane e (laneVins e v k d x y)
  | .vidx k d => s.ofLane e (laneVidx e v k d)
  | .vld k o x d => laneVld s e k o x d
  | .vlds k y x d => laneVlds s e k y x d
  | .vldx k b x d => laneVldx s e k b x d
  | .vlda k _ o x d => laneVlda s e k o x d
  | .vst k o x d => laneVst s e k o x d
  | .vsts k y x d => laneVsts s e k y x d
  | .vstx k b x d => laneVstx s e k b x d
  | .vstl k _ o x d => laneVstl s e k o x d
  | .vprf k o x => laneVprf s e k o x
  | .vprfStrided k y x => laneVprfStrided s e k y x
  | .tld k o x d => laneTld s e k o x d
  | .tst k o x d => laneTst s e k o x d
  | .tfill k o x y => laneTfill s e k o x y
  | .trot k y x => laneTrot s e k y x
  | .vrld k b x d => laneVrld s e at_ k b x d
  | .vrst k b x d => laneVrst s e at_ k b x d
  | .vfgath k b _ d => laneVfgath s e at_ k b d
  | .vfscat k b _ d => laneVfscat s e at_ k b d
  | .vamo k op t _ q d x b vq => laneVamo s e at_ k op t q d x b vq
  | .vamocas k _ _ _ d b a vq => laneVamocas s e k d b a vq
  | _ => .ok s 0

/-- What a rendezvous instruction delivers. -/
def rdvSem (r : RdvIn) (i : Instr) : Delivery :=
  match i with
  | .mpopc _ x _ => rdvMpopc r x
  | .mfirst _ x _ => rdvMfirst r x
  | .vperm k d a b => rdvVperm r k d a b
  | .vslup k d a y => rdvVslup r k d a y
  | .vsldn k d a y => rdvVsldn r k d a y
  | .vred _ op t x _ => rdvVred r op t x
  | .vfred k op f x _ => rdvVfred r k op f x
  | .vscan k op d a => rdvVscan r k op d a
  | .vcomp k d a => rdvVcomp r k d a
  | .vexpd k d a => rdvVexpd r k d a
  | .vnzidx k t d a => rdvVnzidx r k t d a
  | .vtopk k z t d q a x n => rdvVtopk r k z t d q a x n
  | .visect k t d a b x y => rdvVisect r k t d a b x y
  | .vextr _ x a y => rdvVextr r x a y
  | .vcvt k t _ d a => rdvEfr r k t d a
  | .vcvte k t _ d a => rdvEfr r k t d a
  | .vnarrow k t _ d a => rdvEfr r k t d a
  | .vpack k m l d a => rdvVpack r k m l d a
  | _ => r.out r.v none 0

/-- The partial lane j deposits for a rendezvous instruction that has one; the others hold whole source registers (13 R337). -/
def rdvPart (r : RdvIn) (j : Nat) : Instr → Option SlotPart
  | .mpopc k _ a => some (partMpopc r k a j)
  | .mfirst k _ a => some (partMfirst r k a j)
  | .vred k op t _ a => some (partVred r k op t a j)
  | .vfred k op f _ a => some (partVfred r k op f a j)
  | _ => none

/-- The partials of all bound lanes. -/
def rdvParts (r : RdvIn) (i : Instr) : Tbl SlotPart :=
  (List.range r.cap.lanes).filterMap fun j => (rdvPart r j i).map fun p => (j, p)

/-- A rendezvous instruction that deposits partials and holds no source. -/
def depositsPart : Instr → Bool
  | .mpopc _ _ _ => true
  | .mfirst _ _ _ => true
  | .vred _ _ _ _ _ => true
  | .vfred _ _ _ _ _ => true
  | _ => false

/-! ### Slots, holds and pending registers (02 R51, 13 R337) -/

/-- The classification of an instruction of a convoy with captured operands. -/
def Captured.info (c : Captured) (i : Instr) : Option VInfo := vinfo c.sew c.rmode i

/-- The slot is between allocation and delivery. -/
def Slot.isOpen (sl : Slot) : Bool := sl.state == .part || sl.state == .full

/-- The classification of a slot's rendezvous. -/
def Slot.info (sl : Slot) : Option VInfo :=
  match sl.instr, sl.cap with | some i, some c => c.info i | _, _ => none

/-- The registers a slot holds in the lanes that have arrived: whole source vectors and masks, unless the lanes have deposited
partials of them. -/
def Slot.held (sl : Slot) (d : VInfo) : List VReg :=
  if (sl.instr.map depositsPart).getD false then [] else d.vr ++ d.mreg

/-- Lane j must wait before an instruction: it reads or writes a register that is pending there, or writes one that is
held there. -/
def Thread.slotBlocks (th : Thread) (j : Nat) (inf : VInfo) : Bool :=
  th.slots.toList.any fun sl => sl.isOpen && sl.arrived.getLsbD j &&
    match sl.info with
    | none => false
    | some d => (inf.vr ++ inf.mreg ++ inf.vw).any d.vw.contains || inf.vw.any (sl.held d).contains

/-- Lane j must wait before an instruction: it reads or writes an element of a register that a remote load still has to fill,
and waits for that element alone. An instruction that reads at another width than the load waits for any (05 R134, 13 R332). -/
def State.remoteBlocks (s : State) (e : LEnv) (c : MaskCtl) (w : Nat) (inf : VInfo) : Bool :=
  s.remotes.any fun r => r.thr == e.t && r.lane == e.lane && r.answer.isNone &&
    match r.vd with
    | none => false
    | some d => (inf.vr ++ inf.mreg ++ inf.vw).any (fun x => x.toNat == d) &&
        (r.ew != w || inf.mreg.any (fun x => x.toNat == d) ||
          (decide (r.idx < e.cap.vl) && isActive (s.vr e.t) e.cap.lanes c r.idx) || inf.vw.any (fun x => x.toNat == d))

/-- The scalar registers pending from an undelivered rendezvous (02 R45). -/
def Thread.pendingX (th : Thread) : List XReg :=
  th.slots.toList.flatMap fun sl => if sl.isOpen then (match sl.info with | some d => d.xw | none => []) else []

/-- Some rendezvous of the strand is outstanding. -/
def Thread.rdvOpen (th : Thread) : Bool := th.slots.toList.any (·.isOpen)

/-- An undelivered rendezvous writes VCARRY (02 R45). -/
def Thread.carryPending (th : Thread) : Bool :=
  th.slots.toList.any fun sl => sl.isOpen && match sl.instr with
    | some (.vcvt _ _ _ _ _) => true | some (.vcvte _ _ _ _ _) => true | some (.vnarrow _ _ _ _ _) => true
    | some (.vpack _ _ _ _ _) => true | _ => false

/-- The bound lanes as a mask. -/
def Thread.laneMask (th : Thread) : BitVec 32 := BitVec.ofNat 32 (2 ^ th.lanes - 1)

/-- What a slot's rendezvous starts from in the present registers of the thread. -/
def Thread.rdvIn (th : Thread) (sl : Slot) (c : Captured) : RdvIn := { cap := c, v := th.v, carry := th.sys.vcarry, parts := sl.parts }

/-- The partials of a slot with that of lane j, if its instruction has one. -/
def Thread.depositPart (th : Thread) (sl : Slot) (j : Nat) : Tbl SlotPart :=
  match sl.instr, sl.cap with
  | some i, some c => match rdvPart (th.rdvIn sl c) j i with
    | some p => Tbl.insert j p sl.parts
    | none => sl.parts
  | _, _ => sl.parts

/-- A lane arrives at the rendezvous of convoy q: it deposits its partial and adds its bit (02 R51, 13 R337). -/
def Thread.arrive (th : Thread) (q : BitVec 32) (j : Nat) : Thread :=
  { th with slots := th.slots.map fun sl =>
      if sl.state = .part ∧ sl.seq = q then
        let a := sl.arrived ||| (1#32 <<< j)
        { sl with arrived := a, parts := th.depositPart sl j,
                  state := if a &&& th.laneMask = th.laneMask then .full else .part }
      else sl }

/-- A FULL slot delivers: every destination, the flags and VCARRY; the slot goes through DELIVERED to EMPTY. -/
def Thread.deliverSlot (th : Thread) (k : Nat) : Thread :=
  let sl := vget th.slots k Slot.reset
  match sl.state, sl.instr, sl.cap with
  | .full, some i, some c =>
    let d := rdvSem (th.rdvIn sl c) i
    let th := { th with v := d.v, slots := vset th.slots k Slot.reset,
                        sys := { th.sys with vcarry := d.carry, fflags := th.sys.fflags ||| d.flags.setWidth 64 } }
    match d.x with | some (x, w) => th.wx x w | none => th
  | _, _, _ => th

/-- Slot k put before the slots of younger convoys. -/
def Thread.slotInsert (th : Thread) (k : Nat) : List Nat → List Nat
  | [] => [k]
  | j :: l => if seqLe (vget th.slots k Slot.reset).seq (vget th.slots j Slot.reset).seq then k :: j :: l
    else j :: Thread.slotInsert th k l

/-- The FULL slots, oldest convoy first. -/
def Thread.fullSlots (th : Thread) : List Nat :=
  ((List.range 4).filter fun k => (vget th.slots k Slot.reset).state == .full).foldr th.slotInsert []

/-- A destination of a slot's rendezvous that its delivery writes whole; and the slot, which is written whole when it is taken again (04
R111). -/
def Slot.heals (sl : Slot) (t k : Nat) (u : Upset) : Bool :=
  match sl.info, sl.cap with
  | some d, some c => (match u with
    | .xreg v r => v == t && d.xw.any (fun x => x.toNat == r)
    | .vreg v r _ => v == t && d.vw.any (fun x => x.toNat == r) && (d.mreg.isEmpty || d.mp) && (c.vl == c.mvl || d.tp)
    | .slot v j => v == t && j == k
    | _ => false)
  | _, _ => false

/-- Slot k of strand t delivers. -/
def State.deliver (s : State) (t k : Nat) : State :=
  (s.modTh t fun th => th.deliverSlot k).heal ((vget (s.th t).slots k Slot.reset).heals t k)

/-- Every FULL slot of strand t delivers, in the order of its convoys. -/
def State.deliverAll (s : State) (t : Nat) : State := (s.th t).fullSlots.foldl (fun s k => s.deliver t k) s

/-! ### Lanes (02 R46-R49) -/

/-- The sequence number of the next convoy to issue. -/
def Thread.nextSeq (th : Thread) : BitVec 32 :=
  match th.queue with | f :: _ => f.seq | [] => th.sys.cseq.setWidth 32

/-- The commit pointer after convoy q: the next convoy of the window, or the next to issue. -/
def Thread.cpAfter (th : Thread) (q : BitVec 32) : BitVec 32 :=
  match th.window.find? fun w => seqLt q w.seq with | some w => w.seq | none => th.nextSeq

/-- What a lane has come to in a convoy. -/
inductive LStat where
  | done (fl : Flags)
  | fault (f : LaneFault)
  | stall
  deriving DecidableEq, Repr

/-- What a lane knows of a window entry. -/
def WinEntry.env (w : WinEntry) (t j : Nat) : LEnv := { t, seq := w.seq, cap := w.cap, lane := j, start := NMap.get w.start j, dist := w.dist }

/-- The mask of a vector instruction's active elements, for its waits on remote elements. -/
def instrMask (inf : VInfo) : MaskCtl := { m := !inf.mreg.isEmpty, reg := (inf.mreg.headD 0).toNat, mp := false, mz := false, tp := false }

/-- Lane e must wait before an instruction: a rendezvous or a remote load has still to fill or to release a register of it. -/
def State.laneWaits (s : State) (e : LEnv) (inf : VInfo) : Bool :=
  (s.th e.t).slotBlocks e.lane inf || s.remoteBlocks e (instrMask inf) e.cap.sew inf

/-- The trap of lane e at an instruction whose registers, galley entry or slot hold an error there: that of the lane's first body
element; a lane without one reads nothing (04 R111; assumption log 107). -/
def State.laneStruck (s : State) (e : LEnv) (inf : VInfo) : Option Trap :=
  match laneElems e.cap.lanes e.cap.vl e.lane with
  | [] => none
  | i :: _ =>
    if s.upsets.any fun u => match u with
      | .xreg _ _ => false
      | .vreg t r j => t == e.t && j == e.lane && (inf.vr ++ inf.mreg).any (fun x => x.toNat == r)
      | .galley t j q => t == e.t && j == e.lane && q == e.seq
      | .slot t k => t == e.t && inf.rdv && (vget (s.th t).slots k Slot.reset).seq == e.seq
      | .table _ _ _ => false
    then some (upsetTrap i) else none

/-- The destinations of an instruction that lane e has written whole, every element of its share, hold no error there any more. -/
def State.laneHeal (s : State) (e : LEnv) (inf : VInfo) : State :=
  if (inf.mreg.isEmpty || inf.mp) && (e.cap.vl == e.cap.mvl || inf.tp) then
    s.heal fun u => match u with
      | .vreg t r j => t == e.t && j == e.lane && inf.vw.any (fun x => x.toNat == r)
      | _ => false
  else s

/-- The instructions of a convoy in one lane, from place k. A lane that has sent the remote elements of a later place
keeps what the places before it have written, and takes only their flags again. -/
def State.laneUnits (s : State) (e : LEnv) (sent : Nat) : Nat → List CUnit → Flags → State × LStat
  | _, [], fl => (s, .done fl)
  | k, u :: rest, fl =>
    match e.cap.info u.instr with
    | none => State.laneUnits s e sent (k + 1) rest fl
    | some inf =>
      if sent ≠ k + 1 ∧ s.laneWaits e inf then (s, .stall)
      else match (if k + 1 < sent then none else s.laneStruck e inf) with
      | some tr => (s, .fault { idx := k, trap := tr })
      | none =>
      if inf.rdv then State.laneUnits (s.modTh e.t fun th => th.arrive e.seq e.lane) e sent (k + 1) rest fl
      else match laneSem s e k u.instr with
        | .ok s' g => State.laneUnits (if k + 1 < sent then s else s'.laneHeal e inf) e sent (k + 1) rest (fl ||| g)
        | .fault s' tr => (s', .fault { idx := k, trap := tr })
        | .stall s' => (s', .stall)

/-- An instruction whose elements are performed in ascending order across the lanes: its mask, its destination, and what one
element does (05 R118, 13 R333). -/
def orderedOp : Instr → Option (MaskCtl × Option VReg × (State → LEnv → Nat → LRes))
  | .vldo k b x d => some (k.mask, some d, fun s e i => elemVldo s e b x d i)
  | .vstxo k b x d => some (k.mask, none, fun s e i => elemVstxo s e b x d i)
  | .vrstOrd k b x d => some (k.mask, none, fun s e i => elemVrstOrd s e b x d i)
  | _ => none

/-- The convoy's ordered instruction: its place, its unit and its parts. -/
def WinEntry.ordered (w : WinEntry) : Option (Nat × CUnit × MaskCtl × Option VReg × (State → LEnv → Nat → LRes)) :=
  w.units.zipIdx.findSome? fun (u, k) => (orderedOp u.instr).map fun o => (k, u, o)

/-- A convoy of VRST with ORD that has elements to send. -/
def WinEntry.ordOpen (w : WinEntry) : Bool :=
  decide (w.ord < w.cap.vl) && w.units.any fun u => match u.instr with | .vrstOrd _ _ _ _ => true | _ => false

/-- The convoys the window no longer needs leave it: every bound lane has committed them. Each counts, is sampled, and
completes its engine-8 number (02 R48, 08 R210, R213). -/
def State.pruneWindow (s : State) (t : Nat) : State :=
  let gone := (s.th t).window.filter fun w => seqLt w.seq (s.th t).minCp
  let s := s.modTh t fun th => { th with window := th.window.filter fun w => !seqLt w.seq th.minCp }
  gone.foldl (fun s w =>
    let s := match w.eseq with | some n => s.completeEng t 8 n | none => s
    s.convoyDone t w.seq w.pc) s

/-- Lane j commits convoy w: its flags and its commit pointer (02 R46, 03 R71). -/
def State.commitLane (s : State) (t j : Nat) (w : WinEntry) (fl : Flags) : State :=
  let s := (s.orFlags t fl).modTh t fun th => { th with cp := vset th.cp j (th.cpAfter w.seq) }
  let s := if NSet.mem j w.again then s.count t 0x016 1 else s
  (s.count t 0x005 ((laneElems w.cap.lanes w.cap.vl j).length * w.units.length)).pruneWindow t

/-- The lanes of a strand that have executed convoy w in part or ahead of their commit pointer: they will execute it again after a
resume (08 R213). -/
def Thread.unfinished (th : Thread) (w : WinEntry) : NSet :=
  th.laneList.foldl (fun l j =>
    if NMap.get w.ran j ≠ 0 ∨ NMap.get w.sent j ≠ 0 ∨
        (vget th.cp j 0 = w.seq ∧ ((Tbl.find j th.laneFault).isSome ∨ w.ord ≠ 0)) then NSet.add j l else l) w.again

/-- Lane j stops at a fault of the convoy at its commit pointer; what it has executed beyond is executed again (13 R333). -/
def State.faultLane (s : State) (t j : Nat) (f : LaneFault) : State :=
  s.modTh t fun th => { th with
    laneFault := Tbl.insert j f th.laneFault
    window := th.window.map fun w =>
      { w with ran := NMap.set w.ran j 0, again := if NMap.get w.ran j = 0 then w.again else NSet.add j w.again } }

/-- Lane j commits, in order, the convoys it has executed and whose remote elements are all answered; a fault returned to the
oldest stops it. At most n convoys (13 R332, R333). -/
def State.laneAdvance (s : State) (t j : Nat) : Nat → State
  | 0 => s
  | n + 1 =>
    match (s.th t).window.find? (·.seq == vget (s.th t).cp j 0) with
    | none => s
    | some w =>
      let r := NMap.get w.ran j
      if r = 0 ∨ s.outstanding t w.seq j ∨ (Tbl.find j (s.th t).laneFault).isSome then s
      else match Tbl.find j w.rfault with
        | some tr => s.faultLane t j { idx := NMap.get w.sent j - 1, trap := tr }
        | none => State.laneAdvance (s.commitLane t j w (BitVec.ofNat 5 (r - 1))) t j n

/-- What becomes of lane j after its attempt at convoy w: executed, it commits as soon as it may; a fault counts at the commit
pointer, and a lane that ran ahead meets it again there. -/
def State.settleLane (s : State) (t j : Nat) (w : WinEntry) : LStat → State
  | .done fl => (s.modWin t w.seq fun y => { y with ran := NMap.set y.ran j (fl.toNat + 1) }).laneAdvance t j ((s.th t).window.length + 1)
  | .fault f => if vget (s.th t).cp j 0 = w.seq then s.faultLane t j f else s
  | .stall => s

/-- One element of an ordered instruction: it waits for every lower element, and so for the lane of one that has not come to the
convoy or has stopped (02 R49, 05 R118). `st` holds the lanes at the convoy; the flag says that an element has stopped the rest,
the number is that of the next element. -/
def orderedStep (t k : Nat) (w : WinEntry) (c : MaskCtl) (f : State → LEnv → Nat → LRes) (src : NMap)
    (acc : State × Tbl LStat × Bool × Nat) (i : Nat) : State × Tbl LStat × Bool × Nat :=
  let j := i % w.cap.lanes
  if acc.2.2.1 then acc
  else if ¬ isActive src w.cap.lanes c i ∨ seqLt w.seq (vget (acc.1.th t).cp j 0) then (acc.1, acc.2.1, false, i + 1)
  else match Tbl.find j acc.2.1 with
    | some (.done fl) =>
      match f acc.1 (w.env t j) i with
      | .ok s g => (s, Tbl.insert j (.done (fl ||| g)) acc.2.1, false, i + 1)
      | .fault s tr => (s, Tbl.insert j (.fault { idx := k, trap := { tr with elem := i } }) acc.2.1, true, i)
      | .stall s => (s, acc.2.1, true, i)
    | _ => (acc.1, acc.2.1, true, i)

/-- A convoy with an ordered instruction, in the lanes that have come to it: the units before it, its elements from the first that
has not been performed, and, in a lane with none left, the policy values and the units behind it. -/
def State.runJoint (s : State) (t : Nat) (w : WinEntry) (k : Nat) (u : CUnit) (c : MaskCtl) (vd : Option VReg)
    (f : State → LEnv → Nat → LRes) (lanes : List Nat) : State :=
  let blocked := fun (s : State) (j : Nat) => match w.cap.info u.instr with | some inf => s.laneWaits (w.env t j) inf | none => false
  let struck := fun (s : State) (j : Nat) => (w.cap.info u.instr).bind (s.laneStruck (w.env t j))
  let pre := lanes.foldl (fun (acc : State × Tbl LStat) j =>
    let q := acc.1.laneUnits (w.env t j) 0 0 (w.units.take k) 0
    (q.1, Tbl.insert j (match q.2 with
      | .done fl => if blocked q.1 j then .stall else (match struck q.1 j with | some tr => .fault { idx := k, trap := tr } | none => .done fl)
      | st => st) acc.2)) (s, [])
  let r := ((List.range w.cap.vl).drop w.ord).foldl (orderedStep t k w c f (pre.1.vr t)) (pre.1, pre.2, false, w.ord)
  let left := fun j => (laneElems w.cap.lanes w.cap.vl j).any fun i => decide (r.2.2.2 ≤ i) && isActive (pre.1.vr t) w.cap.lanes c i
  let s := r.1.modWin t w.seq fun y => { y with ord := r.2.2.2 }
  lanes.foldl (fun s j =>
    match Tbl.find j r.2.1 with
    | some (.done fl) =>
      if left j then s
      else
        let s := match vd with | some d => s.lanePolicy (w.env t j) c w.cap.sew d | none => s
        let s := match w.cap.info u.instr with | some inf => s.laneHeal (w.env t j) inf | none => s
        let s := s.modWin t w.seq fun y => { y with sent := NMap.set y.sent j (k + 1) }
        let q := s.laneUnits (w.env t j) 0 (k + 1) (w.units.drop (k + 1)) fl
        q.1.settleLane t j w q.2
    | some st => s.settleLane t j w st
    | none => s) s

/-- A convoy with a rendezvous (02 R51). -/
def WinEntry.rdv (w : WinEntry) : Bool := w.units.any fun u => match w.cap.info u.instr with | some inf => inf.rdv | none => false

/-- The convoy lane j executes next: the first of its galley that it has not executed. A lane may run ahead of its commit pointer
only where a convoy waits for remote answers (13 R332, R333). -/
def Thread.laneNext (th : Thread) (j : Nat) : Option WinEntry :=
  th.window.find? fun w => seqLe (vget th.cp j 0) w.seq && NMap.get w.ran j == 0

/-- Lane j executes its next convoy, if it can. A rendezvous or an ordered convoy waits until the lane has committed all before
it; one of VRST with ORD until every older such convoy has been sent. -/
def State.laneGo (s : State) (t j : Nat) : State :=
  let th := s.th t
  if (Tbl.find j th.laneFault).isSome then s
  else match th.laneNext j with
    | none => s
    | some w =>
      let first := vget th.cp j 0 == w.seq
      match w.ordered with
      | some (k, u, c, vd, f) =>
        if first ∧ ¬ (w.ordOpen ∧ th.window.any fun y => seqLt y.seq w.seq && y.ordOpen) then
          s.runJoint t w k u c vd f (th.laneList.filter fun i =>
            vget th.cp i 0 == w.seq && (Tbl.find i th.laneFault).isNone && NMap.get w.ran i == 0)
        else s
      | none =>
        if w.rdv ∧ ¬ first then s
        else
          let q := s.laneUnits (w.env t j) (NMap.get w.sent j) 0 w.units 0
          q.1.settleLane t j w q.2

/-- Lane j takes what answers have come and executes its next convoy, if it can. Once a lane of the strand has faulted, or the
strand is being stopped, no lane begins a rendezvous convoy (02 R49 step 2). -/
def State.laneStep (s : State) (t j : Nat) (stop : Bool := false) : State :=
  let s := s.laneAdvance t j ((s.th t).window.length + 1)
  match (s.th t).laneNext j with
  | none => s
  | some w => if (stop ∨ (s.th t).laneFault ≠ []) ∧ w.rdv then s else s.laneGo t j

/-- How far lane j has come: its commit pointer and the convoys executed beyond it. -/
def Thread.laneMark (th : Thread) (j : Nat) : BitVec 32 × List Nat := (vget th.cp j 0, th.window.map fun w => NMap.get w.ran j)

/-- Lane j runs through its galley until it can go no further; at most n convoys. -/
def State.laneRun (s : State) (t j : Nat) (stop : Bool) : Nat → State
  | 0 => s
  | n + 1 =>
    let s' := s.laneStep t j stop
    if (s'.th t).laneMark j = (s.th t).laneMark j then s' else State.laneRun s' t j stop n

/-- Every lane runs as far as it can, in lane order, and FULL slots deliver; repeated while a round may free another. -/
def State.drainLanes (s : State) (t : Nat) (stop : Bool) : Nat → State
  | 0 => s
  | n + 1 =>
    if (s.th t).window.isEmpty ∧ ¬ (s.th t).rdvOpen then s
    else
      let s := (s.th t).laneList.foldl (fun s j => s.laneRun t j stop (s.th t).window.length) s
      State.drainLanes (s.deliverAll t) t stop n

/-- The lanes of strand t run as far as they can: rounds enough for every convoy of the window. -/
def State.drain (s : State) (t : Nat) : State := s.drainLanes t false ((s.th t).window.length + 1)

/-- A vector remote element of strand t has no answer yet: a drain waits for it (13 R332). -/
def State.awaitsRemote (s : State) (t : Nat) : Bool :=
  s.remotes.any fun r => r.thr == t && r.answer.isNone && r.eseq.isNone

/-- The drain of R49 steps 2 and 3, for a strand that stops without a fault of its lanes (02 R57, 03 R77, 08 R227). -/
def State.drainStop (s : State) (t : Nat) : State := s.drainLanes t true ((s.th t).window.length + 1)

/-! ### The trap record of lane faults (02 R49, 03 R78) -/

/-- A fault comes before another in its convoy: an earlier instruction, then a lower element. -/
def LaneFault.before (a b : LaneFault) : Bool := a.idx < b.idx || (a.idx == b.idx && a.trap.elem ≤ b.trap.elem)

/-- The oldest convoy in which a lane has faulted. -/
def Thread.faultSeq (th : Thread) : Option (BitVec 32) :=
  th.laneFault.foldl (fun o (j, _) => match o with
    | none => some (vget th.cp j 0)
    | some q => some (if seqLt (vget th.cp j 0) q then vget th.cp j 0 else q)) none

/-- The window after lane faults: remote elements are sent afresh, and a convoy that stands alone (an atomic or a remote
store) begins again at the lane's lowest faulting element (05 R124). -/
def Thread.rewind (th : Thread) : Thread :=
  { th with
    window := th.window.map fun w =>
      let one := w.units.any fun u => match w.cap.info u.instr with | some inf => inf.alone | none => false
      { w with
        sent := th.laneFault.foldl (fun m (j, _) => if vget th.cp j 0 = w.seq then NMap.set m j 0 else m) w.sent
        rfault := w.rfault.filter fun (j, _) => vget th.cp j 0 != w.seq
        ran := []
        again := th.unfinished w
        ord := 0
        start := if one then th.laneFault.foldl (fun m (j, lf) =>
            if vget th.cp j 0 = w.seq then NMap.set m j lf.trap.elem else m) w.start else w.start }
    laneFault := [] }

/-- The engine-8 numbers of the remote writes that have stopped at faults complete: every element of theirs has been acknowledged,
has faulted or has timed out, once every lane has sent its own. The re-execution takes no new number (08 R209). -/
def State.endRemotes (s : State) (t : Nat) : State :=
  let th := s.th t
  let ended := fun (w : WinEntry) => w.eseq.isSome && th.laneList.all fun j =>
    seqLt w.seq (vget th.cp j 0) || NMap.get w.ran j != 0 || NMap.get w.sent j != 0
  (th.window.filter ended).foldl (fun s w =>
    match w.eseq with
    | some n => (s.completeEng t 8 n).modWin t w.seq fun y => { y with eseq := none }
    | none => s) s

/-- The record of the oldest faulting convoy, and the trap (02 R49 steps 4 and 5). The convoys that run again are broadcast again, so
their galley entries are written whole. -/
def State.recordLanes (s : State) (t : Nat) : State :=
  let s := (s.endRemotes t).heal fun u => match u with | .galley v _ _ => v == t | _ => false
  let th := s.th t
  match th.faultSeq with
  | none => s
  | some q =>
    let fs := th.laneFault.filter fun (j, _) => vget th.cp j 0 == q
    let best := fs.foldl (fun o (_, lf) => match o with
      | none => some lf | some b => if b.before lf then some b else some lf) (none : Option LaneFault)
    let mask := fs.foldl (fun m (j, _) => m ||| (1#32 <<< j)) 0#32
    let pc := match th.window.find? (·.seq == q) with | some w => w.pc | none => th.pc
    match best with
    | none => s
    | some lf =>
      (s.modTh t fun th => (th.trapBlock (some q)).rewind).takeTrap t lf.trap
        { eng := 0, chan := 0, eseq := 0, pc, seq := q, lanes := mask, refetch := th.pc }

end Machine
end Sys2Proof
end

