-- ==== Sys2Proof/Machine/Strand.lean ====
section
/-! DEFINITION. Strand issue: fetch and convoy formation (02 R43, 06 R146, 10 R252, R256), what stands before every
instruction of a strand or supervisor core, and the two shared operations every strand meaning goes through:
`scalarExec` and `vectorExec` (02 R44-R50, 05 R117, 11 R275, R276). -/

namespace Sys2Proof.Machine

/-! ### Fetch (06 R146, 10 R256) -/

/-- A trap with a cause alone. -/
def causeTrap (cause : BitVec 8) : Trap := { cause, sub := 0, elem := 0, addr := 0 }

/-- One instruction word at va. -/
def State.fetchWord (s : State) (t : Nat) (va : Word) : State × Except Trap Nat :=
  s.readElem (s.ctxOf t) 0 .fetch false va 4

/-- n words from va; the fault of the lowest address first. -/
def State.fetchWords (s : State) (t : Nat) (va : Word) : Nat → State × Except Trap (List Nat)
  | 0 => (s, .ok [])
  | n + 1 => match s.fetchWord t va with
    | (s, .error tr) => (s, .error tr)
    | (s, .ok w) => match State.fetchWords s t (va + 4) n with
      | (s, .error tr) => (s, .error tr)
      | (s, .ok ws) => (s, .ok (w :: ws))

/-- The cause of a decoder's refusal (10 R256 checks 2-7). -/
def decodeCause : DecodeErr → BitVec 8
  | .orphanFirst => 0x02
  | .orphanPrefix => 0x02
  | _ => 0x01

/-- One unit at pc: all the words its LEN gives it, and the instruction or the trap of its first failing check (10 R250, R256). -/
def State.fetchUnit (s : State) (t : Nat) (pc : Word) : State × Except Trap (Instr × List Nat) :=
  match s.fetchWord t pc with
  | (s, .error tr) => (s, .error tr)
  | (s, .ok w0) =>
    match s.fetchWords t (pc + 4) (unitWords w0 - 1) with
    | (s, .error tr) => (s, .error tr)
    | (s, .ok ws) => match decodeStrand (w0 :: ws) with
      | .error e => (s, .error (causeTrap (decodeCause e)))
      | .ok i => (s, .ok (i, w0 :: ws))

/-- A vector instruction: one that may stand in a convoy with others. -/
def isVector (i : Instr) : Bool := (vinfo 0 0 i).isSome

/-- The convoy that begins at pc, at most n units: it ends at the first unit with C = 0. A scalar instruction that
carries C = 1, or that a chain reaches, marks it CONVOY (02 R43, R44). -/
def State.fetchConvoy (s : State) (t : Nat) : Nat → Word → Bool → State × List CUnit × Option Trap
  | 0, _, _ => (s, [], some (causeTrap 0x03))
  | n + 1, pc, first =>
    match s.fetchUnit t pc with
    | (s, .error tr) => (s, [], some tr)
    | (s, .ok (i, ws)) =>
      let u : CUnit := { instr := i, bytes := 4 * ws.length }
      if isVector i then
        if unitC ws then
          match State.fetchConvoy s t n (pc + BitVec.ofNat 64 u.bytes) false with
          | (s, us, f) => (s, u :: us, f)
        else (s, [u], none)
      else (s, [u], if unitC ws ∨ ¬ first then some (causeTrap 0x03) else none)

/-- A convoy takes its place behind the strand queue. Outside a handler it takes the next sequence number (02 R43,
R50). -/
def Thread.enqueue (th : Thread) (pc : Word) (us : List CUnit) (fault : Option Trap) : Thread :=
  { th with
    queue := th.queue ++ [{ pc, seq := th.sys.cseq.setWidth 32, units := us, fault }]
    sys := if th.inh then th.sys else { th.sys with cseq := (th.sys.cseq.setWidth 32 + 1).setWidth 64 } }

/-- The PC of the unit that follows a convoy. -/
def Fetched.next (f : Fetched) : Word := f.pc + BitVec.ofNat 64 (f.units.map (·.bytes)).sum

/-- The PC at which fetch goes on. -/
def Thread.fetchPc (th : Thread) : Word := match th.queue.getLast? with | some f => f.next | none => th.pc

/-- Fetch appends one whole convoy to the queue of thread t. -/
def State.fetch (s : State) (t : Nat) : State :=
  let pc := (s.th t).fetchPc
  let q := s.fetchConvoy t 64 pc true
  q.1.modTh t fun th => th.enqueue pc q.2.1 q.2.2

/-! ### The head of the queue -/

/-- The queue without its convoys, which give back their sequence numbers (02 R49 step 1, 11 R276). -/
def Thread.discard (th : Thread) : Thread :=
  { th with queue := [], sys := match th.queue with | [] => th.sys | f :: _ => { th.sys with cseq := f.seq.setWidth 64 } }

/-- The queue of thread t with the convoy of instruction i at its head: the fetched one, or i standing alone at the PC. -/
def Thread.withHead (th : Thread) (i : Instr) : Thread :=
  match th.queue with
  | f :: _ => match f.units with
    | u :: _ => if u.instr = i then th else th.discard.enqueue th.pc [{ instr := i, bytes := 4 * (encode i).length }] none
    | [] => th.discard.enqueue th.pc [{ instr := i, bytes := 4 * (encode i).length }] none
  | [] => th.enqueue th.pc [{ instr := i, bytes := 4 * (encode i).length }] none

/-- The convoy at the head of the queue. -/
def Thread.head (th : Thread) : Fetched := th.queue.headD { pc := th.pc, seq := 0, units := [], fault := none }

/-- The head convoy f leaves the queue and pc goes on at `pc`: the convoys behind it stay only when they follow it. -/
def Thread.leave (th : Thread) (f : Fetched) (pc : Word) : Thread :=
  let rest := th.queue.drop 1
  if pc = f.next then { th with queue := rest, pc }
  else { ({ th with queue := rest } : Thread).discard with pc }

/-- One step of thread t passes: at least one cycle of its cluster, how many more is free (assumption log 8). -/
def State.tock (s : State) (t : Nat) : State :=
  let s' := match s.cluOf t with | some k => s.passCycles k (Config.freeNat s.tick + 1) | none => s
  { s' with tick := s.tick + 1 }

/-- Thread t withdraws from the wait it is blocked in, to enter it again when it resumes (02 R56, 03 R77). -/
def State.withdraw (s : State) (t : Nat) : State :=
  match (s.th t).run with
  | .blocked w =>
    let s := s.modTh t fun th => { th with run := .running, resumed := (match w with | .mwait _ => true | _ => th.resumed) }
    (s.dropMonitors 0 t).dropMonitors 1 t
  | _ => s

/-- Strand t stops for the trap g at its head: its lanes drain under steps 2 and 3 of R49 first, and an older lane fault is
recorded instead. While a remote element is unanswered nothing is recorded yet (13 R332): the convoy stays at the head. In a
handler the lanes stand still. -/
def State.stopAt (s : State) (t : Nat) (g : State → State) : State :=
  if (s.th t).inh then g s
  else
    let s := s.drainStop t
    if s.awaitsRemote t then s
    else if (s.th t).laneFault ≠ [] then (s.withdraw t).recordLanes t else g s

/-- A trap of the convoy f before it has any effect: it will run again (11 R276), and TRAPPC is its first word, for a fetch fault at a later
unit too (10 R256; assumption log 113). -/
def State.rerun (s : State) (t : Nat) (f : Fetched) (tr : Trap) : State :=
  s.stopAt t fun s => s.takeTrap t tr (siteAt f.pc f.seq f.pc)

/-- The trap STEP of a thread the debugger steps, once its convoy has issued (08 R227). -/
def State.stepTrap (s : State) (t : Nat) (f : Fetched) : State :=
  if (s.th t).stepReq then
    (s.modTh t fun th => { th with stepReq := false }).takeTrap t (causeTrap 0x11) (siteAt f.pc f.seq (s.th t).pc)
  else s

/-- A step whose convoy has ended the thread, or has returned from its handler, traps too; one at a safe point has not issued (08
R227). -/
def State.endedStep (s : State) (t : Nat) (f : Fetched) : State :=
  match (s.th t).run with
  | .safept _ => s
  | _ => s.stepTrap t f

/-- A lane fault of strand t is recorded, once the other lanes have drained and every remote element is answered (02 R49, 13
R332). -/
def State.recordFault (s : State) (t : Nat) : State :=
  let s := (s.withdraw t).drain t
  if s.awaitsRemote t then s else s.recordLanes t

/-- The lanes of strand t run as far as they can, where the strand has to wait for them. In a handler they stand still. -/
def State.catchUp (s : State) (t : Nat) : State := if (s.th t).inh then s else s.drain t

/-- The lanes of strand t take a turn (05 R117): each executes the convoy at its commit pointer, if it can, and FULL slots
deliver; after a lane fault, the record. -/
def State.lanesTurn (s : State) (t : Nat) : State :=
  (if (s.th t).laneFault ≠ [] then s.recordFault t
   else ((s.th t).laneList.foldl (fun s j => s.laneStep t j) s).deliverAll t).tock t

/-- The engine fault that waits for thread t's convoy boundary is recorded (03 R77). Lane faults that the drain meets are
met again after the resume. -/
def State.reportEngine (s : State) (t : Nat) : State :=
  match (s.th t).engFault with
  | [] => s
  | e :: rest =>
    let s := (s.withdraw t).drainStop t
    if s.awaitsRemote t then s else
    (s.modTh t fun th => { th.rewind with engFault := rest }).takeTrap t e.trap
      { eng := e.eng, chan := e.chan, eseq := e.eseq, pc := e.pc, seq := e.cseq, lanes := 0, refetch := (s.th t).pc }

/-- A PC breakpoint of the thread matches its head convoy (08 R226); the first convoy after an ERET with STATUS.BSKIP set matches
none (03 R69). -/
def Thread.breaks (th : Thread) (pc : Word) : Bool :=
  !(th.skipNow && !th.inh) &&
  th.dbgPc.toList.any fun (w, _) => getBit w 0 && getField w 2 46 == getField pc 2 46

/-- BSKIP is cleared at the first issue after an ERET that found it set (03 R69). -/
def Thread.clearSkip (th : Thread) : Thread :=
  if th.skipNow && !th.inh then
    { th with skipNow := false, sys := { th.sys with status := putBit th.sys.status stBSKIP false } }
  else th

/-- A (PC, engine sequence number) breakpoint that a command of thread t would meet (08 R226): the trap BREAK. -/
def Thread.engBreak (th : Thread) (pc : Word) (eng chan : Nat) (eseq : BitVec 32) : Bool :=
  th.dbgEng.toList.any fun (a, b) => getBit a 0 && getField a 2 46 == getField pc 2 46 &&
    getField b 0 32 == eseq.toNat && getField b 32 4 == eng && (eng != 1 || getField b 36 3 == chan)

/-- What stands before every instruction of a strand or supervisor core: the thread that runs, the convoy of i at the head
of its queue, a pending engine fault, a mark of fetch or decode, a breakpoint; then `body`. -/
def strandIssue (i : Instr) (s : State) (body : State → Nat → Fetched → Out) : Out :=
  if ¬ s.mgmt.powered then .fault .poweredOff
  else match s.cur with
  | .thread t =>
    if ¬ s.runnable t then .fault .noThread
    else if (s.th t).kind = .control then .fault .wrongAgent
    else
      let s := s.modTh t fun th => th.withHead i
      let f := (s.th t).head
      if (s.th t).engFault ≠ [] then .next ((s.reportEngine t).tock t)
      else if (s.th t).breaks f.pc then .next ((s.rerun t f (causeTrap 0x10)).tock t)
      else body s t f
  | _ => .fault .noThread

/-! ### Scalar instructions (11 R275, R276) -/

/-- What a scalar instruction does once nothing holds it. -/
inductive Eff where
  /-- it has executed; the next unit follows -/
  | ok (s : State)
  /-- it has executed, and g is what its own write leaves at the end of its cycle (08 R213) -/
  | okThen (s : State) (g : State → State)
  /-- it has executed; pc goes on elsewhere -/
  | jump (s : State) (pc : Word)
  /-- a re-run cause -/
  | trap (s : State) (tr : Trap)
  /-- an after cause, with the PC to go on at -/
  | after (s : State) (tr : Trap) (pc : Word)
  /-- it stays at the head of the queue, blocked in a wait of R56 or not -/
  | wait (s : State) (w : Option Wait)
  /-- the thread has ended -/
  | ended (s : State)
  /-- an engine breakpoint: BREAK, with the number the command would have taken -/
  | brk (s : State) (eng chan : Nat) (eseq : BitVec 32)

/-- A scalar convoy leaves the head of the queue: it counts as committed in every lane that had committed all before it
(02 R45, R46). -/
def Thread.issueScalar (th : Thread) (f : Fetched) (pc : Word) : Thread :=
  let inh := th.inh
  let th := (th.clearSkip).leave f pc
  { th with
    run := .running
    resumed := false
    cp := if inh then th.cp else th.cp.mapIdx fun j c => if j < th.lanes ∧ c = f.seq then f.seq + 1 else c }

/-- The counts of a scalar convoy that has executed, in a handler or not (08 R213, R219). -/
def State.countScalar (s : State) (t : Nat) (f : Fetched) : State := (s.count t 0x004 1).convoyDone t f.seq f.pc

/-- The scalar convoy f has executed and the thread goes on at pc. -/
def State.finish (s : State) (t : Nat) (f : Fetched) (pc : Word) : State :=
  (s.modTh t fun th => th.issueScalar f pc).countScalar t f

/-- The outcome of a scalar instruction. -/
def State.settle (t : Nat) (f : Fetched) : Eff → State
  | .ok s => ((s.finish t f f.next).stepTrap t f).tock t
  | .okThen s g => g (((s.finish t f f.next).stepTrap t f).tock t)
  | .jump s pc => ((s.finish t f pc).stepTrap t f).tock t
  | .trap s tr => (s.rerun t f tr).tock t
  | .after s tr pc => ((s.finish t f pc).takeTrap t tr (siteAt f.pc f.seq pc)).tock t
  | .wait s w => (s.modTh t fun th => { th with run := match w with | some w => .blocked w | none => .running }).tock t
  | .ended s => (s.endedStep t f).tock t
  | .brk s e c n => (s.stopAt t fun s =>
      s.takeTrap t (causeTrap 0x10) { (siteAt f.pc f.seq f.pc) with eng := e, chan := c, eseq := n }).tock t

/-- The registers an STCHK of thread t has still to write (14 R347, 03 R77). -/
def State.engPending (s : State) (t : Nat) : List (BitVec 5) :=
  s.cmds.filterMap fun c => if c.thr = t then (match c.body with | .stchk _ _ _ _ _ _ _ xd _ => xd | _ => none) else none

/-- The scalar registers of thread t that an earlier instruction has still to write (02 R45, 14 R347). -/
def State.pendingRegs (s : State) (t : Nat) : List XReg := (s.th t).pendingX ++ s.engPending t

/-- The head of thread t waits: a register it uses is pending (02 R45, 14 R347), or, with `drain`, a bound lane has still to
commit an earlier convoy (05 R117, 03 R68). -/
def State.mustWait (s : State) (t : Nat) (drain : Bool) (uses : List XReg) : Bool :=
  uses.any (s.pendingRegs t).contains || (drain && !(s.th t).inh && !(s.th t).window.isEmpty)

/-- An outcome that the lanes have to be drained for: a trap after the convoy, or a wait. -/
def Eff.halts : Eff → Bool
  | .after _ _ _ => true
  | .wait _ _ => true
  | _ => false

/-- An outcome whose instruction has executed: register d is written whole (04 R111). -/
def Eff.heal (t : Nat) (d : Option XReg) (e : Eff) : Eff :=
  let h := fun (s : State) => match d with | some r => s.heal (· == .xreg t r.toNat) | none => s
  match e with
  | .ok s => .ok (h s)
  | .okThen s g => .okThen (h s) g
  | .jump s pc => .jump (h s) pc
  | .after s tr pc => .after (h s) tr pc
  | .trap s tr => .trap s tr
  | .wait s w => .wait s w
  | .ended s => .ended s
  | .brk s a b c => .brk s a b c

/-- The scalar registers that hold an error among those listed; x0 is none (04 R111). -/
def State.struckX (s : State) (t : Nat) (l : List XReg) : Bool := l.any fun r => r != 0 && s.struck (.xreg t r.toNat)

/-- The first register an instruction names is a source, or it names none to write. -/
def readsFirst : Instr → Bool
  | .st _ _ _ _ | .stIndexed _ _ _ _ | .stl _ _ _ _ | .ffma _ _ _ _ | .csrw _ _ | .csrs _ _ | .csrc _ _ => true
  | .beq _ _ _ | .bne _ _ _ | .blt _ _ _ | .bge _ _ _ | .bltn _ _ _ | .bgen _ _ _ => true
  | .boxw _ _ | .capstop _ | .sample _ | .xchain _ _ | .xwait _ _ _ | .bin _ _ | .walk _ _ _ | .stkeep _ _ _ | .stdrop _ _ => true
  | .msend _ _ _ _ | .mpost _ | .wmpub _ _ _ | .tkpost _ _ | .launch _ _ => true
  | _ => false

/-- The register that a scalar instruction only writes, of those it names. -/
def scalarDest (i : Instr) (uses : List XReg) : Option XReg := if readsFirst i then none else uses.head?

/-- The registers that a scalar instruction reads, of those it names. -/
def scalarSources (i : Instr) (uses : List XReg) : List XReg := if readsFirst i then uses else uses.drop 1

/-- A scalar instruction: it executes beside its lanes, wherever they stand, unless it must wait for them; then they run as
far as they can first. A source that holds an error traps POISON (04 R111). f gives its effect. -/
def scalarExec (i : Instr) (s : State) (drain : Bool) (uses : List XReg) (f : State → Nat → Fetched → Eff) : Out :=
  strandIssue i s fun s t h =>
    if h.fault.isSome then .next ((s.rerun t h (h.fault.getD (causeTrap 0x01))).tock t)
    else
      let s := if s.mustWait t drain uses ∨ (s.th t).stepReq then s.catchUp t else s
      if (s.th t).laneFault ≠ [] then .next ((s.recordFault t).tock t)
      else if s.mustWait t drain uses then .next (s.tock t)
      else if s.struckX t (scalarSources i uses) then .next ((s.rerun t h (upsetTrap 0)).tock t)
      else
        let g := fun s => (f s t h).heal t (scalarDest i uses)
        if ¬ (g s).halts then .next (State.settle t h (g s))
        else
          let s := s.catchUp t
          if (s.th t).laneFault ≠ [] then .next ((s.recordFault t).tock t) else .next (State.settle t h (g s))

/-! ### Vector convoys (02 R44, R45, R47, 10 R256) -/

/-- The values a broadcast captures (03 R68). -/
def Thread.capture (th : Thread) : Captured :=
  let r := th.sys
  { x := th.x, rmode := r.rmode, ftrapen := r.ftrapen, vcfgv := r.vcfgv, vlen := r.vlen, ststep := r.ststep,
    stthr := r.stthr, stmetric := r.stmetric, msgep := r.msgep, wmark := r.wmark, vcarry := r.vcarry,
    laneshare := r.laneshare }

/-- Check 8 of R256 on one instruction: every register below n, and the widths agree with VSEW. -/
def unitIllegal (c : Captured) (u : CUnit) : Bool :=
  match c.info u.instr with
  | none => false
  | some inf => !inf.wok || (inf.vr ++ inf.mreg ++ inf.vw).any fun r => nregsOf c.vcfgv ≤ r.toNat

/-- The rules of R44 that a convoy of vector instructions can break. -/
def convoyBreaks (c : Captured) (us : List CUnit) : Bool :=
  let infs := us.filterMap fun u => c.info u.instr
  decide (4 < us.length) || decide (1 < (infs.filter (·.mem)).length) || (infs.dropLast.any (·.rdv)) ||
  (decide (1 < us.length) && infs.any (·.alone)) ||
  infs.zipIdx.any fun (inf, k) =>
    let before := infs.take (k + 1)
    inf.vw.any (fun r => before.any fun b => (b.vr ++ b.mreg).contains r) ||
    inf.xw.any (fun r => before.any fun b => b.xr.contains r)

/-- The trap of a convoy's decode checks, in order: check 8 of each unit read, then the mark of fetch and decode, then
CONVOY (10 R256). -/
def convoyTrap (c : Captured) (f : Fetched) : Option Trap :=
  if f.units.any (unitIllegal c) then some (causeTrap 0x01)
  else match f.fault with
    | some tr => some tr
    | none => if convoyBreaks c f.units then some (causeTrap 0x03) else none

/-- BOUNDS with nothing more. -/
def boundsTrap : Trap := causeTrap 0x0D

/-- A tile instruction's base of w-bit elements is misaligned (13 R334). -/
def tileMisaligned (w : Nat) (b : Word) : Option Trap :=
  if 16 ≤ w ∧ b.toNat % (w / 8) ≠ 0 then some { boundsTrap with addr := b } else none

/-- A binding that names an entry with an error, or none of the region (04 R111, 07 R192). -/
def State.badBinding (s : State) (t : Nat) (c : Captured) : Option Trap :=
  if c.wmark.toList.any fun b => getBit b 31 && s.struck (.table ((s.region (s.ridOf t)).home % 4) 3 (getField b 0 8)) then some (upsetTrap 0)
  else if c.wmark.toList.any fun b => getBit b 31 && (s.wmEntry (s.ridOf t) b).isNone then
    some { boundsTrap with sub := 0x01 } else none

/-- The distribution entry and owner words of VFGATH and VFSCAT, read and checked at issue (07 R185, 13 R331). -/
def State.distIssue (s : State) (t : Nat) (a : Word) : State × Except Trap (Option (DistEntry × List Nat)) :=
  match s.distOf t a with
  | none => (s, .error boundsTrap)
  | some d =>
    if s.struck (.table (s.dieOf t) 2 (getField a 0 10)) then (s, .error (upsetTrap 0)) else
    let r := (List.range d.nown).foldl (fun (acc : State × Except Trap (List Nat)) k =>
      match acc with
      | (s, .error tr) => (s, .error tr)
      | (s, .ok ws) => match s.readElem (s.ctxOf t) 0 .read false (d.ownlist + BitVec.ofNat 64 (4 * k)) 4 with
        | (s, .error tr) => (s, .error tr)
        | (s, .ok w) => (s, if fld w 14 8 ≠ 0 ∨ 992 < fld w 22 10 then .error boundsTrap else .ok (ws ++ [w]))) (s, .ok [])
    (r.1, r.2.map fun ws => some (d, ws))

/-- The owner list that a convoy of thread t reads at issue is still to be written by the thread's own engine work: the convoy
waits (05 R126). -/
def State.ownersHeld (s : State) (t : Nat) (c : Captured) (f : Fetched) : Bool :=
  f.units.any fun u => match (match u.instr with
      | .vfgath _ _ x _ => s.distOf t (c.rx x) | .vfscat _ _ x _ => s.distOf t (c.rx x) | _ => none) with
    | some d => s.interlocked t false d.ownlist (4 * d.nown)
    | none => false

/-- An operand wider than VSEW must hold VLEN elements (12 R317). -/
def wideTrap (c : Captured) (w : Nat) : Option Trap :=
  if c.sew < w ∧ c.mvl * c.sew / w < c.vl then some boundsTrap else none

/-- VLEN is whole blocks in every lane (12 R322). -/
def blockTrap (c : Captured) (l : BlkLen) : Option Trap :=
  if c.vl % (c.lanes * blkLen l) ≠ 0 then some boundsTrap else none

/-- The first of two traps. -/
def orTrap (a b : Option Trap) : Option Trap := match a with | some x => some x | none => b

/-- The trap that rules of 12 and 13 place at issue of an instruction of a convoy. -/
def State.issueCheck (s : State) (t : Nat) (c : Captured) : Instr → Option Trap
  | .vcvt _ dt st _ _ => wideTrap c (max (elWidth c.sew dt) (elWidth c.sew st))
  | .vcvte _ _ _ _ _ => wideTrap c 32
  | .vpack _ _ l _ _ => orTrap (wideTrap c 32) (blockTrap c l)
  | .vunpack _ _ l _ _ => orTrap (wideTrap c 32) (blockTrap c l)
  | .vnzidx _ _ _ _ => if 2 ^ c.sew - 1 < c.vl then some boundsTrap else none
  | .vtopk _ _ _ _ _ _ _ n =>
    if n = 0 ∨ c.mvl < n.toNat ∨ 2 ^ c.sew - 1 < c.vl then some boundsTrap else none
  | .visect _ _ _ _ _ _ xn =>
    if c.vl < getField (c.rx xn) 0 32 ∨ c.vl < getField (c.rx xn) 32 32 then some boundsTrap else none
  | .vld _ _ _ _ => s.badBinding t c
  | .vlds _ _ _ _ => s.badBinding t c
  | .vldx _ _ _ _ => s.badBinding t c
  | .vldo _ _ _ _ => s.badBinding t c
  | .vlda _ _ _ _ _ => s.badBinding t c
  | .tld _ o x _ => tileMisaligned c.sew (c.rx x + o.signExtend 64)
  | .tst _ o x _ => tileMisaligned c.sew (c.rx x + o.signExtend 64)
  | .tfill _ o x _ => tileMisaligned c.sew (c.rx x + o.signExtend 64)
  | .trot _ y x => orTrap (tileMisaligned c.sew (c.rx x)) (tileMisaligned c.sew (c.rx y))
  | _ => none

/-- The issue of an instruction of a convoy: its trap, or what it reads at issue (07 R185). -/
def State.issueOne (s : State) (t : Nat) (c : Captured) (i : Instr) : State × Except Trap (Option (DistEntry × List Nat)) :=
  match i with
  | .vfgath _ _ x _ => s.distIssue t (c.rx x)
  | .vfscat _ _ x _ => s.distIssue t (c.rx x)
  | i => (s, match s.issueCheck t c i with | some tr => .error tr | none => .ok none)

/-- The issue of a convoy's instructions: the first trap, or what they read. A captured register that holds an error comes first (04
R111). -/
def State.issueTraps (s : State) (t : Nat) (c : Captured) (us : List CUnit) : State × Except Trap (Option (DistEntry × List Nat)) :=
  if s.struckX t (us.flatMap fun u => match c.info u.instr with | some inf => inf.xr | none => []) then (s, .error (upsetTrap 0)) else
  us.foldl (fun (acc : State × Except Trap (Option (DistEntry × List Nat))) u => match acc with
    | (s, .error tr) => (s, .error tr)
    | (s, .ok o) => match s.issueOne t c u.instr with
      | (s, .error tr) => (s, .error tr)
      | (s, .ok o') => (s, .ok (o.or o'))) (s, .ok none)

/-- A vector acquire (05 R121): VLDA, a vector atomic with the acquire attribute, and VWAIT. -/
def acquires : Instr → Bool
  | .vlda _ _ _ _ _ => true
  | .vamo _ _ _ _ q _ _ _ _ => q.aq
  | .vamocas _ _ _ q _ _ _ _ => q.aq
  | .vwait _ _ _ _ _ _ _ _ _ => true
  | _ => false

/-- Some lane has still to perform an acquire of an earlier convoy: no later access may be performed before it (05 R121). -/
def Thread.acquiring (th : Thread) : Bool := th.window.any fun w => w.units.any fun u => acquires u.instr

/-- Broadcast of the head convoy is possible: no captured register is pending, the slip bound holds, a rendezvous has a
slot, a convoy ordered after the lanes finds none behind, and one that accesses memory no acquire (02 R45, R47, R51, 05 R117,
R121, 06 R148). -/
def Thread.canBroadcast (th : Thread) (pending : List XReg) (c : Captured) (f : Fetched) : Bool :=
  let infs := f.units.filterMap fun u => c.info u.instr
  let bound := if th.stepReq then 0 else th.slipBound
  !(infs.any fun inf => (inf.xr ++ inf.xw).any pending.contains) &&
  decide ((f.seq - th.minCp).toNat ≤ bound) &&
  (!(infs.any (·.rdv)) || (!th.carryPending && th.slots.toList.any (·.state == .empty))) &&
  (!(infs.any (·.drain)) || th.window.isEmpty) && (!(infs.any (·.mem)) || !th.acquiring)

/-- The convoy enters the replay window and every bound galley; a rendezvous takes an EMPTY slot (02 R45, R48, R51). -/
def Thread.broadcastConvoy (th : Thread) (c : Captured) (f : Fetched) (eseq : Option (BitVec 32))
    (dist : Option (DistEntry × List Nat)) : Thread :=
  let rdv := f.units.find? fun u => match c.info u.instr with | some inf => inf.rdv | none => false
  let th := (th.clearSkip).leave f f.next
  let w : WinEntry :=
    { seq := f.seq, pc := f.pc, units := f.units, cap := c, start := [], eseq, cover := [], sent := [], rfault := [], ran := [],
      again := [], ord := 0, dist }
  let th := { th with window := th.window ++ [w] }
  match rdv with
  | none => th
  | some u => match (List.range 4).find? fun k => (vget th.slots k Slot.reset).state == .empty with
    | none => th
    | some k =>
      let sl : Slot := { state := .part, seq := f.seq, arrived := 0, instr := some u.instr, cap := some c, parts := [] }
      { th with slots := vset th.slots k sl }

/-- Broadcast of the head convoy of thread t: it leaves the queue, its galley entries and its slot are written, and a remote store or
remote vector atomic takes its number of engine 8 (14 R348). -/
def State.broadcast (s : State) (t : Nat) (c : Captured) (f : Fetched) (dist : Option (DistEntry × List Nat)) : State :=
  let e8 := f.units.any fun u => match c.info u.instr with | some inf => inf.eng8 | none => false
  let n := (s.th t).nextEseq 8
  let s := s.modTh t fun th => th.broadcastConvoy c f (if e8 then some n else none) dist
  let s := s.heal fun u => match u with
    | .galley v _ q => v == t && q == f.seq
    | .slot v k => v == t && (vget (s.th t).slots k Slot.reset).seq == f.seq && (vget (s.th t).slots k Slot.reset).isOpen
    | _ => false
  (if e8 then s.acceptEng t 8 0 n else s).count t 0x003 1

/-- What follows a broadcast: the trap STEP of a thread the debugger steps, once its lanes have drained (08 R227). -/
def State.afterBroadcast (s : State) (t : Nat) (f : Fetched) : State :=
  if (s.th t).stepReq then s.stopAt t fun s => s.stepTrap t f else s

/-! ### The lane-group arbiter (06 R147, R148) -/

/-- The physical lane groups that strand t binds, in ascending order. -/
def State.groupsOf (s : State) (t : Nat) : List Nat :=
  ((List.range 4).filter fun g => getBit (s.th t).sys.laneshare g).map fun g => ((s.mbOf t).half * 2 + g) % 4

/-- Entries that strand t holds in the galley of its lane j. -/
def Thread.galley (th : Thread) (j : Nat) : Nat := (th.window.filter fun w => seqLe (vget th.cp j 0) w.seq).length

/-- Strand s has work: its queue head is a vector convoy and it stands in no wait. -/
def State.hasWork (s : State) (t : Nat) : Bool :=
  s.runnable t && (s.th t).kind == .strand && (s.th t).run == .running && !(s.th t).inh &&
  (s.th t).head.units.any fun u => isVector u.instr

/-- Every bound galley has room for one convoy of strand t: 49 of its own, and 64 entries in all. -/
def State.galleyRoom (s : State) (peers : List Nat) (t : Nat) : Bool :=
  (List.range (s.th t).lanes).all fun j =>
    decide ((s.th t).galley j < 49) &&
    decide (((peers.filter fun u => (s.groupsOf u).contains ((s.groupsOf t).getD (j / 8) 0)).map fun u =>
      (s.th u).galley (((s.groupsOf u).findIdx (· == (s.groupsOf t).getD (j / 8) 0)) * 8 + j % 8)).sum < 64)

/-- The head of strand t can be granted. A convoy that fails its checks is granted too: it traps in place of its broadcast. -/
def State.ready (s : State) (peers : List Nat) (t : Nat) : Bool :=
  let th := s.th t
  s.hasWork t && th.laneFault.isEmpty && s.galleyRoom peers t &&
  ((convoyTrap th.capture th.head).isSome ||
    (th.canBroadcast (s.pendingRegs t) th.capture th.head && !s.ownersHeld t th.capture th.head))

/-- A granted convoy: its checks, then its broadcast (02 R44, R45). -/
def State.grant (s : State) (t : Nat) : State :=
  let f := (s.th t).head
  let c := (s.th t).capture
  if (s.th t).engFault ≠ [] then s.reportEngine t
  else if (s.th t).breaks f.pc then s.rerun t f (causeTrap 0x10)
  else match convoyTrap c f with
  | some tr => s.rerun t f tr
  | none => match s.issueTraps t c f.units with
    | (s, .error tr) => s.rerun t f tr
    | (s, .ok dist) =>
      let e8 := f.units.any fun u => match c.info u.instr with | some inf => inf.eng8 | none => false
      if e8 ∧ (s.th t).engBreak f.pc 8 0 ((s.th t).nextEseq 8) then
        s.stopAt t fun s => s.takeTrap t (causeTrap 0x10) { (siteAt f.pc f.seq f.pc) with eng := 8, eseq := (s.th t).nextEseq 8 }
      else (s.broadcast t c f dist).afterBroadcast t f

/-- The order of a list under a test of two entries: each entry stands before the first it precedes. -/
def sortBy (before : Nat → Nat → Bool) (l : List Nat) : List Nat :=
  l.foldl (fun acc x => acc.takeWhile (fun y => !before x y) ++ x :: acc.dropWhile (fun y => !before x y)) []

/-- Strand a goes before strand b at equal rank: by STRANDIDX, then by half. -/
def State.tieBefore (s : State) (a b : Nat) : Bool :=
  let i := fun t => (s.th t).sys.strandidx.toNat
  decide (i a < i b) || (i a == i b && decide ((s.mbOf a).half < (s.mbOf b).half))

/-- A new round: every strand with work takes its weight as credit. -/
def State.newRound (s : State) (ts : List Nat) : State :=
  if ts.any fun t => s.hasWork t && decide (0 < (s.th t).credit) then s
  else (ts.filter s.hasWork).foldl (fun s t => s.modTh t fun th => { th with credit := getField th.sys.laneshare 16 8 }) s

/-- The strands on cluster k. -/
def State.strandsOn (s : State) (k : Nat) : List Nat :=
  (List.range s.threads.length).filter fun t => (s.th t).kind == .strand && (s.th t).active && s.cluOf t == some k

/-- One cycle of the arbiter of cluster k: grants in order, then the credits and waits. -/
def State.arbitrate (s : State) (k : Nat) : State :=
  let ts := s.strandsOn k
  let s := s.newRound ts
  let ready := ts.filter (s.ready ts)
  let w := fun t => (s.th t).waitCnt
  let c := fun t => (s.th t).credit
  let urgent := sortBy (fun a b => decide (w b < w a) || (w a == w b && s.tieBefore a b)) (ready.filter fun t => decide (48 ≤ w t))
  let normal := sortBy (fun a b => decide (c b < c a) || (c a == c b && s.tieBefore a b))
    (ready.filter fun t => decide (w t < 48) && decide (0 < c t))
  let r := (urgent ++ normal).foldl (fun (acc : State × List Nat × List Nat) t =>
    if (s.groupsOf t).any acc.2.1.contains then acc
    else ((acc.1.grant t).modTh t fun th => { th with credit := th.credit - 1, waitCnt := 0 }, acc.2.1 ++ s.groupsOf t, acc.2.2 ++ [t]))
    (s, [], [])
  (ts.filter fun t => !r.2.2.contains t).foldl (fun s' t =>
    if s.hasWork t then s'.modTh t fun th => { th with waitCnt := min (th.waitCnt + 1) 63 }
    else s'.modTh t fun th => { th with waitCnt := 0, credit := 0 }) r.1

/-- A vector instruction i, first of its convoy: the checks of R256, then one cycle of its cluster's arbiter, which grants the
convoy its broadcast when its turn has come; its lanes execute it in their own turns. In a handler or on a supervisor core it
traps ILLEGAL (01 R24, 02 R50, 06 R148). -/
def vectorExec (i : Instr) (s : State) : Out :=
  strandIssue i s fun s t f =>
    if (s.th t).inh ∨ (s.th t).kind = .supervisor then .next ((s.rerun t f (causeTrap 0x01)).tock t)
    else
      let s := if (s.th t).canBroadcast (s.pendingRegs t) (s.th t).capture f ∨ (convoyTrap (s.th t).capture f).isSome then s
        else s.drain t
      if (s.th t).laneFault ≠ [] then .next ((s.recordFault t).tock t)
      else match convoyTrap (s.th t).capture f with
        | some tr => .next ((s.rerun t f tr).tock t)
        | none => .next ((s.arbitrate (cluKey (s.mbOf t).die (s.mbOf t).cluster)).tock t)

end Sys2Proof.Machine
end

