-- ==== Sys2Proof/Machine/Csr.lean ====
section
/-! DEFINITION. System registers: which numbers a thread may access, what a read gives and what a write leaves (03
R66-R87, 11 R292). -/

namespace Sys2Proof.Machine

/-- The assigned numbers and the kinds of thread that have them (03 R66). -/
def csrAssigned (kind : Kind) (n : Nat) : Bool :=
  let both := n ≤ 0x004 || n == 0x015 || (0x020 ≤ n && n ≤ 0x028) || (0x030 ≤ n && n ≤ 0x034) || n == 0x038 ||
    (0x050 ≤ n && n ≤ 0x052) || (0x060 ≤ n && n ≤ 0x064) || (0x080 ≤ n && n ≤ 0x087) || (0x090 ≤ n && n ≤ 0x097) ||
    n == 0x800 || n == 0x801
  let strand := (0x010 ≤ n && n ≤ 0x014) || (0x040 ≤ n && n ≤ 0x047) || (0x088 ≤ n && n ≤ 0x08F) || (0x098 ≤ n && n ≤ 0x09F)
  let control := n == 0x065 || n == 0x066 || n == 0x070 || n == 0x071
  both || (match kind with | .control => control | _ => strand)

/-- The registers whose fields are all RO (03 R67 check 3). -/
def csrReadOnly (n : Nat) : Bool :=
  (0x011 ≤ n && n ≤ 0x013) || n == 0x015 || (0x020 ≤ n && n ≤ 0x025) || (0x030 ≤ n && n ≤ 0x034) || n == 0x060 ||
  n == 0x063 || n == 0x066 || n == 0x071 || n == 0x801

/-- The registers an access to which waits for the lanes (03 R68). -/
def csrWaits (n : Nat) : Bool :=
  n == 0x002 || n == 0x004 || n == 0x060 || (0x080 ≤ n && n ≤ 0x08F) || (0x090 ≤ n && n ≤ 0x09F)

/-- SBTAGS.PEND: the tags whose result is outstanding (03 R86). -/
def Thread.pendTags (th : Thread) : Word :=
  th.inflight.foldl (fun (w : Word) (i : Inflight) => if i.tag = 0 then w else w ||| (1#64 <<< i.tag.toNat)) 0#64

/-- The value a read of system register n gives. -/
def State.csrGet (s : State) (t n : Nat) : Word :=
  let th := s.th t
  let r := th.sys
  if 0x040 ≤ n ∧ n ≤ 0x047 then vget r.wmark (n - 0x040) 0
  else if 0x080 ≤ n ∧ n ≤ 0x08F then vget r.pmccfg (n - 0x080) 0
  else if 0x090 ≤ n ∧ n ≤ 0x09F then vget r.pmc (n - 0x090) 0
  else match n with
  | 0x000 => r.status | 0x001 => r.rmode | 0x002 => r.fflags | 0x003 => r.ftrapen | 0x004 => r.vcarry
  | 0x010 => putField r.slip 8 6 th.slipCur
  | 0x011 => r.vcfgv | 0x012 => r.vlen | 0x013 => BitVec.ofNat 64 (sewOf r.vcfgv) | 0x014 => r.laneshare
  | 0x015 => r.cseq
  | 0x020 => r.trapcause | 0x021 => r.trappc | 0x022 => r.trapseq | 0x023 => r.traplanes | 0x024 => r.trapelem
  | 0x025 => r.trapaddr | 0x026 => r.trapvec | 0x027 => r.trapscr0 | 0x028 => r.trapscr1
  | 0x030 => r.ctxid | 0x031 => r.teamidx | 0x032 => r.teamsize | 0x033 => r.strandidx | 0x034 => s.cycleOf t
  | 0x038 => r.msgep
  | 0x050 => r.ststep | 0x051 => r.stthr | 0x052 => r.stmetric
  | 0x060 => r.capstate | 0x061 => r.sampcfg | 0x062 => r.sampbase | 0x063 => r.samphead | 0x064 => r.samptail
  | 0x065 => r.colbase | 0x066 => r.colhead | 0x070 => r.sbchk | 0x071 => th.pendTags
  | 0x800 => r.ctxarea | 0x801 => r.physclu
  | _ => 0

/-- The event codes of R213 that a kind of thread may count. -/
def eventListed (kind : Kind) (c : Nat) : Bool :=
  let both := c ≤ 0x001 || (0x020 ≤ c && c ≤ 0x025)
  both || (match kind with
    | .control => 0x080 ≤ c && c ≤ 0x085
    | _ => (0x002 ≤ c && c ≤ 0x007) || (0x010 ≤ c && c ≤ 0x016))

/-- The checks and the write of one register; none when it would place a reserved encoding in a field. `maxw` bounds
LANESHARE.WEIGHT. -/
def Thread.csrPut (th : Thread) (n : Nat) (v : Word) : Option Thread :=
  let r := th.sys
  let set := fun (r : SysRegs) => some { th with sys := r }
  let mark := fun (k : Nat) => if getBit r.capstate 0 then th.wrmask ||| (1#16 <<< k) else th.wrmask
  if 0x040 ≤ n ∧ n ≤ 0x047 then
    set { r with wmark := vset r.wmark (n - 0x040) (mix 0x800000FF (vget r.wmark (n - 0x040) 0) v) }
  else if 0x080 ≤ n ∧ n ≤ 0x08F then
    if ¬ eventListed th.kind (getField v 0 12) then none
    else some { th with sys := { r with pmccfg := vset r.pmccfg (n - 0x080) (v &&& 0x30FFF) }, wrmask := mark (n - 0x080) }
  else if 0x090 ≤ n ∧ n ≤ 0x09F then
    some { th with sys := { r with pmc := vset r.pmc (n - 0x090) v }, wrmask := mark (n - 0x090) }
  else match n with
  | 0x000 => set { r with status := mix 0x8 r.status v }
  | 0x001 => if 6 ≤ getField v 0 3 then none else set { r with rmode := v &&& 0x1F }
  | 0x002 => set { r with fflags := v &&& 0x1F }
  | 0x003 => set { r with ftrapen := v &&& 0x1F }
  | 0x004 => set { r with vcarry := v &&& 0xFFFFFFFF }
  | 0x010 => set { r with slip := BitVec.ofNat 64 (min 48 (getField v 0 6)) }
  | 0x014 => if getField v 16 8 = 0 then none else set { r with laneshare := mix 0xFF0000 r.laneshare v }
  | 0x026 => if getField v 0 (if th.kind = .control then 3 else 2) ≠ 0 then none else set { r with trapvec := v }
  | 0x027 => set { r with trapscr0 := v }
  | 0x028 => set { r with trapscr1 := v }
  | 0x038 => set { r with msgep := v &&& 0x80003FFF }
  | 0x050 => set { r with ststep := v &&& 0xFFFFFFFF }
  | 0x051 => set { r with stthr := v &&& 0xFFFFFFFF }
  | 0x052 =>
    if 2 < getField v 8 3 ∨ getField v 4 4 = 0 ∨ 8 < getField v 4 4 ∨ getField v 0 2 = 3 then none
    else set { r with stmetric := v &&& 0x7F3 }
  | 0x061 =>
    if getField v 16 5 < 12 ∨ 30 < getField v 16 5 ∨ getField v 8 5 < 10 ∨ 24 < getField v 8 5 then none
    else
      let c := v &&& 0x1F1F03
      some { th with sys := { r with sampcfg := c },
                     lost := if getBit v 0 then th.lost else 0
                     adaptDue := th.adaptDue && getBit v 0
                     countdown := if getBit v 0 ∧ ¬ r.sampOn then 2 ^ getField v 8 5 + 1 else th.countdown }
  | 0x062 => set { r with sampbase := v &&& ~~~0xFFF }
  | 0x064 => set { r with samptail := v }
  | 0x065 => set { r with colbase := v &&& ~~~0xFFF }
  | 0x070 => set { r with sbchk := v &&& 0x101 }
  | 0x800 => set { r with ctxarea := v &&& 0xFFFFFFFFFF000 }
  | _ => some th

/-- A CSR operation (11 R292). -/
inductive CsrOp where | read | write | set | clear
  deriving DecidableEq, Repr

/-- The new value of a CSR operation. -/
def CsrOp.new (op : CsrOp) (old x : Word) : Word :=
  match op with | .read => old | .write => x | .set => old ||| x | .clear => old &&& ~~~x

/-- The four checks of R67 on an access, before the write itself. -/
def Thread.csrTrap (th : Thread) (op : CsrOp) (n : Nat) : Option Trap :=
  if ¬ csrAssigned th.kind n then some (causeTrap 0x01)
  else if 0x800 ≤ n ∧ ¬ getBit th.sys.status stSUP then some (causeTrap 0x04)
  else if op ≠ .read ∧ csrReadOnly n then some (causeTrap 0x01)
  else none

/-- The write of register n: SAMPTAIL out of its range traps BOUNDS (08 R218); a WEIGHT above the region's MAXW traps
LIMIT (07 R178); a SAMPTAIL write may change the period (08 R221). -/
def State.csrWrite (s : State) (t n : Nat) (v : Word) : State × Option Trap :=
  let th := s.th t
  if n = 0x064 ∧ (v.toNat < th.sys.samptail.toNat ∨ th.sys.samphead.toNat < v.toNat) then (s, some (causeTrap 0x0D))
  else if n = 0x014 ∧ (s.region (s.ridOf t)).maxw < getField v 16 8 then (s, some (causeTrap 0x16))
  else match th.csrPut n v with
    | none => (s, some (causeTrap 0x01))
    | some th' =>
      let s := s.modTh t fun _ => th'
      (if n = 0x064 then s.adaptPeriod t false else s, none)

/-- A CSR operation of thread t on register n with operand x: the old value, or the trap. -/
def State.csrAccess (s : State) (t : Nat) (op : CsrOp) (n : Nat) (x : Word) : State × Except Trap Word :=
  match (s.th t).csrTrap op n with
  | some tr => (s, .error tr)
  | none =>
    let old := s.csrGet t n
    if op = .read then (s, .ok old)
    else match s.csrWrite t n (op.new old x) with
      | (s', none) => (s', .ok old)
      | (_, some tr) => (s, .error tr)

/-- A write of PMCn stands whatever the same instruction counts (08 R213): the value thread t's counter has in s1. -/
def State.keepPmc (s1 : State) (t n : Nat) (op : CsrOp) (s : State) : State :=
  if op ≠ .read ∧ 0x090 ≤ n ∧ n ≤ 0x09F then
    s.modTh t fun th => { th with sys := { th.sys with pmc := vset th.sys.pmc (n - 0x090) (vget (s1.th t).sys.pmc (n - 0x090) 0) } }
  else s

/-- A strand's CSR instruction. An access to a register that waits for the lanes waits for the delivery of every rendezvous too
(03 R68). -/
def csrExec (i : Instr) (op : CsrOp) (xd : XReg) (num : BitVec 12) (s : State) : Out :=
  scalarExec i s (csrWaits num.toNat) [xd] fun s t _ =>
    if csrWaits num.toNat ∧ (s.th t).rdvOpen ∧ ¬ (s.th t).inh then .wait s none
    else match s.csrAccess t op num.toNat ((s.th t).rx xd) with
    | (s, .error tr) => .trap s tr
    | (s, .ok old) => .okThen (s.modTh t (·.wx xd old)) (s.keepPmc t num.toNat op)

end Sys2Proof.Machine
end

