-- ==== Sys2Proof/Machine/Scalar.lean ====
section
/-! DEFINITION. The strand scalar, control-flow and system instructions (11 R275-R297) and vector configuration (12 R298,
R299): one meaning each. -/

namespace Sys2Proof.Machine

/-! ### Integer operations (R278-R280) -/

/-- An effect that writes one register from the registers. -/
def regEff (xd : XReg) (g : Thread → Word) : State → Nat → Fetched → Eff := fun s t _ =>
  .ok (s.modTh t fun th => th.wx xd (g th))

/-- 1 or 0. -/
def boolWord (b : Bool) : Word := if b then 1 else 0

/-- Bits 127:64 of the signed product. -/
def mulhOf (a b : Word) : Word := BitVec.ofInt 64 (a.toInt * b.toInt / 2 ^ 64)

/-- Bits 127:64 of the natural product. -/
def mulhnOf (a b : Word) : Word := BitVec.ofNat 64 (a.toNat * b.toNat / 2 ^ 64)

/-- The signed quotient of R230, rounded toward zero. -/
def divOf (a b : Word) : Word := if b = 0 then BitVec.allOnes 64 else BitVec.ofInt 64 (a.toInt.tdiv b.toInt)

/-- The natural quotient of R230. -/
def divnOf (a b : Word) : Word := if b = 0 then BitVec.allOnes 64 else BitVec.ofNat 64 (a.toNat / b.toNat)

/-- The signed remainder of R230, with the dividend's sign. -/
def remOf (a b : Word) : Word := if b = 0 then a else BitVec.ofInt 64 (a.toInt.tmod b.toInt)

/-- The natural remainder of R230. -/
def remnOf (a b : Word) : Word := if b = 0 then a else BitVec.ofNat 64 (a.toNat % b.toNat)

/-- The count of one bits. -/
def popcOf (a : Word) : Word := BitVec.ofNat 64 ((List.range 64).filter a.getLsbD).length

/-- The count of trailing zero bits; 64 for zero. -/
def ctzOf (a : Word) : Word := BitVec.ofNat 64 (((List.range 64).find? a.getLsbD).getD 64)

/-- The count of leading zero bits; 64 for zero. -/
def clzOf (a : Word) : Word := BitVec.ofNat 64 (((List.range 64).find? fun k => a.getLsbD (63 - k)).getD 64)

/-- ADD (R278). -/
def execAdd (xd xa xb : XReg) (s : State) : Out :=
  scalarExec (.add xd xa xb) s false [xd, xa, xb] (regEff xd fun th => th.rx xa + th.rx xb)
/-- SUB (R278). -/
def execSub (xd xa xb : XReg) (s : State) : Out :=
  scalarExec (.sub xd xa xb) s false [xd, xa, xb] (regEff xd fun th => th.rx xa - th.rx xb)
/-- MUL (R278): the low half. -/
def execMul (xd xa xb : XReg) (s : State) : Out :=
  scalarExec (.mul xd xa xb) s false [xd, xa, xb] (regEff xd fun th => th.rx xa * th.rx xb)
/-- MULH (R278): the high half of the signed product. -/
def execMulh (xd xa xb : XReg) (s : State) : Out :=
  scalarExec (.mulh xd xa xb) s false [xd, xa, xb] (regEff xd fun th => mulhOf (th.rx xa) (th.rx xb))
/-- MULHN (R278): the high half of the natural product. -/
def execMulhn (xd xa xb : XReg) (s : State) : Out :=
  scalarExec (.mulhn xd xa xb) s false [xd, xa, xb] (regEff xd fun th => mulhnOf (th.rx xa) (th.rx xb))
/-- DIV (R278, 09 R230). -/
def execDiv (xd xa xb : XReg) (s : State) : Out :=
  scalarExec (.div xd xa xb) s false [xd, xa, xb] (regEff xd fun th => divOf (th.rx xa) (th.rx xb))
/-- DIVN (R278, 09 R230). -/
def execDivn (xd xa xb : XReg) (s : State) : Out :=
  scalarExec (.divn xd xa xb) s false [xd, xa, xb] (regEff xd fun th => divnOf (th.rx xa) (th.rx xb))
/-- REM (R278, 09 R230). -/
def execRem (xd xa xb : XReg) (s : State) : Out :=
  scalarExec (.rem xd xa xb) s false [xd, xa, xb] (regEff xd fun th => remOf (th.rx xa) (th.rx xb))
/-- REMN (R278, 09 R230). -/
def execRemn (xd xa xb : XReg) (s : State) : Out :=
  scalarExec (.remn xd xa xb) s false [xd, xa, xb] (regEff xd fun th => remnOf (th.rx xa) (th.rx xb))
/-- AND (R278). -/
def execAnd (xd xa xb : XReg) (s : State) : Out :=
  scalarExec (.and xd xa xb) s false [xd, xa, xb] (regEff xd fun th => th.rx xa &&& th.rx xb)
/-- OR (R278). -/
def execOr (xd xa xb : XReg) (s : State) : Out :=
  scalarExec (.or xd xa xb) s false [xd, xa, xb] (regEff xd fun th => th.rx xa ||| th.rx xb)
/-- XOR (R278). -/
def execXor (xd xa xb : XReg) (s : State) : Out :=
  scalarExec (.xor xd xa xb) s false [xd, xa, xb] (regEff xd fun th => th.rx xa ^^^ th.rx xb)
/-- SHL (R278). -/
def execShl (xd xa xb : XReg) (s : State) : Out :=
  scalarExec (.shl xd xa xb) s false [xd, xa, xb] (regEff xd fun th => th.rx xa <<< ((th.rx xb).toNat % 64))
/-- SHR (R278). -/
def execShr (xd xa xb : XReg) (s : State) : Out :=
  scalarExec (.shr xd xa xb) s false [xd, xa, xb] (regEff xd fun th => th.rx xa >>> ((th.rx xb).toNat % 64))
/-- SHA (R278). -/
def execSha (xd xa xb : XReg) (s : State) : Out :=
  scalarExec (.sha xd xa xb) s false [xd, xa, xb] (regEff xd fun th => (th.rx xa).sshiftRight ((th.rx xb).toNat % 64))
/-- SLT (R278). -/
def execSlt (xd xa xb : XReg) (s : State) : Out :=
  scalarExec (.slt xd xa xb) s false [xd, xa, xb] (regEff xd fun th => boolWord ((th.rx xa).slt (th.rx xb)))
/-- SLTN (R278). -/
def execSltn (xd xa xb : XReg) (s : State) : Out :=
  scalarExec (.sltn xd xa xb) s false [xd, xa, xb] (regEff xd fun th => boolWord ((th.rx xa).ult (th.rx xb)))
/-- MIN (R278). -/
def execMin (xd xa xb : XReg) (s : State) : Out :=
  scalarExec (.min xd xa xb) s false [xd, xa, xb] (regEff xd fun th => if (th.rx xa).sle (th.rx xb) then th.rx xa else th.rx xb)
/-- MAX (R278). -/
def execMax (xd xa xb : XReg) (s : State) : Out :=
  scalarExec (.max xd xa xb) s false [xd, xa, xb] (regEff xd fun th => if (th.rx xa).sle (th.rx xb) then th.rx xb else th.rx xa)
/-- MINN (R278). -/
def execMinn (xd xa xb : XReg) (s : State) : Out :=
  scalarExec (.minn xd xa xb) s false [xd, xa, xb] (regEff xd fun th => if (th.rx xa).ule (th.rx xb) then th.rx xa else th.rx xb)
/-- MAXN (R278). -/
def execMaxn (xd xa xb : XReg) (s : State) : Out :=
  scalarExec (.maxn xd xa xb) s false [xd, xa, xb] (regEff xd fun th => if (th.rx xa).ule (th.rx xb) then th.rx xb else th.rx xa)
/-- CLZ (R278). -/
def execClz (xd xa : XReg) (s : State) : Out :=
  scalarExec (.clz xd xa) s false [xd, xa] (regEff xd fun th => clzOf (th.rx xa))
/-- CTZ (R278). -/
def execCtz (xd xa : XReg) (s : State) : Out :=
  scalarExec (.ctz xd xa) s false [xd, xa] (regEff xd fun th => ctzOf (th.rx xa))
/-- POPC (R278). -/
def execPopc (xd xa : XReg) (s : State) : Out :=
  scalarExec (.popc xd xa) s false [xd, xa] (regEff xd fun th => popcOf (th.rx xa))
/-- LEA of two registers (R278): no memory access. -/
def execLeaIndexed (xd xa xb : XReg) (s : State) : Out :=
  scalarExec (.leaIndexed xd xa xb) s false [xd, xa, xb] (regEff xd fun th => th.rx xa + th.rx xb)
/-- ADDI (R279). -/
def execAddi (xd xa : XReg) (imm : BitVec 11) (s : State) : Out :=
  scalarExec (.addi xd xa imm) s false [xd, xa]
    (regEff xd fun th => th.rx xa + imm.signExtend 64)
/-- ANDI (R279). -/
def execAndi (xd xa : XReg) (imm : BitVec 11) (s : State) : Out :=
  scalarExec (.andi xd xa imm) s false [xd, xa]
    (regEff xd fun th => th.rx xa &&& imm.signExtend 64)
/-- ORI (R279). -/
def execOri (xd xa : XReg) (imm : BitVec 11) (s : State) : Out :=
  scalarExec (.ori xd xa imm) s false [xd, xa]
    (regEff xd fun th => th.rx xa ||| imm.signExtend 64)
/-- XORI (R279). -/
def execXori (xd xa : XReg) (imm : BitVec 11) (s : State) : Out :=
  scalarExec (.xori xd xa imm) s false [xd, xa]
    (regEff xd fun th => th.rx xa ^^^ imm.signExtend 64)
/-- SLTI (R279). -/
def execSlti (xd xa : XReg) (imm : BitVec 11) (s : State) : Out :=
  scalarExec (.slti xd xa imm) s false [xd, xa]
    (regEff xd fun th => boolWord ((th.rx xa).slt (imm.signExtend 64)))
/-- SLTNI (R279): compared with the sign-extended immediate. -/
def execSltni (xd xa : XReg) (imm : BitVec 11) (s : State) : Out :=
  scalarExec (.sltni xd xa imm) s false [xd, xa]
    (regEff xd fun th => boolWord ((th.rx xa).ult (imm.signExtend 64)))
/-- LEA with an immediate (R279). -/
def execLea (xd xa : XReg) (imm : BitVec 11) (s : State) : Out :=
  scalarExec (.lea xd xa imm) s false [xd, xa]
    (regEff xd fun th => th.rx xa + imm.signExtend 64 * 16)
/-- SHLI (R279). -/
def execShli (xd xa : XReg) (sh : BitVec 6) (s : State) : Out :=
  scalarExec (.shli xd xa sh) s false [xd, xa] (regEff xd fun th => th.rx xa <<< sh.toNat)
/-- SHRI (R279). -/
def execShri (xd xa : XReg) (sh : BitVec 6) (s : State) : Out :=
  scalarExec (.shri xd xa sh) s false [xd, xa] (regEff xd fun th => th.rx xa >>> sh.toNat)
/-- SHAI (R279). -/
def execShai (xd xa : XReg) (sh : BitVec 6) (s : State) : Out :=
  scalarExec (.shai xd xa sh) s false [xd, xa] (regEff xd fun th => (th.rx xa).sshiftRight sh.toNat)

/-! ### Loads and stores (R281-R283) -/

/-- A scalar load of thread t: the interlock check, then R102; the value is extended into xd (11 R281, R283). -/
def loadEff (ti : TI) (aligned : Bool) (xd : XReg) (addr : Thread → Word) : State → Nat → Fetched → Eff := fun s t _ =>
  let va := addr (s.th t)
  if s.interlocked t false va ti.bytes then .wait s none
  else match s.readElem (s.ctxOf t) 0 .read aligned va ti.bytes with
    | (s, .error tr) => .trap s tr
    | (s, .ok v) => .ok (s.modTh t (·.wx xd (ti.extend v)))
/-- A scalar store of thread t: the interlock check, then R102; the low bytes of xd are written (11 R281, R283). -/
def storeEff (ti : TI) (aligned : Bool) (xd : XReg) (addr : Thread → Word) : State → Nat → Fetched → Eff := fun s t _ =>
  let va := addr (s.th t)
  if s.interlocked t true va ti.bytes then .wait s none
  else match s.writeElem (s.ctxOf t) 0 aligned va ti.bytes ((s.th t).rx xd).toNat [] with
    | (s, _, some tr) => .trap s tr
    | (s, _, none) => .ok s
/-- LD (R281): any alignment. -/
def execLd (ti : TI) (xd xa : XReg) (off : BitVec 8) (s : State) : Out :=
  scalarExec (.ld ti xd xa off) s true [xd, xa] (loadEff ti false xd fun th => th.rx xa + off.signExtend 64 * BitVec.ofNat 64 ti.bytes)
/-- ST (R281): any alignment. -/
def execSt (ti : TI) (xd xa : XReg) (off : BitVec 8) (s : State) : Out :=
  scalarExec (.st ti xd xa off) s true [xd, xa] (storeEff ti false xd fun th => th.rx xa + off.signExtend 64 * BitVec.ofNat 64 ti.bytes)
/-- LD at xa + xb (R281). -/
def execLdIndexed (ti : TI) (xd xa xb : XReg) (s : State) : Out :=
  scalarExec (.ldIndexed ti xd xa xb) s true [xd, xa, xb] (loadEff ti false xd fun th => th.rx xa + th.rx xb)
/-- ST at xa + xb (R281). -/
def execStIndexed (ti : TI) (xd xa xb : XReg) (s : State) : Out :=
  scalarExec (.stIndexed ti xd xa xb) s true [xd, xa, xb] (storeEff ti false xd fun th => th.rx xa + th.rx xb)
/-- LDA (R282): naturally aligned, an acquire at its scope. -/
def execLda (ti : TI) (sc : Scope) (xd xa : XReg) (s : State) : Out :=
  scalarExec (.lda ti sc xd xa) s true [xd, xa] (loadEff ti true xd fun th => th.rx xa)
/-- STL (R282): naturally aligned, a release at its scope. -/
def execStl (ti : TI) (sc : Scope) (xd xa : XReg) (s : State) : Out :=
  scalarExec (.stl ti sc xd xa) s true [xd, xa] (storeEff ti true xd fun th => th.rx xa)

/-! ### Floating point (R284-R289) -/

/-- A scalar floating-point result: an enabled exception traps FPX and writes nothing; otherwise the flags are ORed into
FFLAGS and the result is written zero-extended (11 R284, R276). -/
def floatEff (xd : XReg) (g : Thread → FRes) : State → Nat → Fetched → Eff := fun s t _ =>
  let r := g (s.th t)
  if fpx (s.th t).sys.ftrapen r.flags then .trap s (causeTrap 0x09)
  else .ok ((s.modTh t (·.wx xd (BitVec.ofNat 64 r.bits))).orFlags t r.flags)

/-- A floating-point operand of format f in register x. -/
def Thread.fx (th : Thread) (f : FTy) (x : XReg) : FVal := fop f (ftzOf th.sys.rmode) (th.rx x)
/-- FADD (R285). -/
def execFadd (f : FTy) (xd xa xb : XReg) (s : State) : Out :=
  scalarExec (.fadd f xd xa xb) s false [xd, xa, xb] (floatEff xd fun th =>
    addVal (fmtOf f) (modeOf th.sys.rmode) (ftzOf th.sys.rmode) (th.fx f xa) (th.fx f xb))
/-- FMUL (R285). -/
def execFmul (f : FTy) (xd xa xb : XReg) (s : State) : Out :=
  scalarExec (.fmul f xd xa xb) s false [xd, xa, xb] (floatEff xd fun th =>
    mulVal (fmtOf f) (modeOf th.sys.rmode) (ftzOf th.sys.rmode) (th.fx f xa) (th.fx f xb))
/-- FDIV (R285). -/
def execFdiv (f : FTy) (xd xa xb : XReg) (s : State) : Out :=
  scalarExec (.fdiv f xd xa xb) s false [xd, xa, xb] (floatEff xd fun th =>
    divVal (fmtOf f) (modeOf th.sys.rmode) (ftzOf th.sys.rmode) (th.fx f xa) (th.fx f xb))
/-- FSUB (R285). -/
def execFsub (f : FTy) (xd xa xb : XReg) (s : State) : Out :=
  scalarExec (.fsub f xd xa xb) s false [xd, xa, xb] (floatEff xd fun th =>
    addVal (fmtOf f) (modeOf th.sys.rmode) (ftzOf th.sys.rmode) (th.fx f xa) (th.fx f xb).flip)
/-- FMIN (R285). -/
def execFmin (f : FTy) (xd xa xb : XReg) (s : State) : Out :=
  scalarExec (.fmin f xd xa xb) s false [xd, xa, xb] (floatEff xd fun th =>
    minmax (fmtOf f) false (ftzOf th.sys.rmode) ((th.rx xa).toNat % 2 ^ (fmtOf f).width) ((th.rx xb).toNat % 2 ^ (fmtOf f).width))
/-- FMAX (R285). -/
def execFmax (f : FTy) (xd xa xb : XReg) (s : State) : Out :=
  scalarExec (.fmax f xd xa xb) s false [xd, xa, xb] (floatEff xd fun th =>
    minmax (fmtOf f) true (ftzOf th.sys.rmode) ((th.rx xa).toNat % 2 ^ (fmtOf f).width) ((th.rx xb).toNat % 2 ^ (fmtOf f).width))
/-- FSQRT (R285). -/
def execFsqrt (f : FTy) (xd xa : XReg) (s : State) : Out :=
  scalarExec (.fsqrt f xd xa) s false [xd, xa] (floatEff xd fun th =>
    sqrtVal (fmtOf f) (modeOf th.sys.rmode) (ftzOf th.sys.rmode) (th.fx f xa))
/-- FCLASS (R288). -/
def execFclass (f : FTy) (xd xa : XReg) (s : State) : Out :=
  scalarExec (.fclass f xd xa) s false [xd, xa] (floatEff xd fun th =>
    FRes.plain (fclassOf (fmtOf f) ((th.rx xa).toNat % 2 ^ (fmtOf f).width)))
/-- FFMA (R286): xa × xb + xd with one rounding. -/
def execFfma (f : FTy) (xd xa xb : XReg) (s : State) : Out :=
  scalarExec (.ffma f xd xa xb) s false [xd, xa, xb] (floatEff xd fun th =>
    fmaVal (fmtOf f) (modeOf th.sys.rmode) (ftzOf th.sys.rmode) (th.fx f xa) (th.fx f xb) (th.fx f xd))
/-- FCMP (R287). -/
def execFcmp (c : FCond) (f : FTy) (xd xa xb : XReg) (s : State) : Out :=
  scalarExec (.fcmp c f xd xa xb) s false [xd, xa, xb] (floatEff xd fun th =>
    let r := fcmpVal c (th.fx f xa) (th.fx f xb)
    ⟨bitOf r.1, r.2⟩)
/-- A conversion between the type codes of R254 (11 R289). -/
def scalarConv (dt st : SType) (m : RMode) (ftz : Bool) (w : Word) : FRes :=
  match st, dt with
  | .f a, .f b => cvtFloat (fmtOf b) m ftz (fop a ftz w)
  | .f a, .i64 => toInt true 64 m (fop a ftz w)
  | .f a, .n64 => toInt false 64 m (fop a ftz w)
  | .i64, .f b => ofInt (fmtOf b) m ftz w.toInt
  | .n64, .f b => ofInt (fmtOf b) m ftz w.toNat
  | _, _ => FRes.plain w.toNat
/-- FCVT (R289). -/
def execFcvt (dt st : SType) (xd xa : XReg) (s : State) : Out :=
  scalarExec (.fcvt dt st xd xa) s false [xd, xa] (floatEff xd fun th =>
    scalarConv dt st (modeOf th.sys.rmode) (ftzOf th.sys.rmode) (th.rx xa))

/-! ### Branches and jumps (R290, R291) -/

/-- A conditional branch: pc goes on at the target when taken (11 R290). -/
def branchEff (disp : BitVec 11) (taken : Thread → Bool) : State → Nat → Fetched → Eff := fun s t f =>
  if taken (s.th t) then .jump s (f.pc + disp.signExtend 64 * 4) else .ok s
/-- BEQ (R290). -/
def execBeq (xa xb : XReg) (disp : BitVec 11) (s : State) : Out :=
  scalarExec (.beq xa xb disp) s false [xa, xb] (branchEff disp fun th => th.rx xa == th.rx xb)
/-- BNE (R290). -/
def execBne (xa xb : XReg) (disp : BitVec 11) (s : State) : Out :=
  scalarExec (.bne xa xb disp) s false [xa, xb] (branchEff disp fun th => th.rx xa != th.rx xb)
/-- BLT (R290). -/
def execBlt (xa xb : XReg) (disp : BitVec 11) (s : State) : Out :=
  scalarExec (.blt xa xb disp) s false [xa, xb] (branchEff disp fun th => (th.rx xa).slt (th.rx xb))
/-- BGE (R290). -/
def execBge (xa xb : XReg) (disp : BitVec 11) (s : State) : Out :=
  scalarExec (.bge xa xb disp) s false [xa, xb] (branchEff disp fun th => !(th.rx xa).slt (th.rx xb))
/-- BLTN (R290). -/
def execBltn (xa xb : XReg) (disp : BitVec 11) (s : State) : Out :=
  scalarExec (.bltn xa xb disp) s false [xa, xb] (branchEff disp fun th => (th.rx xa).ult (th.rx xb))
/-- BGEN (R290). -/
def execBgen (xa xb : XReg) (disp : BitVec 11) (s : State) : Out :=
  scalarExec (.bgen xa xb disp) s false [xa, xb] (branchEff disp fun th => !(th.rx xa).ult (th.rx xb))
/-- JAL (R291). -/
def execJal (xd : XReg) (imm : BitVec 16) (s : State) : Out :=
  scalarExec (.jal xd imm) s false [xd] fun s t f =>
    .jump (s.modTh t (·.wx xd f.next)) (f.pc + imm.signExtend 64 * 4)
/-- JALR (R291): a target that is not a multiple of 4 traps BOUNDS; xa is read before xd is written. -/
def execJalr (xd xa : XReg) (imm : BitVec 11) (s : State) : Out :=
  scalarExec (.jalr xd xa imm) s false [xd, xa] fun s t f =>
    let a := (s.th t).rx xa + imm.signExtend 64
    if a.toNat % 4 ≠ 0 then .trap s { causeTrap 0x0D with addr := a } else .jump (s.modTh t (·.wx xd f.next)) a

/-! ### System instructions (R292-R297) -/

/-- CSRR (R292). -/
def execCsrr (xd : XReg) (num : BitVec 12) (s : State) : Out :=
  csrExec (.csrr xd num) .read xd num s
/-- CSRW (R292). -/
def execCsrw (xd : XReg) (num : BitVec 12) (s : State) : Out :=
  csrExec (.csrw xd num) .write xd num s
/-- CSRS (R292). -/
def execCsrs (xd : XReg) (num : BitVec 12) (s : State) : Out :=
  csrExec (.csrs xd num) .set xd num s
/-- CSRC (R292). -/
def execCsrc (xd : XReg) (num : BitVec 12) (s : State) : Out :=
  csrExec (.csrc xd num) .clear xd num s
/-- TRAP (R293): waits for the lanes, then raises TRAPI with its code. -/
def execTrap (code : BitVec 16) (s : State) : Out :=
  scalarExec (.trap code) s true [] fun s _ f =>
    .after s { causeTrap 0x13 with elem := code.toNat } f.next
/-- ERET (R294): outside a handler it traps ILLEGAL. -/
def execEret (s : State) : Out :=
  scalarExec .eret s false [] fun s t f =>
    if (s.th t).inh then .ended ((s.countScalar t f).modTh t Thread.returnFromTrap) else .trap s (causeTrap 0x01)
/-- A member whose every thread has ended and whose engine commands have completed posts its end (02 R32, 11 R295). -/
def State.postMemberEnd (s : State) (m : Nat) : State :=
  if (s.threadsOf m).all (fun t => (s.th t).run == .done && (s.th t).platen.isEmpty) ∧ ¬ (s.cmds.any fun c => (s.threadsOf m).contains c.thr) ∧
      ¬ (s.mb m).ended then s.postOnce .memberEnd m else s

/-- The thread ends: the convoys fetched after DONE are discarded, and an open capture window writes no record. -/
def State.endThread (s : State) (t : Nat) (f : Fetched) : State :=
  let s := (s.modTh t fun th => (th.issueScalar f f.next).discard).countScalar t f
  (s.modTh t fun th => { th with run := .done }).postMemberEnd (s.th t).member
/-- DONE (R295): waits for the lanes and every outstanding rendezvous; in a handler it traps ILLEGAL. -/
def execDone (s : State) : Out :=
  scalarExec .done s true [] fun s t f =>
    if (s.th t).inh then .trap s (causeTrap 0x01)
    else if (s.th t).rdvOpen then .wait s none
    else .ended (s.endThread t f)
/-- NOP (R296). -/
def execNop (s : State) : Out :=
  scalarExec .nop s false [] fun s _ _ => .ok s
/-- A pre-emption request is pending for thread t (02 R55). -/
def State.preemptPending (s : State) (t : Nat) : Bool :=
  (s.th t).kind != .supervisor && (match (s.tm (s.th t).team).state with | .preempting _ => true | _ => false)
/-- SAFEPT (R297, 02 R55): with a pre-emption pending the thread stops at it, its lanes drained; otherwise, and in a handler, it has no effect. -/
def execSafept (map : Word) (s : State) : Out :=
  scalarExec (.safept map) s false [] fun s t _ =>
    if ¬ s.preemptPending t ∨ (s.th t).inh then .ok s
    else if (s.th t).window ≠ [] then .wait s none
    else .ended ((s.modTh t fun th => { th with run := .safept map }).postOnce .safePointSave (s.th t).team)
/-- LIT (R280). -/
def execLit (xd : XReg) (lit : Word) (s : State) : Out :=
  scalarExec (.lit xd lit) s false [xd] (regEff xd fun _ => lit)

/-! ### Vector configuration (12 R298, R299) -/

/-- The code of an element width. -/
def sewCode : Sew → Nat
  | .w4 => 0 | .w6 => 1 | .w8 => 2 | .w16 => 3 | .w32 => 4 | .w64 => 5

/-- The thread after VCFG: new VCFGV, every vector register and VLEN zero (12 R298). -/
def Thread.vcfg (th : Thread) (xd : XReg) (sew : Sew) (nregs : BitVec 2) : Thread :=
  let code := sewCode sew * 4 + nregs.toNat
  let mvl := mvlOf th.lanes (partBytes th.sys.laneshare) (nregsOf (BitVec.ofNat 64 code)) (sewOf (BitVec.ofNat 64 code))
  ({ th with v := [], sys := { th.sys with vcfgv := BitVec.ofNat 64 (mvl * 2 ^ 32 + code), vlen := 0 } }).wx xd
    (BitVec.ofNat 64 mvl)
/-- VCFG (12 R298): waits for the lanes; in a handler or on a supervisor core it traps ILLEGAL. -/
def execVcfg (xd : XReg) (sew : Sew) (nregs : BitVec 2) (s : State) : Out :=
  scalarExec (.vcfg xd sew nregs) s true [xd] fun s t _ =>
    if (s.th t).inh ∨ (s.th t).kind = .supervisor then .trap s (causeTrap 0x01)
    else .ok ((s.modTh t fun th => th.vcfg xd sew nregs).heal fun u => match u with | .vreg v _ _ => v == t | _ => false)
/-- The length granted for a request: rounded up to whole 24-bit groups for narrow elements, at most MVL (12 R299). -/
def grantVl (vcfgv : Word) (req : Nat) : Nat :=
  let w := sewOf vcfgv
  let g := 24 / w
  min (if w ≤ 8 then g * ((req + g - 1) / g) else req) (getField vcfgv 32 32)

/-- The thread after a grant. -/
def Thread.grant (th : Thread) (xd : XReg) (req : Nat) : Thread :=
  let n := BitVec.ofNat 64 (grantVl th.sys.vcfgv req)
  { th with sys := { th.sys with vlen := n } }.wx xd n
/-- SETVL (12 R299). -/
def execSetvl (xd xa : XReg) (s : State) : Out :=
  scalarExec (.setvl xd xa) s false [xd, xa] fun s t _ =>
    .ok (s.modTh t fun th => th.grant xd (th.rx xa).toNat)
/-- SETVLI (12 R299). -/
def execSetvli (xd : XReg) (imm : BitVec 16) (s : State) : Out :=
  scalarExec (.setvli xd imm) s false [xd] fun s t _ => .ok (s.modTh t fun th => th.grant xd imm.toNat)

end Sys2Proof.Machine
end

