-- ==== Sys2Proof/Machine/Engines.lean ====
section
/-! DEFINITION. Engine commands: tensor descriptors (04 R108, R109), acceptance (14 R349, 05 R125), element progress under
the interlock rules (05 R126), poison carried by copies (04 R111), completion (05 R127, 06 R157, 08 R210) and engine faults
(03 R77); token queues (06 R154, R155), launch queues (06 R149), chains (06 R158) and binning (07 R204, R205). -/

namespace Sys2Proof.Machine

/-! ### The outcome of a chapter-14 operation -/

/-- The convoy or word that issues an operation. -/
structure Site where
  pc : Word
  seq : BitVec 32
  deriving DecidableEq, Repr

/-- What an operation of chapter 14 comes to, whichever core issues it. -/
inductive Res where
  /-- it has its effect, with its result if it has one -/
  | done (s : State) (v : Option Word)
  /-- it has its effect and an "after" cause is raised -/
  | after (s : State) (v : Option Word) (tr : Trap)
  /-- it traps at issue and changes no state -/
  | trap (s : State) (tr : Trap)
  /-- it waits, in a wait of R56 or for room or entries -/
  | wait (s : State) (w : Option Wait)
  /-- an engine breakpoint: BREAK with the number the command would have taken -/
  | brk (s : State) (eng chan : Nat) (eseq : BitVec 32)
  /-- accepted; its result comes later -/
  | later (s : State)

/-! ### Tensor descriptors (04 R108, R109) -/

/-- The n-byte number at an offset of a block of bytes. -/
def leAt (bs : List Byte) (off n : Nat) : Nat := leNat ((bs.drop off).take n)

/-- The bytes at an offset are all zero. -/
def zerosAt (bs : List Byte) (off n : Nat) : Bool := ((bs.drop off).take n).all (· == 0)

/-- The number of elements of a descriptor. -/
def Desc.count (d : Desc) : Nat := d.extents.foldl (· * ·) 1

/-- The bytes of one element. -/
def Desc.bytes (d : Desc) : Nat := esizeBytes d.esize

/-- The address of element n, formed exactly. -/
def Desc.addr (d : Desc) (n : Nat) : Int :=
  ((d.extents.zip d.strides).foldl (fun (acc : Nat × Int) (e, st) => (acc.1 / e, acc.2 + (acc.1 % e : Nat) * st))
    (n, (d.base : Int))).2

/-- The address of the lowest byte. -/
def Desc.lo (d : Desc) : Int :=
  (d.extents.zip d.strides).foldl (fun a (e, st) => if st < 0 then a + ((e : Int) - 1) * st else a) (d.base : Int)

/-- The address of the highest byte. -/
def Desc.hi (d : Desc) : Int :=
  (d.extents.zip d.strides).foldl (fun a (e, st) => if st < 0 then a else a + ((e : Int) - 1) * st) (d.base : Int) +
    (d.bytes : Int) - 1

/-- The destination is dense: consecutive bytes in ascending element order (05 R126). -/
def Desc.dense (d : Desc) : Bool :=
  let want := d.extents.foldl (fun (acc : List Int × Int) (e : Nat) => (acc.1 ++ [acc.2], acc.2 * (e : Int))) ([], (d.bytes : Int))
  d.strides == want.1

/-- The 192 bytes of a descriptor, with every field in its limits. -/
def parseDesc (bs : List Byte) : Option Desc :=
  let ndim := leAt bs 0x08 1
  let esize := leAt bs 0x09 1
  let flags := leAt bs 0x0A 2
  let d : Desc :=
    { base := leAt bs 0 8, ndim, esize, nt := bitAt flags 0,
      extents := (List.range ndim).map fun k => leAt bs (0x10 + 4 * k) 4,
      strides := (List.range ndim).map fun k => sintOf 64 (leAt bs (0x40 + 8 * k) 8) }
  if ndim = 0 ∨ 12 < ndim ∨ 4 < esize ∨ 2 ≤ flags ∨ ¬ zerosAt bs 0x0C 4 ∨
      ¬ zerosAt bs (0x10 + 4 * ndim) (4 * (12 - ndim)) ∨ ¬ zerosAt bs (0x40 + 8 * ndim) (8 * (12 - ndim)) ∨
      ¬ zerosAt bs 0xA0 32 ∨ 2 ^ 40 ≤ d.count then none
  else some d

/-- BOUNDS for a misaligned block at va. -/
def misaligned (va : Word) : Trap := { boundsTrap with addr := va }

/-- The descriptor at va, read through thread t's translation. -/
def State.readDesc (s : State) (t : Nat) (va : Word) : State × Except Trap Desc :=
  if va.toNat % 64 ≠ 0 then (s, .error (misaligned va))
  else match s.readBlock (s.ctxOf t) va 192 with
    | (s, .error tr) => (s, .error tr)
    | (s, .ok bs) => match parseDesc bs with
      | none => (s, .error boundsTrap)
      | some d => (s, .ok d)

/-- A source and destination that R109 refuses together. -/
def pairRefused (a b : Desc) : Bool :=
  a.count != b.count || a.esize != b.esize ||
  (a.count != 0 && b.count != 0 && decide (a.lo ≤ b.hi) && decide (b.lo ≤ a.hi))

/-- Two descriptors read and checked as a pair. -/
def State.readPair (s : State) (t : Nat) (va vb : Word) : State × Except Trap (Desc × Desc) :=
  match s.readDesc t va with
  | (s, .error tr) => (s, .error tr)
  | (s, .ok a) => match s.readDesc t vb with
    | (s, .error tr) => (s, .error tr)
    | (s, .ok b) => if pairRefused a b then (s, .error boundsTrap) else (s, .ok (a, b))

/-- The interlock entry of a descriptor's range; an empty tensor takes none. -/
def Desc.locks (d : Desc) (write : Bool) (eng : Nat) (eseq : BitVec 32) : List Interlock :=
  if d.count = 0 then [] else [lockOf write (write && d.dense) eng d.esize eseq d.lo.toNat d.hi.toNat d.base]

/-! ### Acceptance (14 R349, 05 R125, 08 R210, R226) -/

/-- A command of thread t for an engine: it waits for interlock entries, meets an engine breakpoint, or is accepted with
its number and its entries and goes on as k says. -/
def State.accept (s : State) (t : Nat) (si : Site) (eng chan num : Nat) (scope : Scope) (ls : List Interlock)
    (body : CmdBody) (k : State → Nat → Res) : Res :=
  let n := BitVec.ofNat 32 num
  if (s.th t).freeLocks.length < ls.length then .wait s none
  else if (s.th t).engBreak si.pc eng chan n then .brk s eng chan n
  else
    let q := s.takeLocks t ls
    let s := q.1.acceptEng t eng chan n
    let c : Cmd := { id := s.nextCmd, thr := t, eng, eseq := num, pc := si.pc, cseq := si.seq, scope, locks := q.2, pos := 0,
                     fault := none, finished := false, cover := [], body }
    k { s with cmds := s.cmds ++ [c], nextCmd := s.nextCmd + 1 } c.id

/-- A command that its own engine carries on with, started by posting its completion step. -/
def State.started (s : State) (id : Nat) : State := s.post .engineCompletion id

/-! ### Element progress (05 R126) -/

/-- How far an engine comes with an element. -/
inductive EStat where
  | run
  | stall
  | fault (tr : Trap)
  deriving DecidableEq, Repr

/-- An access of command or platen operation number id of thread t waits for an entry of an earlier one. -/
def State.heldBefore (s : State) (t id : Nat) (isWrite : Bool) (va : Word) (n : Nat) : Bool :=
  let held := fun (k : Nat) => (vget (s.th t).interlock k Interlock.reset).holds isWrite va.toNat n
  (s.cmds.any fun d => d.thr == t && decide (d.id < id) && d.locks.any held) ||
  ((s.th t).platen.any fun p => decide (p.id < id) && p.locks.any held)

/-- An access of command c waits for an entry of an earlier command of its thread. -/
def State.engHeld (s : State) (c : Cmd) (isWrite : Bool) (va : Word) (n : Nat) : Bool := s.heldBefore c.thr c.id isWrite va n

/-- An exact address as a 64-bit one; outside that range it fails check 1. -/
def exactAddr (a : Int) : Except Trap Word :=
  if a < -(2 ^ 63) ∨ (2 ^ 64 : Int) ≤ a then .error { cause := 0x05, sub := 0x03, elem := 0, addr := BitVec.ofInt 64 a }
  else .ok (BitVec.ofInt 64 a)

/-- The accesses of an engine of thread t to a tensor: its lines are not allocated in L1 where the descriptor asks so (04 R108). -/
def State.descCtx (s : State) (t : Nat) (d : Desc) : ACtx := { s.ctxOf t with nt := d.nt }

/-- n bytes moved from src to dst, poison carried with them (04 R111). -/
def State.moveElem (s : State) (cx cy : ACtx) (cov : NMap) (src dst : Word) (n : Nat) : State × NMap × EStat :=
  match s.access cx .carried false src n with
  | (s, .error tr) => (s, cov, .fault tr)
  | (s, .ok a) => match s.access cy .write false dst n with
    | (s, .error tr) => (s, cov, .fault tr)
    | (s, .ok b) =>
      let r := s.readSpans cx 0 a
      let fl := s.spanFlags a
      let q := (r.1.writeSpans cy 0 b r.2).carryPoison cov b fl
      (q.1, q.2, .run)

/-- Elements performed in order until one stalls or faults: the state, how many were performed, and how it ended. -/
def engLoop (f : State → Nat → State × EStat) : List Nat → State → State × Nat × EStat
  | [], s => (s, 0, .run)
  | i :: is, s => match f s i with
    | (s, .run) => let r := engLoop f is s; (r.1, r.2.1 + 1, r.2.2)
    | (s, st) => (s, 0, st)

/-- Element i of a copy by command c. -/
def State.copyElem (c : Cmd) (src dst : Desc) (s : State) (i : Nat) : State × EStat :=
  match exactAddr (src.addr i), exactAddr (dst.addr i) with
  | .error tr, _ => (s, .fault tr)
  | _, .error tr => (s, .fault tr)
  | .ok a, .ok b =>
    if s.engHeld c false a src.bytes ∨ s.engHeld c true b dst.bytes then (s, .stall)
    else
      let cov := match s.cmd c.id with | some d => d.cover | none => []
      let q := s.moveElem (s.descCtx c.thr src) (s.descCtx c.thr dst) cov a b src.bytes
      (q.1.modCmd c.id fun d => { d with cover := q.2.1 }, q.2.2)

/-! ### Completion and faults (05 R127, 06 R157, 03 R77) -/

/-- A sem bit of a member written. A walker that waits to open a buffer looks at its EMPTY bit again (16 R411). -/
def State.putSem (s : State) (m k : Nat) (b : Bool) : State :=
  let s := s.modMb m fun mb => { mb with sem := if b then mb.sem ||| (1#64 <<< k) else mb.sem &&& ~~~(1#64 <<< k) }
  let c := cluKey (s.mb m).die (s.mb m).cluster
  if b ∧ (s.clu c).walker.state = .waiting then s.postOnce .walkerBufferOpen c else s

/-- A command its engine carries on with by itself. -/
def CmdBody.selfRun : CmdBody → Bool
  | .copy _ _ _ _ _ _ => true
  | .bin _ _ _ _ => true
  | .stchk _ _ _ _ _ _ _ _ _ => true
  | .stkeep _ _ _ _ _ _ w => !w
  | .send _ _ _ _ _ _ _ _ _ due phase => due == 0 && phase == 0
  | .recv _ _ m w _ => m.isSome && !w
  | _ => false

/-- A receive, whose payload another thread's command may hold up. -/
def CmdBody.isRecv : CmdBody → Bool
  | .recv _ _ _ _ _ => true
  | _ => false

/-- The head of thread t's platen queue is looked at again: to be started, or to go on. -/
def State.kickPlaten (s : State) (t : Nat) : State :=
  match (s.th t).platen with
  | [] => s
  | p :: _ => if p.started then s.postOnce .platenOpComplete t else s.postOnce .platenOpStart t

/-- The chains of thread t that may have waited for an entry read their records again (05 R126). -/
def State.kickChains (s : State) (t : Nat) : State :=
  let m := (s.th t).member
  (List.range 8).foldl (fun s ch =>
    let c := vget (s.mb m).chans ch Channel.reset
    if c.chain ≠ 0 ∧ c.chainThr = t ∧ ¬ c.chainParked then s.postOnce .chainRecordRead m ch else s) s

/-- The commands of thread t, the receives, its chains and its platen queue, that may have waited go on. -/
def State.kick (s : State) (t : Nat) : State :=
  (s.kickPlaten t).cmds.foldl (fun s c =>
    if (c.thr = t ∨ c.body.isRecv) ∧ (c.body.selfRun ∨ s.payReads.any (·.cmd == c.id)) ∧ ¬ c.finished ∧ c.fault = none then s.postOnce .engineCompletion c.id else s)
    ((s.kickPlaten t).kickChains t)

/-- The copy channel of a command: its member and channel. -/
def State.chanOf (s : State) (c : Cmd) : Option (Nat × Nat) :=
  match c.body with | .copy _ _ _ ch _ _ => some ((s.th c.thr).member, ch) | _ => none

/-- Channel ch of member m. -/
def State.channel (s : State) (m ch : Nat) : Channel := vget (s.mb m).chans ch Channel.reset

/-- Channel ch of member m changed by f. -/
def State.modChan (s : State) (m ch : Nat) (f : Channel → Channel) : State :=
  s.modMb m fun mb => { mb with chans := vset mb.chans ch (f (vget mb.chans ch Channel.reset)) }

/-- The transfers queued on a channel. -/
def State.queued (s : State) (m ch : Nat) : Nat := (s.cmds.filter fun c => s.chanOf c == some (m, ch)).length

/-- The completed identifier after the finished numbers that follow it, at most n of them. -/
def advanceChan (fin : Nat → Bool) : Nat → Nat → Nat
  | 0, c => c
  | n + 1, c => if fin (c + 1) then advanceChan fin n (c + 1) else c

/-- Transfer c is among the 4 of its channel in progress: fewer than 4 unfinished ones stand before it (06 R157). -/
def State.inProgress (s : State) (c : Cmd) : Bool :=
  match s.chanOf c with
  | none => true
  | some k => decide ((s.cmds.filter fun d => s.chanOf d == some k && !d.finished && decide (d.eseq < c.eseq)).length < 4)

/-- The sem bit that a transfer names, set with the release of its completion (05 R127). -/
def State.signalCopy (s : State) (m : Nat) (c : Cmd) : State :=
  match c.body with
  | .copy _ _ _ _ (some k) _ => s.putSem m k true
  | _ => s

/-- C of a channel advances over the finished transfers, which leave it, each setting its sem bit (05 R127, 06 R157); a chain that
waited for room goes on. -/
def State.publishChan (s : State) (m ch : Nat) : State :=
  let fin := fun n => s.cmds.any fun c => s.chanOf c == some (m, ch) && c.finished && c.eseq == n
  let done := advanceChan fin s.cmds.length (s.channel m ch).completed
  let gone := fun (c : Cmd) => s.chanOf c == some (m, ch) && decide (c.eseq ≤ done)
  let passed := s.cmds.filter gone
  let s := { s with cmds := s.cmds.filter fun c => !gone c }
  let s := s.modChan m ch fun c => { c with completed := done }
  let s := passed.foldl (State.signalCopy · m ·) s
  if (s.channel m ch).chain ≠ 0 ∧ ¬ (s.channel m ch).chainParked then s.postOnce .chainRecordRead m ch else s

/-- Command c has completed: its entries are freed and its number is published in its turn. -/
def State.completeCmd (s : State) (c : Cmd) : State :=
  let s := s.freeLocks c.thr c.locks
  let s := match c.body with
    | .copy _ _ _ ch _ _ => (s.modCmd c.id fun d => { d with finished := true }).publishChan (s.th c.thr).member ch
    | _ => (s.dropCmd c.id).completeEng c.thr c.eng (BitVec.ofNat 32 c.eseq)
  (s.kick c.thr).postMemberEnd (s.th c.thr).member

/-- The record of the oldest engine fault of a thread that has ended: it stops its member at once, whose other strands drain without
a record of their own. While a remote element of theirs is unanswered the record waits (03 R77, 13 R332). -/
def State.recordEnded (s : State) (t : Nat) : State :=
  match (s.th t).engFault with
  | [] => s
  | e :: rest =>
    let others := (s.threadsOf (s.th t).member).filter fun u => u != t && (s.th u).kind == .strand && !(s.th u).inh
    let s := others.foldl State.drainStop s
    if others.any s.awaitsRemote then s
    else
      (s.modTh t fun th => { th with engFault := rest }).takeTrap t e.trap
        { eng := e.eng, chan := e.chan, eseq := e.eseq, pc := e.pc, seq := e.cseq, lanes := 0, refetch := (s.th t).pc }

/-- An engine fault of command c: its engine stops, and the fault waits for the thread's convoy boundary. -/
def State.faultCmd (s : State) (c : Cmd) (tr : Trap) : State :=
  let chan := match c.body with | .copy _ _ _ ch _ _ => ch | .chain ch => ch | _ => 0
  let f : EngFault := { cmd := c.id, eng := c.eng, chan, eseq := BitVec.ofNat 32 c.eseq, pc := c.pc, cseq := c.cseq,
                        trap := tr }
  let s := s.modCmd c.id fun d => { d with fault := some tr }
  let s := s.modTh c.thr fun th => { th with engFault := th.engFault ++ [f] }
  if (s.th c.thr).run = .done then s.recordEnded c.thr else s.postOnce .engineFaultReport c.thr

/-- Command c after its engine has performed n elements more and ended so: completed, waiting, or faulted. -/
def State.settleCmd (s : State) (c : Cmd) (n : Nat) (st : EStat) : State :=
  let s := (s.modCmd c.id fun d => { d with pos := c.pos + n }).leadLocks c.thr c.locks (c.pos + n)
  match st with
  | .run => s.completeCmd c
  | .stall => s
  | .fault tr => s.faultCmd c { tr with elem := c.pos + n }

/-- A copy transfer runs on to its end (06 R157, 05 R126). -/
def State.runCopy (s : State) (c : Cmd) (src dst : Desc) (count : Nat) : State :=
  let r := engLoop (State.copyElem c src dst) (List.range' c.pos (count - c.pos)) s
  r.1.settleCmd c r.2.1 r.2.2

/-! ### Member ranges (03 R65, 06 R156) -/

/-- Channels of a member. -/
def Member.nchan (m : Member) : Nat := if m.full then 8 else 4
/-- Sem bits of a member. -/
def Member.nsem (m : Member) : Nat := if m.full then 64 else 32
/-- Boxes of a member. -/
def Member.nbox (m : Member) : Nat := if m.full then 16 else 8

/-- A sem bit named beyond the member's range. -/
def Member.semOut (m : Member) (sem : Option Nat) : Bool := match sem with | some k => decide (m.nsem ≤ k) | none => false

/-! ### Copy commands (14 R363, R364) -/

/-- XCOPY of thread t. `cap` is the length that VLCAP names. -/
def State.xcopy (s : State) (t : Nat) (si : Site) (sc : Scope) (va vb : Word) (ch : Nat) (sem : Option Nat)
    (cap : Option Nat) : Res :=
  let m := (s.th t).member
  if s.interlocked t false va 192 ∨ s.interlocked t false vb 192 then .wait s none
  else match s.readPair t va vb with
  | (s, .error tr) => .trap s tr
  | (s, .ok (a, b)) =>
    if (s.mb m).nchan ≤ ch ∨ (s.mb m).semOut sem then .trap s boundsTrap
    else if 16 ≤ s.queued m ch then .wait s none
    else
      let id := (s.channel m ch).issued + 1
      let n := BitVec.ofNat 32 id
      let count := match cap with | some l => min a.count l | none => a.count
      s.accept t si 1 ch id sc (a.locks false 1 n ++ b.locks true 1 n) (.copy a b count ch sem false) fun s c =>
        .done ((s.modChan m ch fun x => { x with issued := id }).started c) (some (BitVec.ofNat 64 id))

/-- XCHAIN of thread t (06 R158). -/
def State.xchain (s : State) (t : Nat) (si : Site) (va : Word) (ch : Nat) : Res :=
  let m := (s.th t).member
  if (s.mb m).nchan ≤ ch then .trap s boundsTrap
  else if va.toNat % 64 ≠ 0 then .trap s (misaligned va)
  else if (s.channel m ch).chain ≠ 0 then .trap s (causeTrap 0x16)
  else
    let s := s.modChan m ch fun c =>
      { c with chain := va, chainPc := si.pc, chainSeq := si.seq, chainThr := t, chainNum := s.nextCmd, chainPos := 0, chainParked := false }
    let s := s.count t 0x021 1
    .done (if va = 0 then s else s.postOnce .chainRecordRead m ch) none

/-- The completed identifier of a channel, or the DONE of an engine (14 R364 XSTAT). -/
def State.xstatChan (s : State) (t ch : Nat) : Res :=
  let m := (s.th t).member
  if (s.mb m).nchan ≤ ch then .trap s boundsTrap else .done s (some (BitVec.ofNat 64 (s.channel m ch).completed))

/-- XSTAT of an engine's DONE. -/
def State.xstatEng (s : State) (t e : Nat) : Res := .done s (some (((s.th t).engCtr e).done.setWidth 64))

/-- XWAIT on identifier n of a channel; with `lead`, on that transfer's end or leading-element count. -/
def State.xwaitChan (s : State) (t ch : Nat) (n : Word) (lead : Option Word) : Res :=
  let m := (s.th t).member
  let c := s.channel m ch
  if (s.mb m).nchan ≤ ch ∨ c.issued < n.toNat then .trap s boundsTrap
  else match lead with
    | none => if n.toNat ≤ c.completed then .done s none else .wait s (some .xwait)
    | some b =>
      let met := match s.cmds.find? fun x => s.chanOf x == some (m, ch) && x.eseq == n.toNat with
        | some x => x.finished || decide (b.toNat ≤ x.pos)
        | none => true
      if met then .done s none else .wait s (some .xwait)

/-- XWAIT on number n of an engine of the thread, compared as CSEQ values are (02 R43). -/
def State.xwaitEng (s : State) (t e : Nat) (n : BitVec 32) : Res :=
  let c := (s.th t).engCtr e
  if seqLt c.issued n then .trap s boundsTrap
  else if seqLe n c.done then .done s none
  else .wait s (some .xwait)

/-! ### Monitors of a thread (07 R194, R195) -/

/-- The first monitor entry on a sector recalls it from the L1 that holds it DIRTY, for a context of region rid. -/
def State.recall (s : State) (rid a : Nat) : State := s.quiet rid (s.dirRecall a)

/-- A monitor entry of a member, for its thread or channel `thr`. -/
def State.memberMonitor (s : State) (kind m thr hwctx owner sector : Nat) : Monitor :=
  { kind, die := (s.mb m).die, cluster := (s.mb m).cluster, half := (s.mb m).half, thr, hwctx, age := 0, sector, owner }

/-- Thread t watches the sector of physical address a. -/
def State.watch (s : State) (kind t a : Nat) : State :=
  (s.recall (s.ridOf t) a).placeMonitor (s.memberMonitor kind (s.th t).member (s.th t).slotIdx (s.th t).hwctx t (a / 64))

/-- A monitor entry of a kind and owner is held at some slice. -/
def State.watching (s : State) (kind owner : Nat) : Bool :=
  s.dies.toList.any fun d => d.monitors.any fun m => m.kind == kind && m.owner == owner

/-! ### Chained transfers (06 R158, R159) -/

/-- A transfer record's command fields: scope, sem bit, next record and the two descriptors. -/
def parseRecord (bs : List Byte) : Option (Scope × Option Nat × Nat × Desc × Desc) :=
  let hdr := leAt bs 0 1
  let next := leAt bs 8 8
  if 4 ≤ fld hdr 1 3 ∨ fld hdr 5 3 ≠ 0 ∨ ¬ zerosAt bs 2 6 ∨ ¬ zerosAt bs 0x10 48 ∨ ¬ zerosAt bs 0x1C0 64 ∨ next % 64 ≠ 0 then
    none
  else match parseDesc ((bs.drop 0x40).take 192), parseDesc ((bs.drop 0x100).take 192) with
    | some a, some b =>
      if pairRefused a b then none
      else some (match fld hdr 1 3 with | 0 => .str | 1 => .clu | 2 => .die | _ => .dev,
        if bitAt hdr 4 then some (leAt bs 1 1) else none, next, a, b)
    | _, _ => none

/-- A record of a chain fails: the chain stops, named by the XCHAIN's PC and the channel's number (06 R158). -/
def State.faultChain (s : State) (m ch : Nat) (tr : Trap) : State :=
  let x := s.channel m ch
  let c : Cmd := { id := s.nextCmd, thr := x.chainThr, eng := 1, eseq := x.issued + 1, pc := x.chainPc, cseq := x.chainSeq,
                   scope := .str, locks := [], pos := x.chainPos, fault := none, finished := false, cover := [],
                   body := .chain ch }
  State.faultCmd { s with cmds := s.cmds ++ [c], nextCmd := s.nextCmd + 1 } c { tr with elem := x.chainPos }

/-- The record at a channel's chain register has OWN = 1: its transfer joins the channel, OWN is cleared at its home slice,
and the chain goes on with NEXT. -/
def State.takeRecord (s : State) (m ch : Nat) (bs : List Byte) : State :=
  let x := s.channel m ch
  let cx := s.ctxOf x.chainThr
  match parseRecord bs with
  | none => s.faultChain m ch boundsTrap
  | some (sc, sem, next, a, b) =>
    if (s.mb m).semOut sem then s.faultChain m ch boundsTrap
    else match s.atomicElem cx x.chain 8 (fun o => some (o / 2 * 2)) with
      | (s, .error tr) => s.faultChain m ch tr
      | (s, .ok _) =>
        let id := x.issued + 1
        let c : Cmd := { id := s.nextCmd, thr := x.chainThr, eng := 1, eseq := id, pc := x.chainPc, cseq := x.chainSeq,
                         scope := sc, locks := [], pos := 0, fault := none, finished := false, cover := [],
                         body := .copy a b a.count ch sem true }
        let s := { s with cmds := s.cmds ++ [c], nextCmd := s.nextCmd + 1 }
        let s := s.modChan m ch fun y => { y with issued := id, chain := BitVec.ofNat 64 next, chainPos := x.chainPos + 1 }
        let s := s.started c.id
        if next = 0 then s else s.postOnce .chainRecordRead m ch

/-- The engine reads the record at the chain register of a channel: it consumes it, parks, waits for room or stops at a
fault. None when the channel has no chain to read. -/
def State.chainRead (s : State) (m ch : Nat) : Option State :=
  let x := s.channel m ch
  let stopped := s.cmds.any fun c => c.body == .chain ch && (s.th c.thr).member == m
  if x.chain = 0 ∨ stopped then none
  else if 16 ≤ s.queued m ch ∨ s.heldBefore x.chainThr x.chainNum true x.chain 8 ∨ s.heldBefore x.chainThr x.chainNum false x.chain 512 then
    some s
  else
    let cx := s.ctxOf x.chainThr
    let s := s.modChan m ch fun y => { y with chainParked := false }
    match s.access cx .read false x.chain 8 with
    | (s, .error tr) => some (s.faultChain m ch tr)
    | (s, .ok sp) =>
      let q := s.readSpans cx 0 sp
      if bitAt (leNat q.2) 0 then match q.1.readBlock cx x.chain 512 with
        | (s, .error tr) => some (s.faultChain m ch tr)
        | (s, .ok bs) => some (s.takeRecord m ch bs)
      else
        let s := q.1.modChan m ch fun y => { y with chainParked := true }
        some (match sp with
          | [⟨.phys a _, _⟩] => if s.watching 2 (m * 8 + ch) then s else
              (s.recall cx.rid a).placeMonitor (s.memberMonitor 2 m ch (s.th x.chainThr).hwctx (m * 8 + ch) (a / 64))
          | _ => s)

/-! ### Token queues (06 R154, R155) -/

/-- A control block as a token operation finds it: its physical address, ring, log size, HEAD and TAIL. -/
structure TokQ where
  a : Nat
  ring : Nat
  log : Nat
  head : Nat
  tail : Nat
  deriving DecidableEq, Repr

/-- The control block at va, checked as an atomic's place. -/
def State.tokQ (s : State) (cx : ACtx) (va : Word) : State × Except Trap TokQ :=
  if va.toNat % 64 ≠ 0 then (s, .error (misaligned va))
  else match s.access cx .atomic true va 64 with
    | (s, .error tr) => (s, .error tr)
    | (s, .ok sp) => match sp with
      | [⟨.phys a _, _⟩] =>
        let s := s.dirFlush a
        let q : TokQ := { a, ring := Mem.readNat s.mem a 8, log := Mem.readNat s.mem (a + 8) 1,
                          head := Mem.readNat s.mem (a + 0x10) 8, tail := Mem.readNat s.mem (a + 0x18) 8 }
        if q.log = 0 ∨ 16 < q.log ∨ q.ring % 16 ≠ 0 then (s, .error boundsTrap) else (s, .ok q)
      | _ => (s, .error boundsTrap)

/-- The queue holds as many tokens as its ring. -/
def TokQ.full (q : TokQ) : Bool := 2 ^ q.log ≤ (q.tail + 2 ^ 64 - q.head) % 2 ^ 64
/-- The queue holds none. -/
def TokQ.empty (q : TokQ) : Bool := q.tail == q.head
/-- The slot of a running count. -/
def TokQ.slot (q : TokQ) (n : Nat) : Word := BitVec.ofNat 64 (q.ring + n % 2 ^ q.log * 16)

/-- A token posted with its producer's placement: the slot, then TAIL (06 R154, R155). `held` tells of a slot that an engine of the
poster has still to read or write (05 R126). -/
def State.tokPost (s : State) (cx : ACtx) (held : Word → Bool) (va val : Word) (place : Nat) : State × EStat :=
  match s.tokQ cx va with
  | (s, .error tr) => (s, .fault tr)
  | (s, .ok q) =>
    if q.full then (s, .fault (causeTrap 0x16))
    else if held (q.slot q.tail) then (s, .stall)
    else match s.writeElem cx 0 false (q.slot q.tail) 16 (val.toNat + place * 2 ^ 64) [] with
      | (s, _, some tr) => (s, .fault tr)
      | (s, _, none) => (s.physWrite (q.a + 0x18) (bytesOf 8 (q.tail + 1)), .run)

/-- What a take comes to. -/
inductive Taken where
  | val (v : Word)
  /-- the queue, with its control block at a, is empty -/
  | empty (a : Nat)
  /-- an engine of the taker has still to write the slot (05 R126) -/
  | held
  | trap (tr : Trap)
  deriving DecidableEq, Repr

/-- A token taken: the value at the head, then HEAD (06 R155). -/
def State.tokTake (s : State) (cx : ACtx) (held : Word → Bool) (va : Word) : State × Taken :=
  match s.tokQ cx va with
  | (s, .error tr) => (s, .trap tr)
  | (s, .ok q) =>
    if q.empty then (s, .empty q.a)
    else if held (q.slot q.head) then (s, .held)
    else match s.readElem cx 0 .read false (q.slot q.head) 8 with
      | (s, .error tr) => (s, .trap tr)
      | (s, .ok v) => (s.physWrite (q.a + 0x10) (bytesOf 8 (q.head + 1)), .val (BitVec.ofNat 64 v))

/-- The die and physical cluster of thread t, as a token carries them. -/
def State.placeOfThread (s : State) (t : Nat) : Nat := (s.mbOf t).die * 256 + (s.mbOf t).cluster

/-! ### Launch queues (06 R149-R151) -/

/-- An empty launch queue. -/
def LaunchQ.reset : LaunchQ :=
  { tokens := [], head := 0, tail := 0, ovf := false, desc := none, depMet := false, reserving := false, account := 0, runnable := false }

/-- The launch queue of region rid. -/
def State.lqueue (s : State) (rid : Nat) : LaunchQ := (Tbl.find rid s.lqueues).getD LaunchQ.reset

/-- The launch queue of region rid changed by f. -/
def State.modLq (s : State) (rid : Nat) (f : LaunchQ → LaunchQ) : State :=
  { s with lqueues := Tbl.insert rid (f (s.lqueue rid)) s.lqueues }

/-- The 64 bytes of a launch token (06 R151). -/
def parseToken (bs : List Byte) : Token :=
  let depk := leAt bs 0x18 1
  let obj := leAt bs 0x20 8
  let cnt := leAt bs 0x28 8
  { desc := BitVec.ofNat 64 (leAt bs 0 8), args := BitVec.ofNat 64 (leAt bs 8 8), donerec := BitVec.ofNat 64 (leAt bs 0x10 8),
    depk, depobj := BitVec.ofNat 64 obj, depcnt := BitVec.ofNat 64 cnt, num := 0, tag := BitVec.ofNat 64 (leAt bs 0x30 8),
    malformed := !zerosAt bs 0x19 7 || !zerosAt bs 0x38 8 || decide (2 < depk) || (depk == 0 && obj != 0) ||
      (depk == 2 && decide (256 ≤ obj)) || (depk != 2 && cnt != 0) || leAt bs 0x10 8 % 16 != 0, enq := 0 }

/-- The launch queue of region rid has room for one token more: its LQENT, and the die's 4,096 entries. -/
def State.lqRoom (s : State) (rid : Nat) : Bool :=
  let home := (s.region rid).home
  let here : List Nat := (s.lqueues.filter fun q => (s.region q.1).home == home).map fun q => q.2.tokens.length
  decide ((s.lqueue rid).tokens.length < (s.region rid).lqent) && decide (here.sum < 4096)

/-- A token joins the launch queue of region rid; its arrival makes the scheduler look at the queue and run a pass. -/
def State.appendToken (s : State) (rid : Nat) (k : Token) : State :=
  let s := { s with launches := s.launches + 1 }.modLq rid fun q =>
    { q with tokens := q.tokens ++ [{ k with enq := (s.die (s.region rid).home).sched, num := s.launches }] }
  (s.postOnce .launchQueueHead rid).postOnce .schedulingPass (s.region rid).home

/-! ### Binning (07 R204, R205) -/

/-- The 576 bytes of a class table with every field in its limits: row pointers, rows, pointer size and classes. -/
def parseClasses (bs : List Byte) : Option (Nat × Nat × Nat × List BinClass) :=
  let rowptr := leAt bs 0 8
  let nrows := leAt bs 8 5
  let psize := leAt bs 0x0D 1
  let ncls := leAt bs 0x0E 1
  let cls := (List.range ncls).map fun k =>
    let o := 0x40 + 64 * k
    ({ upper := leAt bs o 8, list := leAt bs (o + 8) 8, count := leAt bs (o + 0x10) 8, kdesc := leAt bs (o + 0x18) 8,
       kargs := leAt bs (o + 0x20) 8, tkq := leAt bs (o + 0x28) 8, n := 0 } : BinClass)
  if (psize ≠ 2 ∧ psize ≠ 3) ∨ ncls = 0 ∨ 8 < ncls ∨ 2 ^ 32 ≤ nrows ∨ rowptr % 2 ^ psize ≠ 0 ∨ ¬ zerosAt bs 0x0F 49 ∨
      ¬ zerosAt bs (0x40 + 64 * ncls) (64 * (8 - ncls)) ∨
      (List.range ncls).any (fun k => !zerosAt bs (0x40 + 64 * k + 0x30) 16) ∨
      cls.any (fun c => c.list % 4 != 0 || (c.kdesc != 0 && c.tkq == 0)) ∨
      (cls.zip (cls.drop 1)).any (fun p => decide (p.2.upper ≤ p.1.upper)) ∨
      cls.getLast?.map (·.upper) ≠ some (2 ^ 64 - 1) then none
  else some (rowptr, nrows, psize, cls)

/-- The interlock entries of a BIN: its lists and its counts (14 R365). -/
def binLocks (n : BitVec 32) (nrows : Nat) (cls : List BinClass) : List Interlock :=
  cls.flatMap fun c =>
    (if nrows = 0 then [] else [lockOf true false 3 2 n c.list (c.list + 4 * nrows - 1) c.list]) ++
      [lockOf true false 3 3 n c.count (c.count + 7) c.count]

/-- BIN of thread t (14 R365). -/
def State.binCmd (s : State) (t : Nat) (si : Site) (sc : Scope) (va : Word) : Res :=
  if s.interlocked t false va 576 then .wait s none
  else if va.toNat % 64 ≠ 0 then .trap s (misaligned va)
  else match s.readBlock (s.ctxOf t) va 576 with
    | (s, .error tr) => .trap s tr
    | (s, .ok bs) => match parseClasses bs with
      | none => .trap s boundsTrap
      | some (rowptr, nrows, psize, cls) =>
        let n := (s.th t).nextEseq 3
        s.accept t si 3 0 n.toNat sc (binLocks n nrows cls) (.bin rowptr nrows psize cls) fun s c => .done (s.started c) none

/-- The classes of a BIN command as it stands. -/
def State.binClasses (s : State) (id : Nat) : List BinClass :=
  match s.cmd id with | some c => (match c.body with | .bin _ _ _ cls => cls | _ => []) | none => []

/-- Row i of a BIN command: its length, its class, and its place in that class's list. -/
def State.binRow (c : Cmd) (rowptr nrows psize : Nat) (s : State) (i : Nat) : State × EStat :=
  let cx := s.ctxOf c.thr
  let w := 2 ^ psize
  let p := BitVec.ofNat 64 (rowptr + i * w)
  if s.engHeld c false p (2 * w) then (s, .stall)
  else match s.readElem cx 0 .read false p w with
  | (s, .error tr) => (s, .fault tr)
  | (s, .ok lo) => match s.readElem cx 0 .read false (p + BitVec.ofNat 64 w) w with
    | (s, .error tr) => (s, .fault tr)
    | (s, .ok hi) =>
      if hi < lo then (s, .fault boundsTrap)
      else
        let cls := s.binClasses c.id
        let k := cls.findIdx fun b => decide (hi - lo ≤ b.upper)
        let b := cls.getD k { upper := 0, list := 0, count := 0, kdesc := 0, kargs := 0, tkq := 0, n := 0 }
        let dst := BitVec.ofNat 64 (b.list + 4 * b.n)
        if s.engHeld c true dst 4 then (s, .stall)
        else match s.writeElem cx 0 false dst 4 i [] with
          | (s, _, some tr) => (s, .fault tr)
          | (s, _, none) =>
            let cls := cls.modify k fun b => { b with n := b.n + 1 }
            (s.modCmd c.id fun d => { d with body := .bin rowptr nrows psize cls }, .run)

/-- The count of class k written; a fault there is that of element k (07 R205; assumption log 111). -/
def State.binCount (c : Cmd) (s : State) (k : Nat) : State × EStat :=
  let b := (s.binClasses c.id).getD k { upper := 0, list := 0, count := 0, kdesc := 0, kargs := 0, tkq := 0, n := 0 }
  let dst := BitVec.ofNat 64 b.count
  if s.engHeld c true dst 8 then (s, .stall)
  else match s.writeElem (s.ctxOf c.thr) 0 false dst 8 b.n [] with
    | (s, _, some tr) => (s, .fault { tr with elem := k })
    | (s, _, none) => (s, .run)

/-- Class k launched and its count posted, both or neither. -/
def State.binLaunch (c : Cmd) (s : State) (k : Nat) : State × EStat :=
  let b := (s.binClasses c.id).getD k { upper := 0, list := 0, count := 0, kdesc := 0, kargs := 0, tkq := 0, n := 0 }
  let rid := s.ridOf c.thr
  if b.n = 0 ∨ b.kdesc = 0 then (s, .run)
  else if ¬ s.lqRoom rid then (s, .fault { causeTrap 0x16 with elem := k })
  else if s.engHeld c true (BitVec.ofNat 64 b.tkq) 64 then (s, .stall)
  else match s.tokPost (s.ctxOf c.thr) (fun a => s.engHeld c true a 16) (BitVec.ofNat 64 b.tkq) (BitVec.ofNat 64 b.n)
      (s.placeOfThread c.thr) with
    | (s, .fault tr) => (s, .fault { tr with elem := k })
    | (s, .stall) => (s, .stall)
    | (s, .run) =>
      (s.appendToken rid { Token.zero with desc := BitVec.ofNat 64 b.kdesc, args := BitVec.ofNat 64 b.kargs, depk := 1,
                                            depobj := BitVec.ofNat 64 b.tkq }, .run)

/-- The leading-element counts of a BIN's entries at position p: the rows listed in each class, and its count once written (08
R212). -/
def binLeads (nrows p : Nat) (cls : List BinClass) : List Nat :=
  cls.zipIdx.flatMap fun (b, k) => (if nrows = 0 then [] else [b.n]) ++ [if nrows + k < p then 1 else 0]

/-- A BIN command runs on: its rows, then its counts, then its launches; its position counts all three. -/
def State.runBin (s : State) (c : Cmd) (rowptr nrows psize : Nat) (cls : List BinClass) : State :=
  let m := cls.length
  let r := engLoop (fun s p => if p < nrows then State.binRow c rowptr nrows psize s p
      else if p < nrows + m then State.binCount c s (p - nrows) else State.binLaunch c s (p - nrows - m))
    (List.range' c.pos (nrows + 2 * m - c.pos)) s
  let p := c.pos + r.2.1
  let s := (r.1.modCmd c.id fun d => { d with pos := p }).leadEach c.thr (c.locks.zip (binLeads nrows p (r.1.binClasses c.id)))
  match r.2.2 with
  | .run => s.completeCmd c
  | .stall => s
  | .fault tr => s.faultCmd c { tr with elem := if p < nrows then p else tr.elem }

end Sys2Proof.Machine
end

