-- ==== Sys2Proof/Machine/Sync.lean ====
section
/-! DEFINITION. Synchronisation, atomics, tokens, launches and marks (14 R351-R356, R358-R361, R372): what each operation
does, whichever core issues it. -/

namespace Sys2Proof.Machine

/-! ### Semaphores and boxes (R351-R353) -/

/-- The order in which threads reach a sem bit: the control thread, then the strands (R352). -/
def Thread.semRank (th : Thread) : Nat := if th.kind = .control then 0 else 1 + th.slotIdx

/-- Thread t waits for sem bit k of its member. -/
def Thread.waitsSem (th : Thread) (k : Nat) : Bool :=
  th.run == .blocked (.semtas k) || th.inflight.any fun i => i.wait == some (.semtas k)

/-- Sem bit k of thread t's member may be taken by t: it is 1, and no blocked taker comes before t (R352). -/
def State.semFree (s : State) (t k : Nat) : Bool :=
  let m := (s.th t).member
  (s.mb m).sem.getLsbD k &&
  !((s.threadsOf m).any fun u => u != t && (s.th u).waitsSem k && decide ((s.th u).semRank < (s.th t).semRank))

/-- SEMTAS. -/
def State.semtas (s : State) (t k : Nat) : Res :=
  let m := (s.th t).member
  if (s.mb m).nsem ≤ k then .trap s boundsTrap
  else if s.semFree t k then .done (s.putSem m k false) (some 0)
  else .wait s (some (.semtas k))

/-- SEMTRY. -/
def State.semtry (s : State) (t k : Nat) : Res :=
  let m := (s.th t).member
  if (s.mb m).nsem ≤ k then .trap s boundsTrap
  else if s.semFree t k then .done (s.putSem m k false) (some 1)
  else .done s (some 0)

/-- SEMSET and SEMCLR. -/
def State.semWrite (s : State) (t k : Nat) (b : Bool) : Res :=
  let m := (s.th t).member
  if (s.mb m).nsem ≤ k then .trap s boundsTrap else .done (s.putSem m k b) none

/-- BOXR. -/
def State.boxRead (s : State) (t k : Nat) : Res :=
  let m := s.mbOf t
  if m.nbox ≤ k then .trap s boundsTrap else .done s (some (vget m.box k 0))

/-- BOXW. -/
def State.boxWrite (s : State) (t k : Nat) (v : Word) : Res :=
  if (s.mbOf t).nbox ≤ k then .trap s boundsTrap
  else .done (s.modMb (s.th t).member fun m => { m with box := vset m.box k v }) none

/-! ### Barriers and fences (R354, R355) -/

/-- The participants of a barrier of thread t. -/
def State.barParts (s : State) (t : Nat) (teamWide : Bool) : List Nat :=
  if teamWide then s.teamThreads (s.th t).team else s.threadsOf (s.th t).member

/-- The arrivals recorded at a barrier of thread t: thread, and one more than its last generation. -/
def State.arrivals (s : State) (t : Nat) (teamWide : Bool) : Tbl Nat :=
  if teamWide then (s.tm (s.th t).team).barArrived else (s.mbOf t).barArrived

/-- Generation g is complete: every participant has arrived with it or has ended. -/
def State.barDone (s : State) (t : Nat) (teamWide : Bool) (g : Nat) : Bool :=
  (s.barParts t teamWide).all fun u =>
    (s.th u).run == .done || (s.th u).run == .endedStopped || decide (g < (Tbl.find u (s.arrivals t teamWide)).getD 0)

/-- BAR: the thread arrives with its number, and leaves when the generation is complete. Arriving again with the same
number changes nothing. -/
def State.barrier (s : State) (t : Nat) (sc : Scope) : Res :=
  match sc with
  | .str => .trap s (causeTrap 0x01)
  | .fab => .trap s (causeTrap 0x01)
  | _ =>
    let wide := sc != .clu
    let g := if wide then (s.th t).teamBar else (s.th t).memberBar
    let s := if wide then s.modTm (s.th t).team fun k => { k with barArrived := Tbl.insert t (g + 1) k.barArrived }
      else s.modMb (s.th t).member fun m => { m with barArrived := Tbl.insert t (g + 1) m.barArrived }
    if s.barDone t wide g then
      .done (s.modTh t fun th => if wide then { th with teamBar := g + 1 } else { th with memberBar := g + 1 }) none
    else .wait s (some (.bar wide g))

/-- FENCE of thread t: with eng, its engine commands have completed; at FAB, its remote elements are acknowledged. -/
def State.fence (s : State) (t : Nat) (sc : Scope) (eng : Bool) : Res :=
  if eng ∧ ((s.th t).platen ≠ [] ∨ s.cmds.any fun c => c.thr == t && !c.finished) then .wait s none
  else if sc = .fab ∧ (s.remotes.any fun r => r.thr == t && r.answer.isNone) then .wait s none
  else .done s none

/-! ### Monitored waits (R356) -/

/-- A waiting operation: its thread, the owner of its monitor entry, whether it has been entered already, whether its
thread has been off-core since, why its entry ended, and the cycle it was entered. -/
structure Waiter where
  t : Nat
  owner : Nat
  waiting : Bool
  resumed : Bool
  wake : Option WakeReason
  start : Nat

/-- The code of a reason (R356). -/
def wakeCode : WakeReason → Nat
  | .write => 1 | .evict => 2 | .resume => 3 | .timeout => 4

/-- Why a waiting MWAIT that a save has withdrawn ends: for the first reason it received, else RESUME (07 R196). -/
def Waiter.afterSave (w : Waiter) : WakeReason := w.wake.getD .resume

/-- MWAIT of `n` bytes at va: VALUE at once, or blocked until its entry ends. -/
def State.mwait (s : State) (w : Waiter) (va expect : Word) (n timeout : Nat) (trapTo : Bool) : Res :=
  let fin := fun (s : State) (why : WakeReason) =>
    let s := s.dropMonitors 0 w.owner
    let v : Word := BitVec.ofNat 64 (wakeCode why)
    if why = .timeout ∧ trapTo then Res.after s (some v) (causeTrap 0x0A) else Res.done s (some v)
  if w.resumed then fin s w.afterSave
  else if w.waiting then
    match w.wake with
    | some r => fin s r
    | none =>
      if timeout ≠ 0 ∧ timeout ≤ (s.cycleOf w.t).toNat - w.start then fin s .timeout
      else .wait s (some (.mwait 0))
  else if s.interlocked w.t false va n then .wait s none
  else match s.access (s.ctxOf w.t) .monitored true va n with
    | (s, .error tr) => .trap s tr
    | (s, .ok sp) => match sp with
      | [⟨.phys a _, _⟩] =>
        let s := (s.recall (s.ridOf w.t) a).placeMonitor
          (s.memberMonitor 0 (s.th w.t).member (s.th w.t).slotIdx (s.th w.t).hwctx w.owner (a / 64))
        if Mem.readNat s.mem a n ≠ expect.toNat % 2 ^ (8 * n) then .done (s.dropMonitors 0 w.owner) (some 0)
        else .wait s (some (.mwait (a / 64)))
      | _ => .trap s boundsTrap

/-! ### Watermarks, tokens and launches (R358-R360) -/

/-- The entry of the watermark table that an instruction of thread t names, with the die that holds it. -/
def State.wmNamed (s : State) (t entry : Nat) : Option (Nat × WmEntry) :=
  let rid := s.ridOf t
  let d := (s.region rid).home
  match Tbl.find entry (s.die d).wmarks with
  | some e => if e.rid = rid then some (d, e) else none
  | none => none

/-- The code of a scope. -/
def scopeCode : Scope → Nat
  | .str => 0 | .clu => 1 | .die => 2 | .dev => 3 | .fab => 4

/-- WMPUB: COUNT only rises. -/
def State.wmpub (s : State) (t : Nat) (sc : Scope) (entry : Nat) (n : Word) : Res :=
  match s.wmNamed t entry with
  | none => .trap s boundsTrap
  | some (d, e) =>
    if e.nelem < n.toNat then .trap s boundsTrap
    else
      let s := s.modDie d fun x =>
        { x with wmarks := Tbl.insert entry { e with count := max e.count n.toNat, scope := scopeCode sc } x.wmarks }
      .done (s.lqueues.foldl (fun s (r, q) => if (q.tokens.head?.map (·.depk)) = some 2 then s.postOnce .launchQueueHead r else s) s)
        none

/-- WMCHK. -/
def State.wmchk (s : State) (t entry : Nat) : Res :=
  match s.wmNamed t entry with
  | none => .trap s boundsTrap
  | some (_, e) => .done s (some (BitVec.ofNat 64 e.count))

/-- TKPOST. -/
def State.tkpost (s : State) (t : Nat) (va v : Word) : Res :=
  if s.interlocked t true va 64 then .wait s none
  else match s.tokPost (s.ctxOf t) (fun a => s.interlocked t true a 16) va v (s.placeOfThread t) with
    | (s, .fault tr) => .trap s tr
    | (s, .stall) => .wait s none
    | (s, .run) => .done s none

/-- TKTAKE: a blocked taker holds a monitor entry on the control block and retries. -/
def State.tktake (s : State) (w : Waiter) (va : Word) : Res :=
  if s.interlocked w.t true va 64 then .wait s none
  else match s.tokTake (s.ctxOf w.t) (fun a => s.interlocked w.t false a 8) va with
    | (s, .trap tr) => .trap (s.dropMonitors 1 w.owner) tr
    | (s, .held) => .wait s none
    | (s, .val v) => .done (s.dropMonitors 1 w.owner) (some v)
    | (s, .empty a) =>
      .wait (if s.watching 1 w.owner then s else
        (s.recall (s.ridOf w.t) a).placeMonitor
          (s.memberMonitor 1 (s.th w.t).member (s.th w.t).slotIdx (s.th w.t).hwctx w.owner (a / 64))) (some .tktake)

/-- LAUNCH: a token image appended to the queue of the thread's own region or of a sibling leaf. -/
def State.launch (s : State) (t : Nat) (va : Word) (region : Nat) : Res :=
  let own := s.ridOf t
  let rid := if region = 0 then own else region
  let parent := fun r => (Tbl.find r s.regions).map (·.parent)
  if s.interlocked t false va 64 then .wait s none
  else if va.toNat % 64 ≠ 0 then .trap s (misaligned va)
  else match s.readBlock (s.ctxOf t) va 64 with
    | (s, .error tr) => .trap s tr
    | (s, .ok bs) =>
      if ¬ s.validRegion rid ∨ ¬ (s.region rid).leaf ∨
          (rid ≠ own ∧ (parent rid ≠ parent own ∨ parent own = some 0)) then .trap s boundsTrap
      else if ¬ s.lqRoom rid then .trap s (causeTrap 0x16)
      else .done (s.appendToken rid (parseToken bs)) none

/-! ### Far atomics (R361) -/

/-- The old value of an atomic, extended (R361). -/
def oldWord (signed : Bool) (n old : Nat) : Word :=
  if signed then BitVec.ofInt 64 (sintOf (8 * n) old) else BitVec.ofNat 64 old

/-- An atomic at this module's home slice. The flags of a floating-point atomic are ORed into FFLAGS. -/
def State.farAtomic (s : State) (t : Nat) (signed : Bool) (va : Word) (n : Nat) (f : Nat → Nat × BitVec 5) : Res :=
  if s.interlocked t true va n then .wait s none
  else match s.atomicElem (s.ctxOf t) va n (fun o => some (f o).1) with
    | (s, .error tr) => .trap s tr
    | (s, .ok old) => .done (s.orFlags t (f old).2) (some (oldWord signed n old))

/-- The lane number that marks a scalar remote atomic. -/
def scalarLane : Nat := 32

/-- The remote atomic of convoy or word q of thread t that has no result yet. -/
def State.remoteOf (s : State) (t : Nat) (q : BitVec 32) : Option RemoteOut :=
  s.remotes.find? fun r => r.thr == t && r.seq == q && r.lane == scalarLane

/-- What a remote atomic comes to once it is answered: its engine-8 number completes; a fault keeps the number for the
re-execution (08 R209). -/
def State.remoteDone (s : State) (t : Nat) (n : BitVec 32) (signed : Bool) (w : Nat) (fl : Word → BitVec 5) : Answer → Res
  | .val v => .done (((s.completeEng t 8 n).orFlags t (fl v)).modTh t fun th => { th with amoNum := none })
      (some (oldWord signed w (v.toNat % 2 ^ (8 * w))))
  | .trap tr => .trap ((s.completeEng t 8 n).modTh t fun th => { th with amoNum := some n }) { tr with elem := 0 }

/-- An atomic with REMOTE: sent once, with its engine-8 number, and done when its answer comes (R361, 07 R183). -/
def State.remoteAtomic (s : State) (t : Nat) (si : Site) (ref : Word) (signed : Bool) (w : Nat) (kind : RemoteKind)
    (fl : Word → BitVec 5) : Res :=
  match s.remoteOf t si.seq with
  | some r => match r.answer with
    | none => .later s
    | some a => State.remoteDone { s with remotes := s.remotes.filter fun x => x.tagno != r.tagno } t (r.eseq.getD 0) signed w fl a
  | none =>
    let fresh := (s.th t).amoNum.isNone
    let n := (s.th t).amoNum.getD ((s.th t).nextEseq 8)
    if fresh ∧ (s.th t).engBreak si.pc 8 0 n then .brk s 8 0 n
    else
      let s := if fresh then s.acceptEng t 8 0 n else s.modTh t fun th => { th with amoNum := none }
      let r : RemoteOut :=
        { tagno := 0, thr := t, dst := getField ref 54 10, forme := getField ref 40 14, elem := getField ref 0 40, width := w,
          kind, vd := none, idx := 0, lane := scalarLane, ew := 8 * w, seq := si.seq, retries := 0, answer := none,
          eseq := some n }
      match s.sendRemote r with
      | (s, some a) => s.remoteDone t n signed w fl a
      | (s, none) => .later s

/-- AMO. -/
def State.amo (s : State) (t : Nat) (si : Site) (op : AmoOp) (signed : Bool) (w : Nat) (remote : Bool) (a b : Word) : Res :=
  let d := b.toNat % 2 ^ (8 * w)
  if remote then s.remoteAtomic t si a signed w (.amo op signed (BitVec.ofNat 64 d)) fun _ => 0
  else s.farAtomic t signed a w fun o => (amoNew op signed (8 * w) o d, 0)

/-- AMOCAS: it writes even when the comparison fails. -/
def State.amocas (s : State) (t : Nat) (si : Site) (signed : Bool) (w : Nat) (remote : Bool) (a new want : Word) : Res :=
  let d := new.toNat % 2 ^ (8 * w)
  let e := want.toNat % 2 ^ (8 * w)
  if remote then s.remoteAtomic t si a signed w (.cas (BitVec.ofNat 64 e) (BitVec.ofNat 64 d)) fun _ => 0
  else s.farAtomic t signed a w fun o => (if o = e then d else o, 0)

/-- FAMO: RNE without FTZ; its flags are ORed and it never traps FPX. -/
def State.famo (s : State) (t : Nat) (si : Site) (op : FRedOp) (f64 remote : Bool) (a b : Word) : Res :=
  let w := if f64 then 8 else 4
  let d := b.toNat % 2 ^ (8 * w)
  if remote then s.remoteAtomic t si a false w (.famo op (BitVec.ofNat 64 d)) fun o => (famoNew op f64 o.toNat d).flags
  else s.farAtomic t false a w fun o => ((famoNew op f64 o d).bits, (famoNew op f64 o d).flags)

/-! ### Capture and sampling marks (R372, 08 R216, R217, R220) -/

/-- CAPSTOP: the record is checked whole before any byte is written; with ACTIVE = 0 it does nothing. -/
def State.capStop (s : State) (t : Nat) (va : Word) : Res :=
  if ¬ getBit (s.th t).sys.capstate 0 then .done s none
  else if s.interlocked t true va 256 then .wait s none
  else if va.toNat % 64 ≠ 0 then .trap s (misaligned va)
  else match s.writeBlock (s.ctxOf t) va (s.th t).captureBytes with
    | (s, some tr) => .trap s tr
    | (s, none) => .done (s.modTh t Thread.capstop) none

/-- SAMPLE: a MARK record while sampling is on. -/
def State.sampleMark (s : State) (t : Nat) (si : Site) (v : Word) : Res :=
  let n := (s.th t).newest
  .done (s.markRecord t 5 si.seq si.pc.toNat (getField n 0 32) (getField n 32 8) (getField n 40 8) v.toNat) none

end Sys2Proof.Machine
end

