-- ==== Sys2Proof/Machine/Message.lean ====
section
/-! DEFINITION. Messages (06 R160-R164, R486, 07 R206-R208, 08 R224, 14 R367-R371, 17 R417): the commands MSEND, MPOST,
MPROBE, MTEST and MCANCEL, what the receive engine does with an arrival, and how payloads and completions are written. -/

namespace Sys2Proof.Machine

/-! ### Endpoints and contexts (07 R207, 14 R367) -/

/-- A (module, endpoint) word. -/
def epWord (md ep : Nat) : Word := BitVec.ofNat 64 (md % 1024 * 2 ^ 54 + ep % 2 ^ 14 * 2 ^ 40)

/-- The trap MSGERR. -/
def msgErr (sub : BitVec 8) : Trap := { cause := 0x14, sub, elem := 0, addr := 0 }

/-- The endpoint an instruction of thread t uses: the one it names, else MSGEP. -/
def State.epOf (s : State) (t : Nat) (named : Option Nat) : Option Nat :=
  match named with
  | some e => some e
  | none => let r := (s.th t).sys.msgep; if getBit r 31 then some (getField r 0 14) else none

/-- A valid endpoint of thread t's region with a valid context: the endpoint, its context and that context's die. -/
def State.ownEp (s : State) (t : Nat) (named : Option Nat) : Except Trap (Nat × Nat × Nat) :=
  match s.epOf t named with
  | none => .error (msgErr 0x02)
  | some e => match Tbl.find e s.endpoints with
    | none => .error (msgErr 0x02)
    | some x => match Tbl.find x.mctx s.mctxs with
      | none => .error (msgErr 0x02)
      | some c =>
        if s.struck (.table (s.dieOf t) 4 e) ∨ s.struck (.table (s.dieOf t) 5 x.mctx) then .error (upsetTrap 0)
        else if x.rid = s.ridOf t then .ok (e, x.mctx, c.die % 4) else .error (msgErr 0x02)

/-! ### Matching (R162) -/

/-- A message and a receive's source, tag and masks. -/
def RecvBlk.takes (b : RecvBlk) (m : Msg) : Bool :=
  (epWord m.src m.sep ^^^ b.src) &&& b.srcmask == 0 && (m.tag ^^^ b.tag) &&& b.tagmask == 0

/-- The receive command c: its context and block, while it is unmatched. -/
def State.postedRecv (s : State) (c : Nat) : Option (Nat × RecvBlk) :=
  match s.cmd c with
  | some x => (match x.body with | .recv k b none _ _ => some (k, b) | _ => none)
  | none => none

/-- The first posted receive of context k on die d that takes message m. -/
def State.findPosted (s : State) (d k : Nat) (m : Msg) : Option Nat :=
  (s.die d).posted.find? fun c => match s.postedRecv c with | some (k', b) => k' == k && b.takes m | none => false

/-- The same message: source module and endpoint, destination endpoint and pair number. -/
def sameMsg (a b : Msg) : Bool := a.src == b.src && a.sep == b.sep && a.dep == b.dep && a.pseq == b.pseq

/-- Bytes of a receive's limit: min(MAXB, elements times their size). -/
def RecvBlk.limit (b : RecvBlk) : Nat := min b.maxb (match b.desc with | some d => d.count * d.bytes | none => 0)

/-- The bytes that receive b takes of message m: as many as its limit, of those that came (06 R163, R486). -/
def RecvBlk.want (b : RecvBlk) (m : Msg) : Nat :=
  let n := min m.len b.limit
  if m.path = 0 then min n m.payload.length else n

/-! ### The pair table and header slots (R161, R164, R206) -/

/-- The pairs of region r on die d. -/
def State.pairsUsed (s : State) (d r : Nat) : Nat :=
  ((s.die d).pairs.filter fun p => (Tbl.find p.mctx s.mctxs).map (·.rid) == some r).length

/-- The pair of a message on die d, if it has an entry. -/
def State.pairOf (s : State) (d : Nat) (m : Msg) : Option PairEntry :=
  (s.die d).pairs.find? fun p => p.smod == m.src && p.sep == m.sep && p.dep == m.dep

/-- The pair's next expected number set to q; a new pair gets its entry. -/
def State.setPair (s : State) (d k : Nat) (m : Msg) (q : BitVec 32) : State :=
  s.modDie d fun x =>
    let hit := fun (p : PairEntry) => p.smod == m.src && p.sep == m.sep && p.dep == m.dep
    if x.pairs.any hit then { x with pairs := x.pairs.map fun p => if hit p then { p with expect := q } else p }
    else { x with pairs := x.pairs ++ [{ smod := m.src, sep := m.sep, dep := m.dep, mctx := k, expect := q }] }

/-- A shared header slot of die d is free. -/
def Die.sharedFree (d : Die) : Bool :=
  decide ((d.unexp.filter (!·.reserved)).length < 262144 - (d.reserve.map (·.2)).sum)

/-- The bytes of region r's payload ring on die d that queued messages use (06 R160). -/
def State.ringUsed (s : State) (d r : Nat) : Nat :=
  (((s.die d).unexp.filter fun h => (Tbl.find h.mctx s.mctxs).map (·.rid) == some r).map (·.msg.payload.length)).sum

/-- The reserved slot of a source module and context is free. -/
def Die.reservedFree (d : Die) (k src : Nat) : Bool :=
  (Tbl.find k d.reserve).isSome && !(d.unexp.any fun h => h.reserved && h.mctx == k && h.msg.src == src)

/-! ### Digests (08 R224) -/

/-- The mixing function of the digests. -/
def digestMix (z : Word) : Word :=
  let z := z ^^^ (z >>> 31)
  let z := z * 0xA24BAED4963EE407
  let z := z ^^^ (z >>> 29)
  let z := z * 0x9FB21C651E98DF25
  z ^^^ (z >>> 32)

/-- One bit of a CRC-32C register. -/
def crcBit (c : BitVec 32) : BitVec 32 := if c.getLsbD 0 then (c >>> 1) ^^^ 0x82F63B78 else c >>> 1

/-- CRC-32C of bytes. -/
def crc32c (bs : List Byte) : BitVec 32 :=
  ~~~(bs.foldl (fun c b => (List.range 8).foldl (fun c _ => crcBit c) (c ^^^ b.setWidth 32)) (0xFFFFFFFF : BitVec 32))

/-- An accepted message counted at its attribution port: the port of the minimal path from its source. -/
def State.digest (s : State) (rid : Nat) (m : Msg) : State :=
  if m.src = s.moduleNo ∨ (s.region rid).conf then s
  else match Tbl.find m.src s.fab.active with
    | none => s
    | some r =>
      let w0 : Word := BitVec.ofNat 64 (m.src % 1024 + m.sep % 2 ^ 14 * 2 ^ 10 + m.dep % 2 ^ 14 * 2 ^ 24)
      let w1 : Word := BitVec.ofNat 64 (m.tag.toNat + m.len % 2 ^ 32 * 2 ^ 32)
      let crc := if m.path = 0 then (crc32c m.payload).toNat else 0
      let w2 : Word := BitVec.ofNat 64 (m.pseq.toNat + crc * 2 ^ 32)
      let h := digestMix (w0 ^^^ digestMix (w1 ^^^ digestMix w2))
      let p := vget s.ports r.minport Port.reset
      { s with ports := vset s.ports r.minport { p with ord := digestMix (p.ord ^^^ h), sum := p.sum + h, cnt := p.cnt + 1 } }

/-! ### A matched receive -/

/-- A receive begins: the payload of another module's forme is asked for, and everything else runs on here. -/
def State.startRecv (s : State) (c : Nat) (m : Msg) (limit : Nat) : State :=
  if m.path ≠ 0 ∧ getField m.fref 54 10 ≠ s.moduleNo then
    s.emit (s.packetTo m.src 0 (bytesOf 8 m.fref.toNat ++ bytesOf 8 (min m.len limit)))
  else s.post .engineCompletion c

/-- Message m given to receive c; a deferred one waits for its forme reference. -/
def State.giveMsg (s : State) (c : Nat) (m : Msg) (deferred : Bool) : State :=
  match s.postedRecv c with
  | none => s
  | some (k, b) =>
    let waits := deferred || (m.path != 0 && getField m.fref 54 10 != s.moduleNo)
    let s := s.modCmd c fun x => { x with body := .recv k b (some m) waits false }
    let s := s.allDies fun d => { d with posted := d.posted.filter (· != c) }
    if deferred then s else s.startRecv c m b.limit

/-- The held successors of a pair whose turn has come, in number order; n bounds how many. -/
def State.takeHeld (d k : Nat) (m : Msg) : Nat → BitVec 32 → State → State
  | 0, _, s => s
  | n + 1, q, s =>
    match (s.die d).unexp.find? fun h => h.held && h.msg.src == m.src && h.msg.sep == m.sep && h.msg.dep == m.dep && h.msg.pseq == q with
    | none => s
    | some h =>
      let s := (s.modDie d fun x => { x with unexp := x.unexp.erase h }).setPair d k m (q + 1)
      let s := match s.findPosted d k h.msg with
        | some c => s.giveMsg c h.msg h.deferred
        | none => s.modDie d fun x => { x with unexp := x.unexp ++ [{ h with held := false }] }
      State.takeHeld d k m n (q + 1) s

/-- What the receiver answers. -/
inductive MsgReply where
  | ack | defer | notReady
  | err (sub : BitVec 8)
  deriving DecidableEq, Repr

/-- The forme reference of a deferred message reaches its header, or the receive that has taken it. -/
def State.giveFref (s : State) (d : Nat) (m : Msg) : State :=
  let mine := fun (h : UnexpHdr) => h.deferred && sameMsg h.msg m
  let put := fun (h : UnexpHdr) =>
    if mine h then { h with deferred := false, msg := { h.msg with path := 1, fref := m.fref } } else h
  if (s.die d).unexp.any mine then s.modDie d fun x => { x with unexp := x.unexp.map put }
  else
    match s.cmds.find? fun c => match c.body with
      | .recv _ _ (some x) w _ => w && x.path == 0 && sameMsg x m | _ => false with
    | some c => (match c.body with
      | .recv k b (some x) _ p =>
        let y := { x with path := 1, fref := m.fref }
        let waits := getField m.fref 54 10 != s.moduleNo
        (s.modCmd c.id fun z => { z with body := .recv k b (some y) waits p }).startRecv c.id y b.limit
      | _ => s)
    | none => s

/-- A message at the receive engine of its context's die (R161-R164). -/
def State.arrive (s : State) (m : Msg) : State × MsgReply :=
  match Tbl.find m.dep s.endpoints with
  | none => (s, .err 0x01)
  | some e => match Tbl.find e.mctx s.mctxs with
    | none => (s, .err 0x03)
    | some cx =>
      let d := cx.die % 4
      let k := e.mctx
      let expect := match s.pairOf d m with | some p => p.expect | none => 0
      if seqLt m.pseq expect then (if m.path = 1 then s.giveFref d m else s, .ack)
      else if (s.die d).unexp.any (fun h => sameMsg h.msg m) then (if m.path = 1 then s.giveFref d m else s, .ack)
      else if (s.pairOf d m).isNone ∧ (1048576 ≤ (s.die d).pairs.length ∨
          ¬ s.fits cx.rid (·.pairs) (s.pairsUsed d) 1) then (s.countDie d 0x20A 1, .notReady)
      else
        let next := m.pseq == expect
        let turn := next && !e.moving
        let n := (s.die d).unexp.length
        match (if turn then s.findPosted d k m else none) with
        | some c =>
          (State.takeHeld d k m n (expect + 1) (((s.setPair d k m (expect + 1)).digest cx.rid m).giveMsg c m false), .ack)
        | none =>
          let shared := (s.die d).sharedFree
          if ¬ shared ∧ ¬ (next ∧ (s.die d).reservedFree k m.src) then (s.countDie d 0x20A 1, .notReady)
          else
            let drop := m.path = 0 ∧ m.payload ≠ [] ∧ Config.payloadRing cx.rid d < s.ringUsed d cx.rid + m.payload.length
            let h : UnexpHdr := { mctx := k, msg := if drop then { m with payload := [] } else m, held := !turn, deferred := drop,
                                  reserved := !shared }
            let s := s.digest cx.rid m
            let s := (s.modDie d fun x => { x with unexp := x.unexp ++ [h] }).setPair d k m (if turn then expect + 1 else expect)
            (if turn then State.takeHeld d k m n (expect + 1) s else s, if drop then .defer else .ack)

/-! ### The sender (R163, R164, R486) -/

/-- The MSEND command that a message of this module came from. -/
def State.sendOf (s : State) (m : Msg) : Option Cmd :=
  s.cmds.find? fun c => match c.body with
    | .send _ _ dm dep sep _ q _ _ _ ph => dm == s.moduleNo && dep == m.dep && sep == m.sep && q == m.pseq && ph != 0
    | _ => false

/-- The phase, delay and due clock of an MSEND changed. -/
def State.modSend (s : State) (id phase delay due : Nat) : State :=
  s.modCmd id fun c => match c.body with
    | .send a l dm dep sep tg q f _ _ _ => { c with body := .send a l dm dep sep tg q f delay due phase }
    | _ => c

/-- An MSEND has completed: its lent forme is returned, and its number completes (08 R213 event 0x023). -/
def State.sendDone (s : State) (c : Cmd) : State :=
  let s := match c.body with
    | .send _ _ _ _ _ _ _ (some f) _ _ _ => { s with formes := Tbl.erase f s.formes }
    | _ => s
  (s.count c.thr 0x023 1).completeCmd c

/-- NOT-READY: the message is kept for a retry, each delay twice the one before, from 1,024 to 65,536 cycles. -/
def State.backOff (s : State) (c : Cmd) : State :=
  match c.body with
  | .send _ _ _ _ _ _ _ _ delay _ _ =>
    let n := if delay = 0 then 1024 else min (2 * delay) 65536
    s.modSend c.id 0 n ((s.die (s.dieOf c.thr)).sched + n)
  | _ => s

/-- The answer to a message of this module reaches its MSEND: an eager one completes on acceptance. -/
def State.answerSend (s : State) (c : Cmd) : MsgReply → State
  | .ack => match c.body with
    | .send _ _ _ _ _ _ _ none _ _ _ => s.sendDone c
    | _ => s
  | .defer => s.post .deferAnswer c.id
  | .notReady => s.backOff c
  | .err sub => (s.modSend c.id 0 0 0).faultCmd c (msgErr sub)

/-- The formes of region r. -/
def State.formesUsed (s : State) (r : Nat) : Nat := (s.formes.filter (·.2.rid == r)).length

/-- The lowest key from n on that a table does not list. -/
def firstGap {α : Type} (n : Nat) : Tbl α → Nat
  | [] => n
  | (j, _) :: rest => if j = n then firstGap (n + 1) rest else n

/-- The lowest free entry of the forme table. -/
def State.freeForme (s : State) : Option Nat := if firstGap 0 s.formes < 16384 then some (firstGap 0 s.formes) else none

/-- A forme can be lent to a region: an entry and its FORMES budget. -/
def State.canLend (s : State) (rid : Nat) : Option Nat := if s.fits rid (·.formes) s.formesUsed 1 then s.freeForme else none

/-- Forme f lent for MSEND command id; its elements are those of the payload descriptor. -/
def State.lend (s : State) (f id rid : Nat) (src : Desc) : State :=
  let x : Forme :=
    { rd := false, wr := false, atom := false, msg := true, srcset := 0, rid, mod := 0, esize := src.esize,
      base := BitVec.ofNat 64 src.base, ext := [1, 1, 1], str := [0, 0, 0], mask := 0, lent := some id }
  { s with formes := Tbl.insert f x s.formes }

/-- Elements of a descriptor read for command c in order: their bytes, or how it ended and where. Poison traps. -/
def State.readPayload (c : Cmd) (d : Desc) : List Nat → State → List Byte → State × List Byte × Nat × EStat
  | [], s, acc => (s, acc, 0, .run)
  | i :: is, s, acc => match exactAddr (d.addr i) with
    | .error tr => (s, acc, i, .fault tr)
    | .ok a =>
      if s.engHeld c false a d.bytes then (s, acc, i, .stall)
      else match s.access (s.ctxOf c.thr) .read false a d.bytes with
        | (s, .error tr) => (s, acc, i, .fault tr)
        | (s, .ok sp) => let q := s.readSpans (s.ctxOf c.thr) 0 sp; State.readPayload c d is q.1 (acc ++ q.2)

/-- A message handed to its destination: this module's own receive engine, or the fabric. -/
def State.dispatchMsg (s : State) (dmod : Nat) (m : Msg) : State :=
  if dmod = s.moduleNo then { s with inbox := s.inbox ++ [.arrival m] }
  else
    s.emit (s.packetTo dmod 2 (bytesOf 8 (epWord dmod m.dep).toNat ++ bytesOf 2 m.sep ++ bytesOf 1 m.path ++ [0] ++
      bytesOf 4 m.tag.toNat ++ bytesOf 4 m.len ++ bytesOf 4 m.pseq.toNat ++ bytesOf 8 m.fref.toNat ++ bytesOf 8 0 ++ m.payload))

/-- An MSEND sends its message: header and payload when eager, else the header with its forme reference. -/
def State.runSend (s : State) (c : Cmd) : State :=
  match c.body with
  | .send src len dmod dep sep tag pseq forme delay _ 0 =>
    if dmod ≠ s.moduleNo ∧ ¬ s.reaches dmod then s.faultCmd c { cause := 0x0F, sub := 0x01, elem := 0, addr := epWord dmod dep }
    else
      let m : Msg := { src := s.moduleNo, sep, dep, path := 0, tag, len, pseq, fref := 0, payload := [] }
      match forme with
      | some f => (s.modSend c.id 2 delay 0).dispatchMsg dmod { m with path := 2, fref := formeRef s.moduleNo f 0 }
      | none => match State.readPayload c src (List.range src.count) s [] with
        | (s, _, _, .stall) => s
        | (s, _, i, .fault tr) => s.faultCmd c { tr with elem := i }
        | (s, bs, _, .run) => (s.modSend c.id 1 delay 0).dispatchMsg dmod { m with payload := bs }
  | _ => s

/-- DEFER: the sending die lends a message forme and sends a header-only message with PATH = 1 and the same number. While no forme
can be lent the command waits in phase 3. -/
def State.defer (s : State) (c : Cmd) : Option State :=
  match c.body with
  | .send src len dmod dep sep tag pseq none delay _ ph =>
    let rid := s.ridOf c.thr
    if ph ≠ 1 ∧ ph ≠ 3 then none
    else match s.canLend rid with
    | none => some (s.modSend c.id 3 delay 0)
    | some f =>
      let s := s.lend f c.id rid src
      let s := s.modCmd c.id fun x => { x with body := .send src len dmod dep sep tag pseq (some f) delay 0 2 }
      some (s.dispatchMsg dmod { src := s.moduleNo, sep, dep, path := 1, tag, len, pseq, fref := formeRef s.moduleNo f 0, payload := [] })
  | _ => none

/-! ### Payload and completion (R163, R369, R370, R486) -/

/-- The MSEND that lent forme f, with its payload descriptor. -/
def State.lender (s : State) (f : Nat) : Option (Cmd × Desc) :=
  match Tbl.find f s.formes with
  | some x => (match x.lent with
    | some id => (match s.cmd id with
      | some c => (match c.body with | .send src _ _ _ _ _ _ _ _ _ _ => some (c, src) | _ => none)
      | none => none)
    | none => none)
  | none => none

/-- Elements of a lent forme read at this module: their bytes with poison marks; a failing check faults the sender's MSEND
with FORME. -/
def State.formeBytes (c : Cmd) (f : Nat) (src : Desc) : List Nat → State → List (Byte × Bool) → State × List (Byte × Bool) × EStat
  | [], s, acc => (s, acc, .run)
  | i :: is, s, acc =>
    let bad := fun (s : State) => (s.faultCmd c { cause := 0x0E, sub := 0x04, elem := i, addr := formeRef s.moduleNo f i }, acc, EStat.stall)
    if ((s.cmd c.id).map (·.fault.isSome)).getD true then (s, acc, .stall)
    else match exactAddr (src.addr i) with
    | .error _ => bad s
    | .ok a =>
      if s.engHeld c false a src.bytes then (s, acc, .stall)
      else match s.access (s.ctxOf c.thr) .carried false a src.bytes with
        | (s, .error _) => bad s
        | (s, .ok sp) =>
          let fl := s.spanFlags sp
          let q := s.readSpans (s.ctxOf c.thr) 0 sp
          State.formeBytes c f src is q.1 (acc ++ q.2.zip fl)

/-- Bytes [lo, hi) of message m at this module: carried with it, or read from the lent forme. -/
def State.msgBytes (s : State) (m : Msg) (lo hi : Nat) : State × List (Byte × Bool) × EStat :=
  if m.path = 0 then (s, (m.payload.drop lo |>.take (hi - lo)).map (·, false), .run)
  else match s.lender (getField m.fref 40 14) with
    | none => (s, [], .stall)
    | some (c, src) =>
      let w := src.bytes
      let r := State.formeBytes c (getField m.fref 40 14) src (List.range' (lo / w) ((hi - 1) / w + 1 - lo / w)) s []
      (r.1, (r.2.1.drop (lo % w)).take (hi - lo), r.2.2)

/-- A tile-store address of a team that is off its cores: the access waits for the resume. -/
def State.offTile (s : State) (t : Nat) (va : Word) : Bool :=
  (s.tm (s.th t).team).state == .saved && areaOf va.toNat == .tile

/-- Bytes written at va for command c, with their marks. -/
def State.recvPut (s : State) (c : Cmd) (va : Word) (bs : List (Byte × Bool)) : State × EStat :=
  if s.engHeld c true va bs.length ∨ s.offTile c.thr va then (s, .stall)
  else match s.access (s.ctxOf c.thr) .write false va bs.length with
    | (s, .error tr) => (s, .fault tr)
    | (s, .ok sp) =>
      let cov := match s.cmd c.id with | some x => x.cover | none => []
      let q := (s.writeSpans (s.ctxOf c.thr) 0 sp (bs.map (·.1))).carryPoison cov sp (bs.map (·.2))
      let s := q.1.modCmd c.id fun x => { x with cover := q.2 }
      (if bs.any (·.2) then s.modCmd c.id fun x => match x.body with
          | .recv k b m w _ => { x with body := .recv k b m w true } | _ => x
        else s, .run)

/-- Destination element i of a receive of n bytes: a final partial element has only its low bytes written. -/
def State.recvElem (c : Cmd) (m : Msg) (d : Desc) (n : Nat) (s : State) (i : Nat) : State × EStat :=
  let lo := i * d.bytes
  let hi := min n (lo + d.bytes)
  match exactAddr (d.addr i) with
  | .error tr => (s, .fault tr)
  | .ok va => match s.msgBytes m lo hi with
    | (s, bs, .run) => s.recvPut c va bs
    | (s, _, st) => (s, st)

/-- The 32 bytes of a completion object (R370). -/
def compBytes (status : Nat) (m : Msg) (bytes : Nat) : List Byte :=
  bytesOf 4 status ++ bytesOf 4 m.tag.toNat ++ bytesOf 8 (epWord m.src m.sep).toNat ++ bytesOf 8 bytes ++ bytesOf 8 m.len

/-- A completed or cancelled receive remembered for MTEST: the newest of its completion object. -/
def State.remember (s : State) (d k : Nat) (comp : Word) (code : Nat) : State :=
  s.modDie d fun x => { x with recs := (x.recs.filter fun r => !(r.1 == k && r.2.1 == comp)) ++ [(k, comp, code)] }

/-- The die of a message context. -/
def State.mctxDie (s : State) (k : Nat) : Nat := match Tbl.find k s.mctxs with | some c => c.die % 4 | none => 0

/-- The completion object of receive c written after its last byte, and the receive completed; an MSEND of this module whose
payload has been read completes. -/
def State.recvDone (s : State) (c : Cmd) (k : Nat) (b : RecvBlk) (m : Msg) (bytes : Nat) (trunc poison : Bool) : State :=
  let status := 1 + 2 * bitOf trunc + 8 * bitOf poison
  match s.recvPut c (BitVec.ofNat 64 b.comp) ((compBytes status m bytes).map (·, false)) with
  | (s, .stall) => s
  | (s, .fault tr) => s.faultCmd c { tr with elem := c.pos }
  | (s, .run) =>
    let s := ((s.remember (s.mctxDie k) k (BitVec.ofNat 64 b.comp) 2).count c.thr 0x024 1).completeCmd c
    if m.path = 0 ∨ m.src ≠ s.moduleNo then s
    else match s.lender (getField m.fref 40 14) with | some (x, _) => s.sendDone x | none => s

/-- A matched receive runs on: its payload element by element, then its completion object. -/
def State.runRecv (s : State) (c : Cmd) : State :=
  match c.body with
  | .recv k b (some m) false _ =>
    let n := b.want m
    let r : State × Nat × EStat := match b.desc with
      | none => (s, 0, .run)
      | some d =>
        let q := (n + d.bytes - 1) / d.bytes
        engLoop (State.recvElem c m d n) (List.range' c.pos (q - c.pos)) s
    let pos := c.pos + r.2.1
    let s := (r.1.modCmd c.id fun x => { x with pos }).leadLocks c.thr c.locks pos
    match r.2.2 with
    | .stall => s
    | .fault tr => s.faultCmd c { tr with elem := pos }
    | .run => match s.cmd c.id with
      | some x => (match x.body with
        | .recv _ _ _ _ p => s.recvDone x k b m n (decide (n < m.len)) p
        | _ => s)
      | none => s
  | _ => s

/-- A payload read from another module has come, with fewer bytes when the sender's team has ended: it is written, with its marks, and
the receive completes (06 R163, R486). -/
def State.payloadIn (s : State) (c : Cmd) (data : List Byte) (trunc poisoned : Bool) : Option State :=
  match c.body with
  | .recv k b (some m) true p =>
    let full := min m.len b.limit
    if m.path = 0 ∨ full < data.length ∨ (data.length < full ∧ ¬ trunc) then none
    else
      let y := { m with path := 0, payload := data }
      let s := s.modCmd c.id fun x => { x with body := .recv k b (some y) false (p || poisoned) }
      some ((match s.cmd c.id with | some x => s.runRecv x | none => s))
  | _ => none

/-- The answer to a payload read: the bytes read with their marks, cut short or whole (assumption log 110). -/
def State.answerRead (s : State) (r : PayRead) : State :=
  State.emit { s with payReads := s.payReads.erase r } (s.packetTo r.src 1 (bytesOf 8 (formeRef s.moduleNo r.forme r.elem).toNat ++
    [BitVec.ofNat 8 (4 * bitOf (r.got.any (·.2)) + 2 * bitOf (r.n = 0))] ++ r.got.map (·.1)))

/-- The payload reads of MSEND command c run on, from the element each has come to; a failing check faults the MSEND, and the read
waits there (R486). -/
def State.runReads (s : State) (c : Cmd) : State :=
  (s.payReads.filter (·.cmd == c.id)).foldl (fun s r => match s.lender r.forme with
    | none => s
    | some (_, src) =>
      let k := r.got.length / src.bytes
      let q := State.formeBytes c r.forme src (List.range' (r.elem + k) (r.n - k)) s r.got
      let r' := { r with got := q.2.1 }
      let s := { q.1 with payReads := q.1.payReads.map fun x => if x == r then r' else x }
      match q.2.2 with | .run => s.answerRead r' | _ => s) s

/-- The reads of the lent formes of MSENDs of a team which ends end where they stand, those of this module's receives and those of
other modules (R486). -/
def State.endSends (s : State) (team : Nat) : State :=
  let s := s.payReads.foldl (fun s r => match s.cmd r.cmd with
    | some c => if (s.th c.thr).team = team then
        State.answerRead { s with payReads := s.payReads.map fun x => if x == r then { r with n := 0 } else x } { r with n := 0 } else s
    | none => s) s
  s.cmds.foldl (fun s c => match c.body with
    | .recv k b (some m) false p =>
      (if m.path = 0 then s else match s.lender (getField m.fref 40 14) with
        | some (x, _) =>
          if (s.th x.thr).team = team then
            s.recvDone c k b m (match b.desc with | some d => min (b.want m) (c.pos * d.bytes) | none => 0) true p
          else s
        | none => s)
    | _ => s) s

/-! ### The commands (R367-R371) -/

/-- MSEND of thread t. -/
def State.msend (s : State) (t : Nat) (si : Site) (va dst tag : Word) (ep : Option Nat) : Res :=
  if s.interlocked t false va 192 then .wait s none
  else if getField dst 0 40 ≠ 0 then .trap s (msgErr 0x05)
  else match s.ownEp t ep with
    | .error tr => .trap s tr
    | .ok (sep, _, _) => match s.readDesc t va with
      | (s, .error tr) => .trap s tr
      | (s, .ok d) =>
        let len := d.count * d.bytes
        if 2 ^ 32 ≤ len then .trap s boundsTrap
        else
          let dmod := getField dst 54 10
          let dep := getField dst 40 14
          let rid := s.ridOf t
          let limit := if dmod = s.moduleNo then
              (match Tbl.find dep s.endpoints with | some e => (s.region e.rid).eager | none => (s.region rid).eager)
            else Config.remoteEager dmod dep
          let key := (sep * 1024 + dmod) * 16384 + dep
          let pseq := (Tbl.find key s.pairSend).getD 0
          let n := (s.th t).nextEseq 4
          let lent := if len ≤ limit * 1024 then some none else (s.canLend rid).map some
          match lent with
          | none => .trap s (causeTrap 0x16)
          | some f =>
            s.accept t si 4 0 n.toNat .dev (d.locks false 4 n)
              (.send d len dmod dep sep (tag.setWidth 32) pseq f 0 0 0) fun s c =>
                let s := { s with pairSend := Tbl.insert key (pseq + 1) s.pairSend }
                .done ((match f with | some k => s.lend k c rid d | none => s).started c) none

/-- The 64 bytes of a receive block, less its descriptor: the block, the descriptor's address and the endpoint field. -/
def parseRecvBlk (bs : List Byte) : Option (RecvBlk × Word × Nat) :=
  let ep := leAt bs 0x30 2
  if ¬ zerosAt bs 0x32 14 ∨ bitAt ep 14 then none
  else some ({ src := BitVec.ofNat 64 (leAt bs 0 8), srcmask := BitVec.ofNat 64 (leAt bs 8 8),
               tag := BitVec.ofNat 32 (leAt bs 0x10 4), tagmask := BitVec.ofNat 32 (leAt bs 0x14 4), desc := none,
               maxb := leAt bs 0x20 8, comp := leAt bs 0x28 8, ep := ep % 2 ^ 14 }, BitVec.ofNat 64 (leAt bs 0x18 8), ep)

/-- The receive block at va, checked as R369 does, with its context and that context's die. -/
def State.recvBlk (s : State) (t : Nat) (va : Word) : State × Except Trap (RecvBlk × Word × Nat × Nat) :=
  if va.toNat % 64 ≠ 0 then (s, .error (misaligned va))
  else match s.readBlock (s.ctxOf t) va 64 with
    | (s, .error tr) => (s, .error tr)
    | (s, .ok bs) => match parseRecvBlk bs with
      | none => (s, .error (msgErr 0x05))
      | some (b, dva, ep) => match s.ownEp t (if bitAt ep 15 then some b.ep else none) with
        | .error tr => (s, .error tr)
        | .ok (_, k, d) =>
          if b.comp % 32 ≠ 0 then (s, .error (misaligned (BitVec.ofNat 64 b.comp))) else (s, .ok (b, dva, k, d))

/-- The posted receives of region r on die d. -/
def State.postedUsed (s : State) (d r : Nat) : Nat :=
  ((s.die d).posted.filter fun c => match s.postedRecv c with
    | some (k, _) => (Tbl.find k s.mctxs).map (·.rid) == some r | none => false).length

/-- MPOST of thread t. -/
def State.mpost (s : State) (t : Nat) (si : Site) (va : Word) : Res :=
  if s.interlocked t false va 64 then .wait s none
  else match s.recvBlk t va with
    | (s, .error tr) => .trap s tr
    | (s, .ok (b, dva, k, d)) =>
      if (s.die d).posted.any fun c => match s.postedRecv c with | some (j, x) => j == k && x.comp == b.comp | none => false then
        .trap s (msgErr 0x04)
      else if s.interlocked t false dva 192 then .wait s none
      else match s.readDesc t dva with
        | (s, .error tr) => .trap s tr
        | (s, .ok ds) =>
          let b := { b with desc := some ds }
          let hdr := (s.die d).unexp.find? fun h => !h.held && h.mctx == k && b.takes h.msg
          if hdr = none ∧ (65536 ≤ (s.die d).posted.length ∨ ¬ s.fits (s.ridOf t) (·.precv) (s.postedUsed d) 1) then
            .trap s (causeTrap 0x16)
          else
            let n := (s.th t).nextEseq 4
            s.accept t si 4 0 n.toNat .dev (ds.locks true 4 n) (.recv k b none false false) fun s c =>
              let s := s.modDie d fun x => { x with recs := x.recs.filter fun r => !(r.1 == k && r.2.1.toNat == b.comp) }
              match hdr with
              | some h => .done ((s.modDie d fun x => { x with unexp := x.unexp.erase h }).giveMsg c h.msg h.deferred) none
              | none => .done (s.modDie d fun x => { x with posted := x.posted ++ [c] }) none

/-- A messaging command that completes at once, with its effect s' on state s and its result; at an engine breakpoint it has no
effect (08 R226). -/
def State.msgNow (s : State) (t : Nat) (si : Site) (v : Word) (s' : State) : Res :=
  let n := (s.th t).nextEseq 4
  if (s.th t).engBreak si.pc 4 0 n then .brk s 4 0 n
  else .done ((s'.acceptEng t 4 0 n).completeEng t 4 n) (some v)

/-- Bytes written by an instruction of thread t at va. -/
def State.putBytes (s : State) (t : Nat) (va : Word) (bs : List Byte) : State × Option Trap := s.writeBlock (s.ctxOf t) va bs

/-- MPROBE of thread t: nothing is consumed; a match writes SRC, TAG and LENGTH with STATUS = PROBED. -/
def State.mprobe (s : State) (t : Nat) (si : Site) (va : Word) : Res :=
  if s.interlocked t false va 64 then .wait s none
  else match s.recvBlk t va with
    | (s, .error tr) => .trap s tr
    | (s, .ok (b, _, k, d)) =>
      match (s.die d).unexp.find? fun h => !h.held && h.mctx == k && b.takes h.msg with
      | none => s.msgNow t si 0 s
      | some h =>
        let comp := BitVec.ofNat 64 b.comp
        if s.interlocked t true comp 32 then .wait s none
        else match s.putBytes t comp ((compBytes 16 h.msg 0).take 16) with
          | (s, some tr) => .trap s tr
          | (s', none) => match s'.putBytes t (comp + 24) (bytesOf 8 h.msg.len) with
            | (s, some tr) => .trap s tr
            | (s', none) => s.msgNow t si (BitVec.ofNat 64 (2 ^ 63 + h.msg.len % 2 ^ 32)) s'

/-- The receive of context k that uses completion object comp: unmatched, or matched and in progress. -/
def State.liveRecv (s : State) (k : Nat) (comp : Word) : Option Cmd :=
  s.cmds.find? fun c => match c.body with | .recv j b _ _ _ => j == k && b.comp == comp.toNat | _ => false

/-- MTEST of thread t. -/
def State.mtest (s : State) (t : Nat) (si : Site) (comp : Word) (ep : Option Nat) : Res :=
  match s.ownEp t ep with
  | .error tr => .trap s tr
  | .ok (_, k, d) =>
    if comp.toNat % 32 ≠ 0 then .trap s (misaligned comp)
    else s.msgNow t si (match s.liveRecv k comp with
      | some c => (match c.body with | .recv _ _ none _ _ => 0 | _ => 1)
      | none => match (s.die d).recs.find? fun r => r.1 == k && r.2.1 == comp with
        | some r => BitVec.ofNat 64 r.2.2
        | none => 4) s

/-- MCANCEL of thread t: an unmatched receive is withdrawn and its command completes. -/
def State.mcancel (s : State) (t : Nat) (si : Site) (comp : Word) (ep : Option Nat) : Res :=
  match s.ownEp t ep with
  | .error tr => .trap s tr
  | .ok (_, k, d) =>
    if comp.toNat % 32 ≠ 0 then .trap s (misaligned comp)
    else match s.liveRecv k comp with
      | none => s.msgNow t si 0 s
      | some c => match c.body with
        | .recv _ _ none _ _ =>
          if s.interlocked t true comp 4 then .wait s none
          else match s.putBytes t comp (bytesOf 4 4) with
            | (s, some tr) => .trap s tr
            | (s', none) => s.msgNow t si 1
                (((s'.modDie d fun x => { x with posted := x.posted.filter (· != c.id) }).remember d k comp 3).completeCmd c)
        | _ => s.msgNow t si 0 s

end Sys2Proof.Machine
end

