-- ==== Sys2Proof/Machine/Stereo.lean ====
section
/-! DEFINITION. The stereotype cache of each die (07 R197-R203, 08 R215) and its commands STCHK, STKEEP and STDROP (14
R366, 05 R129). -/

namespace Sys2Proof.Machine

/-! ### Tiles in near-store (04 R485, R97) -/

/-- Physical address of byte o of a die's near-store: consecutive MiB lie in consecutive slices, so that near-store that
grows moves nothing (assumption log 10). -/
def nearAddr (d o : Nat) : Nat :=
  nearBase + d * 0x80000000 + o / 0x100000 % 64 * 0x2000000 + o / 0x4000000 * 0x100000 + o % 0x100000

/-- The stereotype area of region rid on a die: its first byte and its size. -/
def State.stArea (s : State) (d rid : Nat) : Option (Nat × Nat) :=
  ((s.die d).allocs.find? fun a => a.rid == rid && a.stereo).map fun a => (a.off, a.mib * 0x100000)

/-- The F32, F16 or BF16 that STMETRIC.FMT names (03 R85). -/
def stFmt (f : Nat) : Fmt := fmtOf (match f with | 0 => .f32 | 1 => .f16 | _ => .bf16)

/-- Bytes of an element of that format. -/
def stBytes (f : Nat) : Nat := if f = 0 then 4 else 2

/-- The bytes [o, o + n) of a die's near-store, each with its poison mark. -/
def State.nearRead (s : State) (d o n : Nat) : List (Byte × Bool) :=
  (List.range n).map fun k => (Mem.get s.mem (nearAddr d (o + k)), s.poisoned (nearAddr d (o + k)))

/-- Bytes written at o of a die's near-store by one command, with their marks: no L1 keeps their sectors, and monitors on them wake (04
R95, R111, 07 R195). -/
def State.nearWrite (s : State) (d o : Nat) (cov : NMap) (bs : List (Byte × Bool)) : State × NMap :=
  let at' := fun (k : Nat) => nearAddr d (o + k)
  let ws := ((List.range bs.length).map fun k => at' k / 64).eraseDups
  let s := ws.foldl (fun s w => (s.dirFlush (w * 64)).wakeSector w) s
  let mem := bs.zipIdx.foldl (fun (m : Mem) (b : (Byte × Bool) × Nat) => Mem.set m (at' b.2) b.1.1) s.mem
  State.carryPoison { s with mem } cov ((List.range bs.length).map fun k => ⟨.phys (at' k) false, 1⟩)
    (bs.map fun (b : Byte × Bool) => b.2)

/-! ### Tags (R198-R203) -/

/-- A tag whose entry is valid or whose tiles a replay still reads: its space and its tag stay charged (R202). -/
def StTag.charged (g : StTag) : Bool := g.v || decide (0 < g.readers)

/-- The byte ranges a tag's tiles occupy. -/
def StTag.ranges (g : StTag) : List (Nat × Nat) :=
  [(g.inoff, g.inn * stBytes g.fmt), (g.outoff, g.outn * stBytes g.fmt)]

/-- The tags a die keeps: those still charged. -/
def Die.trimTags (d : Die) : Die := { d with tags := d.tags.filter (·.charged) }

/-- A tag of the region's key. -/
def StTag.isKey (g : StTag) (rid block tile : Nat) : Bool := g.v && g.rid == rid && g.block == block && g.tile == tile

/-- The candidate of an STCHK (R199). -/
def State.stCandidate (s : State) (d rid block tile : Nat) (step metric : Word) (n : Nat) : Option StTag :=
  (s.die d).tags.find? fun g => g.isKey rid block tile && g.fmt == getField metric 8 3 && g.inn == n &&
    decide (1 ≤ (step.setWidth 32 - g.step).toNat) && decide ((step.setWidth 32 - g.step).toNat ≤ getField metric 4 4)

/-! ### Comparison (R200) -/

/-- The F32 sum of two values under RNE. -/
def f32add (a b : Nat) : Nat :=
  (addVal (fmtOf .f32) .rne false (fload (fmtOf .f32) false a) (fload (fmtOf .f32) false b)).bits

/-- The pairwise sum of a list in element order, split at the largest power of two below its length; n bounds the
depth. -/
def psum : Nat → List Nat → Nat
  | 0, xs => xs.headD 0
  | n + 1, xs =>
    if xs.length ≤ 1 then xs.headD 0
    else
      let h := 2 ^ Nat.log2 (xs.length - 1)
      f32add (psum n (xs.take h)) (psum n (xs.drop h))

/-- The F32 bits without the sign. -/
def f32abs (x : Nat) : Nat := x % 2 ^ 31
/-- A finite F32. -/
def f32finite (x : Nat) : Bool := decide (f32abs x < 0x7F800000)
/-- An F32 NaN. -/
def f32nan (x : Nat) : Bool := decide (0x7F800000 < f32abs x)

/-- The comparison of presented inputs a with stored inputs b, both widened to F32. -/
def stCompare (a b : List Nat) (thr metric : Word) : Bool :=
  let t := getField thr 0 32
  let ab := a.zip b
  if f32nan t ∨ a.any f32nan ∨ b.any f32nan then false
  else match getField metric 0 2 with
    | 0 => ab.all fun (x, y) => x == y || (f32abs x == 0 && f32abs y == 0)
    | m =>
      if 2 ^ 31 < t then false
      else
        let d := ab.map fun (x, y) => f32abs (f32add x (y ^^^ 2 ^ 31))
        if m = 1 then
          let mx := d.foldl max 0
          f32finite mx && decide (mx ≤ f32abs t)
        else
          let sa := psum 64 d
          let sb := psum 64 (b.map f32abs)
          let r := f32mul (f32abs t) sb
          f32finite sa && f32finite sb && f32finite r && decide (sa ≤ r)

/-- Bytes of elements as widened F32 values, n elements of w bytes. -/
def widenAll (f : Nat) (bs : List (Byte × Bool)) (n : Nat) : List Nat :=
  let w := stBytes f
  (List.range n).map fun k =>
    (cvtFloat (fmtOf .f32) .rne false (fload (stFmt f) false (leNat (((bs.drop (k * w)).take w).map (·.1))))).bits

/-! ### Reading tiles -/

/-- The elements of a descriptor read by command c from element i: their bytes with marks, or how it ended and where. -/
def State.readTile (c : Cmd) (d : Desc) : List Nat → State → List (Byte × Bool) → State × List (Byte × Bool) × Nat × EStat
  | [], s, acc => (s, acc, 0, .run)
  | i :: is, s, acc => match exactAddr (d.addr i) with
    | .error tr => (s, acc, i, .fault tr)
    | .ok a =>
      if s.engHeld c false a d.bytes then (s, acc, i, .stall)
      else match s.access (s.descCtx c.thr d) .carried false a d.bytes with
        | (s, .error tr) => (s, acc, i, .fault tr)
        | (s, .ok sp) =>
          let fl := s.spanFlags sp
          let q := s.readSpans (s.descCtx c.thr d) 0 sp
          State.readTile c d is q.1 (acc ++ q.2.zip fl)

/-! ### Room (R202) -/

/-- The lowest place of n bytes in [lo, lo + size) clear of the occupied ranges. -/
def firstFit (lo size n : Nat) (occ : List (Nat × Nat)) : Option Nat :=
  let ok := fun (p : Nat) => decide (lo ≤ p) && decide (p + n ≤ lo + size) &&
    occ.all fun (o, k) => decide (p + n ≤ o) || decide (o + k ≤ p)
  (lo :: occ.map fun (o, k) => o + k).foldl (fun (b : Option Nat) p =>
    if ok p then (match b with | none => some p | some q => some (min p q)) else b) none

/-- Places of two tiles in the area of a region beside the charged tags gs. -/
def stPlaces (lo size n1 n2 : Nat) (gs : List StTag) : Option (Nat × Nat) :=
  let occ := gs.flatMap (·.ranges)
  match firstFit lo size n1 occ with
  | none => none
  | some p => (firstFit lo size n2 ((p, n1) :: occ)).map fun q => (p, q)

/-- Tags charged to region r on its HOME die. -/
def State.tagsUsed (s : State) (r : Nat) : Nat :=
  ((s.die (s.region r).home).tags.filter fun g => g.rid == r && g.charged).length

/-- One more tag fits the die and every charged region, when `gone` of the region's own are taken away. -/
def State.tagFits (s : State) (d rid gone : Nat) : Bool :=
  decide ((s.die d).tags.length - gone < 32768) &&
  (s.chain rid).all fun a => ((s.subtree a).map s.tagsUsed).sum - gone + 1 ≤ (s.region a).sttags

/-- The places of two tiles when they and a tag fit. -/
def State.stRoom (s : State) (d rid n1 n2 : Nat) (gs : List StTag) (gone : Nat) : Option (Nat × Nat) :=
  match s.stArea d rid with
  | none => none
  | some (lo, size) => if s.tagFits d rid gone then stPlaces lo size n1 n2 gs else none

/-- The charged tags of a region. -/
def State.stTags (s : State) (d rid : Nat) : List StTag := (s.die d).tags.filter fun g => g.rid == rid && g.charged

/-- A STKEEP of tiles of n1 and n2 bytes can never fit by evicting the region's own entries (R202). -/
def State.stNever (s : State) (d rid n1 n2 : Nat) : Bool :=
  let own := (s.stTags d rid).length
  match s.stArea d rid with
  | none => true
  | some (_, size) => decide (size < n1 + n2) || !(s.tagFits d rid own)

/-- Counters of a region's stereotype cache changed by f (08 R215). -/
def State.modSt (s : State) (rid : Nat) (f : StCounts → StCounts) : State :=
  { s with stcounts := Tbl.insert rid (f ((Tbl.find rid s.stcounts).getD { hit := 0, miss := 0, evict := 0 })) s.stcounts }

/-- The least recently used valid entry of a region invalidated. -/
def State.evictTag (s : State) (d rid : Nat) : State :=
  let best := ((s.die d).tags.filter fun g => g.rid == rid && g.v).foldl (fun (b : Option StTag) g =>
    match b with | none => some g | some x => if g.used < x.used then some g else some x) none
  match best with
  | none => s
  | some b =>
    (s.modDie d fun x => Die.trimTags { x with tags := x.tags.map fun g => if g == b then { g with v := false } else g }).modSt
      rid fun k => { k with evict := k.evict + 1 }

/-- Entries evicted, at most k, until the tiles fit. -/
def State.makeRoom (d rid n1 n2 : Nat) : Nat → State → State × Option (Nat × Nat)
  | 0, s => (s, s.stRoom d rid n1 n2 (s.stTags d rid) 0)
  | k + 1, s => match s.stRoom d rid n1 n2 (s.stTags d rid) 0 with
    | some p => (s, some p)
    | none => State.makeRoom d rid n1 n2 k (s.evictTag d rid)

/-! ### The commands as the cache handles them -/

/-- The result of an STCHK reaches its register (14 R366, 15 R375). -/
def State.engResult (s : State) (t : Nat) (seq : BitVec 32) (xd : Option (BitVec 5)) (v : Word) : State :=
  if (s.th t).kind = .control then
    (s.modTh t fun th => { th with inflight := th.inflight.map fun i =>
      if i.seq = seq ∧ i.due = none ∧ i.op = 0x7D then { i with value := v, due := some 0 } else i }).postOnce .resultDelivery t seq.toNat
  else s.modTh t fun th => match xd with | some r => th.wx r v | none => th

/-- Element i of a replay: stored bytes into the destination, poison carried (R201, R203). -/
def State.replayElem (c : Cmd) (d off : Nat) (dst : Desc) (s : State) (i : Nat) : State × EStat :=
  match exactAddr (dst.addr i) with
  | .error tr => (s, .fault tr)
  | .ok b =>
    if s.engHeld c true b dst.bytes then (s, .stall)
    else match s.access (s.descCtx c.thr dst) .write false b dst.bytes with
      | (s, .error tr) => (s, .fault tr)
      | (s, .ok sp) =>
        let bs := s.nearRead d (off + i * dst.bytes) dst.bytes
        let cov := match s.cmd c.id with | some x => x.cover | none => []
        let q := (s.writeSpans (s.descCtx c.thr dst) 0 sp (bs.map (·.1))).carryPoison cov sp (bs.map (·.2))
        (q.1.modCmd c.id fun x => { x with cover := q.2 }, .run)

/-- A replay has ended: its tiles are read no longer, and waiting STKEEPs may go on. -/
def State.endReplay (s : State) (d off : Nat) : State :=
  let s := s.modDie d fun x => Die.trimTags
    { x with tags := x.tags.map fun g => if g.outoff == off && g.charged then { g with readers := g.readers - 1 } else g }
  if s.cmds.any fun c => match c.body with | .stkeep _ _ _ _ _ _ w => w | _ => false then s.postOnce .stkeepSpaceFree d else s

/-- A replay runs on from the command's position. -/
def State.replay (s : State) (c : Cmd) (d off : Nat) (dst : Desc) : State :=
  let r := engLoop (State.replayElem c d off dst) (List.range' c.pos (dst.count - c.pos)) s
  let s := match r.2.2 with | .run => r.1.endReplay d off | _ => r.1
  s.settleCmd c r.2.1 r.2.2

/-- A command of the stereotype cache names tile (block, tile) of region rid. -/
def CmdBody.names (b : CmdBody) (block tile : Nat) : Bool :=
  match b with
  | .stchk _ _ k t _ _ _ _ none => k == block && t == tile
  | .stkeep _ _ k t _ _ _ => k == block && t == tile
  | .stdrop k t m => m == 2 || (k == block && (m == 1 || t == tile))
  | _ => false

/-- Command c reached the cache behind a STKEEP that still waits there for a key of c's: it waits too (R203). -/
def State.keyHeld (s : State) (c : Cmd) : Bool :=
  s.cmds.any fun d => decide (d.id < c.id) && s.ridOf d.thr == s.ridOf c.thr && match d.body with
    | .stkeep _ _ k t _ _ true => c.body.names k t
    | _ => false

/-- The commands that a STKEEP of region rid has held up go on. -/
def State.kickKeys (s : State) (rid : Nat) : State :=
  s.cmds.foldl (fun s c => if s.ridOf c.thr = rid ∧ c.eng = 5 ∧ c.fault = none then s.postOnce .engineCompletion c.id else s) s

/-- An STCHK at the cache: the comparison, then on a hit the replay (R199-R201). -/
def State.runStchk (s : State) (c : Cmd) : State :=
  match c.body with
  | .stchk src dst block tile step thr metric xd none =>
    let rid := s.ridOf c.thr
    let d := (s.region rid).home
    let miss := fun (s : State) =>
      (((s.modSt rid fun k => { k with miss := k.miss + 1 }).engResult c.thr c.cseq xd 0).completeCmd c).releaseSample c.thr c.cseq
    match s.stCandidate d rid block tile step metric src.count with
    | none => miss s
    | some g => match State.readTile c src (List.range src.count) s [] with
      | (s, _, _, .stall) => s
      | (s, _, i, .fault tr) => s.faultCmd c { tr with elem := i }
      | (s, a, _, .run) =>
        let b := s.nearRead d g.inoff (g.inn * stBytes g.fmt)
        if a.any (·.2) ∨ b.any (·.2) ∨ dst.count ≠ g.outn ∨
            ¬ stCompare (widenAll g.fmt a src.count) (widenAll g.fmt b src.count) thr metric then miss s
        else
          let s := s.modDie d fun x => { x with
            stamp := x.stamp + 1
            tags := x.tags.map fun h => if h == g then { h with used := x.stamp + 1, readers := h.readers + 1 } else h }
          let s := (s.modSt rid fun k => { k with hit := k.hit + 1 }).count c.thr 0x025 1
          let s := (s.markRecord c.thr 4 c.cseq c.pc.toNat c.eseq 5 0 (block * 2 ^ 24 + tile)).releaseSample c.thr c.cseq
          let s := s.engResult c.thr c.cseq xd 1
          let s := s.modCmd c.id fun x => { x with body := .stchk src dst block tile step thr metric none (some g.outoff) }
          s.replay c d g.outoff dst
  | .stchk _ dst _ _ _ _ _ _ (some off) => s.replay c (s.region (s.ridOf c.thr)).home off dst
  | _ => s

/-- A STKEEP at the cache: it reads both tiles, makes room or waits for replays, writes the tiles, and in one step makes
its entry valid and any older entry of its key invalid (R202). -/
def State.runStkeep (s : State) (c : Cmd) : State :=
  match c.body with
  | .stkeep src dst block tile step metric _ =>
    let rid := s.ridOf c.thr
    let d := (s.region rid).home
    let f := getField metric 8 3
    let n1 := src.count * stBytes f
    let n2 := dst.count * stBytes f
    match State.readTile c src (List.range src.count) s [] with
    | (s, _, _, .stall) => s
    | (s, _, i, .fault tr) => s.faultCmd c { tr with elem := i }
    | (s, a, _, .run) => match State.readTile c dst (List.range dst.count) s [] with
      | (s, _, _, .stall) => s
      | (s, _, i, .fault tr) => s.faultCmd c { tr with elem := i }
      | (s, b, _, .run) =>
        let busy := (s.stTags d rid).filter fun g => decide (0 < g.readers)
        let own := (s.stTags d rid).length
        let wait := fun (s : State) => s.modCmd c.id fun x => { x with body := .stkeep src dst block tile step metric true }
        match s.stRoom d rid n1 n2 busy (own - busy.length) with
        | none => wait s
        | some _ => match State.makeRoom d rid n1 n2 own s with
          | (s, none) => wait s
          | (s, some (p, q)) =>
            let w := s.nearWrite d p [] a
            let w := w.1.nearWrite d q w.2 b
            let s := w.1.modDie d fun x => Die.trimTags { x with
              stamp := x.stamp + 1
              tags := (x.tags.map fun g => if g.isKey rid block tile then { g with v := false } else g) ++
                [{ v := true, rid, block, tile, step := step.setWidth 32, fmt := f, inn := src.count, inoff := p,
                   outn := dst.count, outoff := q, used := x.stamp + 1, readers := 0 }] }
            (s.completeCmd c).kickKeys rid
  | _ => s

/-- A STDROP at the cache: the entries it names are invalid for every later command. -/
def State.runStdrop (s : State) (c : Cmd) (block tile mode : Nat) : State :=
  let rid := s.ridOf c.thr
  let d := (s.region rid).home
  let s := s.modDie d fun x => Die.trimTags { x with
    tags := x.tags.map fun g =>
      if g.rid == rid && (mode == 2 || (g.block == block && (mode == 1 || g.tile == tile))) then { g with v := false } else g }
  s.completeCmd c

/-! ### Issue (R366) -/

/-- A descriptor of a stereotype tile: its ESIZE matches FMT, and it has fewer than `most` elements. -/
def State.stDesc (s : State) (t : Nat) (va : Word) (f least most : Nat) : State × Except Trap Desc :=
  match s.readDesc t va with
  | (s, .error tr) => (s, .error tr)
  | (s, .ok d) =>
    if d.esize ≠ (if f = 0 then 2 else 1) ∨ most ≤ d.count ∨ d.count < least then (s, .error boundsTrap) else (s, .ok d)

/-- STCHK of thread t; xd is the register of a strand thread. -/
def State.stchk (s : State) (t : Nat) (si : Site) (va vb key : Word) (xd : Option (BitVec 5)) : Res :=
  let r := (s.th t).sys
  let f := getField r.stmetric 8 3
  if s.interlocked t false va 192 ∨ s.interlocked t false vb 192 then .wait s none
  else if getField key 48 16 ≠ 0 then .trap s boundsTrap
  else match s.stDesc t va f 0 (2 ^ 24) with
    | (s, .error tr) => .trap s tr
    | (s, .ok a) => match s.stDesc t vb f 0 (2 ^ 40) with
      | (s, .error tr) => .trap s tr
      | (s, .ok b) =>
        let n := (s.th t).nextEseq 5
        s.accept t si 5 0 n.toNat .dev (a.locks false 5 n ++ b.locks true 5 n)
          (.stchk a b (getField key 24 24) (getField key 0 24) r.ststep r.stthr r.stmetric xd none) fun s c =>
            .later (s.started c)

/-- STKEEP of thread t. -/
def State.stkeep (s : State) (t : Nat) (si : Site) (va vb key : Word) : Res :=
  let r := (s.th t).sys
  let f := getField r.stmetric 8 3
  if s.interlocked t false va 192 ∨ s.interlocked t false vb 192 then .wait s none
  else if getField key 48 16 ≠ 0 then .trap s boundsTrap
  else match s.stDesc t va f 1 (2 ^ 24) with
    | (s, .error tr) => .trap s tr
    | (s, .ok a) => match s.stDesc t vb f 1 (2 ^ 24) with
      | (s, .error tr) => .trap s tr
      | (s, .ok b) =>
        let rid := s.ridOf t
        if s.stNever (s.region rid).home rid (a.count * stBytes f) (b.count * stBytes f) then .trap s (causeTrap 0x16)
        else
          let n := (s.th t).nextEseq 5
          s.accept t si 5 0 n.toNat .dev (a.locks false 5 n ++ b.locks false 5 n)
            (.stkeep a b (getField key 24 24) (getField key 0 24) r.ststep r.stmetric false) fun s c => .done (s.started c) none

/-- STDROP of thread t. -/
def State.stdrop (s : State) (t : Nat) (si : Site) (key : Word) (mode : Nat) : Res :=
  if getField key 48 16 ≠ 0 then .trap s boundsTrap
  else
    let n := (s.th t).nextEseq 5
    s.accept t si 5 0 n.toNat .dev [] (.stdrop (getField key 24 24) (getField key 0 24) mode) fun s c =>
      .done (s.started c) none

end Sys2Proof.Machine
end

