-- ==== Sys2Proof/Machine/Walker.lean ====
section
/-! DEFINITION. The format walker (16): WALK at issue, the buffer hand-off, and one meaning for each walker word. -/

namespace Sys2Proof.Machine

/-! ### The walk block (R399) -/

/-- The block length that an L code names (15 R385). -/
def lenOf (lc : Nat) : Nat := 32 * 2 ^ lc

/-- RB: the bytes of a row. -/
def WalkBlk.rb (b : WalkBlk) : Nat :=
  match b.tfmt with | 0 => b.cols * 2 | 1 => b.cols * 2 | 2 => b.cols | _ => b.cols * b.mw / 8

/-- TB: the bytes of a buffer. -/
def WalkBlk.tb (b : WalkBlk) : Nat :=
  (b.rows * b.rb + (if b.tfmt = 3 then b.rows * (b.cols / lenOf b.lc) else 0) + 63) / 64 * 64

/-- The tile-window offset of buffer k. -/
def WalkBlk.at (b : WalkBlk) (k : Nat) : Nat := b.tbase + k * b.tstride

/-- The bytes of the buffer span. -/
def WalkBlk.span (b : WalkBlk) : Nat := (b.ntile - 1) * b.tstride + b.tb

/-- The 64 bytes of a walk block with every field in its limits, for a member of nsem sem bits and a grant of bytes. -/
def parseWalkBlk (bs : List Byte) (nsem grant : Nat) : Option WalkBlk :=
  let f := leAt bs 0 1
  let b : WalkBlk :=
    { tfmt := f, mw := leAt bs 1 1, lc := leAt bs 2 1, ntile := leAt bs 3 1, sembase := leAt bs 4 1, rows := leAt bs 5 1,
      cols := leAt bs 6 2, tbase := leAt bs 8 4, tstride := leAt bs 0xC 4, srclo := leAt bs 0x10 8, srchi := leAt bs 0x18 8,
      args := (List.range 4).map fun k => BitVec.ofNat 64 (leAt bs (0x20 + 8 * k) 8) }
  let bfp := f == 3
  if 4 ≤ f ∨ (bfp ∧ (b.mw < 2 ∨ 8 < b.mw ∨ 3 ≤ b.lc)) ∨ (¬ bfp ∧ (b.mw ≠ 0 ∨ b.lc ≠ 0)) ∨ b.ntile = 0 ∨ 4 < b.ntile ∨
      nsem ≤ b.sembase + 2 * b.ntile - 1 ∨ b.rows = 0 ∨ 128 < b.rows ∨ b.cols = 0 ∨ 4096 < b.cols ∨
      (bfp ∧ b.cols % lenOf b.lc ≠ 0) ∨ b.tbase % 64 ≠ 0 ∨ b.tstride % 64 ≠ 0 ∨ b.tstride < b.tb ∨ b.srchi < b.srclo ∨
      grant < b.tbase + b.span then none
  else some b

/-! ### Walker state -/

/-- The walker of cluster k changed by f. -/
def State.modWalker (s : State) (k : Nat) (f : Walker → Walker) : State := s.modClu k fun c => { c with walker := f c.walker }

/-- The WALK command and block that the walker of cluster k runs. -/
def State.walkOf (s : State) (k : Nat) : Option (Cmd × WalkBlk) :=
  match (s.clu k).walker.cmd, (s.clu k).walker.blk with
  | some id, some b => (s.cmd id).map fun c => (c, b)
  | _, _ => none

/-- A step of the walker of cluster k passes (assumption log 8). -/
def State.tickWalker (s : State) (k : Nat) : State :=
  { s.passCycles k (Config.freeNat s.tick + 1) with tick := s.tick + 1 }

/-- The EMPTY and FULL bits of a buffer (R411). -/
def WalkBlk.full (b : WalkBlk) (k : Nat) : Nat := b.sembase + k
/-- The EMPTY bit of buffer k. -/
def WalkBlk.empty (b : WalkBlk) (k : Nat) : Nat := b.sembase + b.ntile + k

/-- The tile-window address of an offset. -/
def tileVa (off : Nat) : Word := BitVec.ofNat 64 (0x7F0000000000 + off)

/-- The bytes [off, off + n) of a member's tile store zeroed and cleared of poison. -/
def State.zeroTile (s : State) (m off n : Nat) : State :=
  s.modMb m fun mb => { mb with tile := Mem.clear mb.tile off n,
                                tilePoison := mb.tilePoison.filter fun w => w < off / 64 || (off + n) / 64 ≤ w }

/-- The walker of cluster k opens its buffer once EMPTY is 1: it takes the bit, zeroes the buffer and resets ROW. None while
it is not waiting, or EMPTY is 0. -/
def State.openBuffer (s : State) (k : Nat) : Option State :=
  match s.walkOf k with
  | none => none
  | some (c, b) =>
    let w := (s.clu k).walker
    let m := (s.th c.thr).member
    if w.state ≠ .waiting ∨ ¬ (s.mb m).sem.getLsbD (b.empty w.buf) then none
    else if s.engHeld c true (tileVa (b.at w.buf)) b.tb then none
    else
      let s := (s.putSem m (b.empty w.buf) false).zeroTile m (b.at w.buf) b.tb
      some (s.modWalker k fun w => { w with state := .running, row := 0 })

/-- The walker starts to wait for a buffer's EMPTY bit. -/
def State.waitBuffer (s : State) (k : Nat) : State :=
  (s.modWalker k fun w => { w with state := .waiting }).postOnce .walkerBufferOpen k

/-- The sequence number of the convoy or word that thread th issues next. -/
def Thread.seqNow (th : Thread) : BitVec 32 :=
  if th.kind = .control then th.sys.cseq.setWidth 32 else match th.queue with | f :: _ => f.seq | [] => th.sys.cseq.setWidth 32

/-- WALK of thread t (14 R365, R400): it waits for the walker in the order WALKs reached it, keeps its place while it waits for
interlock entries, then reads its walk block and starts the walk. -/
def State.walkCmd (s : State) (t : Nat) (si : Site) (sc : Scope) (prog arg : Word) : Res :=
  let k := (s.cluOf t).getD 0
  let me := (t, si.seq)
  let q := (s.clu k).walker.waiting.filter fun u => u == me || (s.cluOf u.1 == some k && s.runnable u.1 && (s.th u.1).seqNow == u.2)
  let q := if q.contains me then q else q ++ [me]
  let there := s.modWalker k fun w => { w with waiting := q }
  if (s.clu k).walker.cmd.isSome ∨ q.head? ≠ some me then .wait there (some .walk)
  else
    let s := s.modWalker k fun w => { w with waiting := q.erase me }
    if prog.toNat % 4 ≠ 0 then .trap s (misaligned prog)
    else if arg.toNat % 64 ≠ 0 then .trap s (misaligned arg)
    else if s.interlocked t false arg 64 ∨ (s.th t).freeLocks.length < 2 then .wait there none
    else match s.readBlock (s.ctxOf t) arg 64 with
      | (s, .error tr) => .trap s tr
      | (s, .ok bs) =>
        match parseWalkBlk bs (s.mbOf t).nsem ((s.mbOf t).tilesz * 0x40000) with
        | none => .trap s boundsTrap
        | some b =>
          let n := (s.th t).nextEseq 2
          let lo := 0x7F0000000000 + b.tbase
          s.accept t si 2 0 n.toNat sc
            [lockOf false false 2 0 n b.srclo b.srchi b.srclo, lockOf true false 2 0 n lo (lo + b.span - 1) lo]
            (.walk prog arg b true) fun s c =>
              let w0 : Vector Word 16 := Vector.ofFn fun i => if i.val = 0 then arg else if i.val ≤ 4 then b.args.getD (i.val - 1) 0 else 0
              .done ((s.modWalker k fun w => { Walker.reset with w := w0, pc := prog, blk := some b, cmd := some c, waiting := w.waiting }).waitBuffer k)
                none

/-! ### Words (R402) -/

/-- What a walker word does. -/
inductive WRes where
  /-- the word is done; PC goes on behind it -/
  | ok (s : State)
  /-- it branches -/
  | jump (s : State) (pc : Word)
  /-- it halts with a cause, and FADDR when a load halts -/
  | halt (s : State) (sub : BitVec 8) (faddr : Option Word)
  /-- it waits for the thread's earlier engine work, and runs again -/
  | stall (s : State)
  /-- the walk has ended -/
  | ended (s : State)

/-- A halt of the walker of cluster k (R412). -/
def State.haltWalker (s : State) (k : Nat) (sub : BitVec 8) (faddr : Option Word) : State :=
  let w := (s.clu k).walker
  let s := s.modWalker k fun w => { w with state := .faulted, faddr := faddr.getD w.faddr }
  match s.walkOf k with
  | some (c, _) => s.faultCmd c { cause := 0x15, sub, elem := w.epos.toNat, addr := w.pc }
  | none => s

/-- One walker word: it reads the registers `uses`, a poisoned one of which halts it, and then does what f says. -/
def walkerExec (s : State) (uses : List WReg) (f : State → Nat → Walker → Cmd → WalkBlk → WRes) : Out :=
  if ¬ s.mgmt.powered then .fault .poweredOff
  else match s.cur with
  | .walker k =>
    match s.walkOf k with
    | none => .fault .noThread
    | some (c, b) =>
      let w := (s.clu k).walker
      if w.state ≠ .running then .fault .noThread
      else if uses.any fun r => w.poison.getLsbD r.toNat then .next ((s.haltWalker k 0x08 none).tickWalker k)
      else match f s k w c b with
        | .ok s => .next ((s.modWalker k fun w => { w with pc := w.pc + 4 }).tickWalker k)
        | .jump s pc => .next ((s.modWalker k fun w => { w with pc }).tickWalker k)
        | .halt s sub fa => .next ((s.haltWalker k sub fa).tickWalker k)
        | .stall s => .next (s.tickWalker k)
        | .ended s => .next (s.tickWalker k)
  | _ => .fault .noThread

/-- Walker register r. -/
def Walker.rw (w : Walker) (r : WReg) : Word := w.w[r.toNat]

/-- Walker register r written, with its poison flag. -/
def State.ww (s : State) (k : Nat) (r : WReg) (v : Word) (poison : Bool) : State :=
  s.modWalker k fun w => { w with w := w.w.set r.toNat v,
                                  poison := if poison then w.poison ||| (1#16 <<< r.toNat) else w.poison &&& ~~~(1#16 <<< r.toNat) }

/-- A word that writes one register and clears its flag. -/
def wreg (wd : WReg) (g : Walker → Word) : State → Nat → Walker → Cmd → WalkBlk → WRes := fun s k w _ _ =>
  .ok (s.ww k wd (g w) false)

/-- WLI (R403). -/
def execWli (wd : WReg) (imm : BitVec 14) (s : State) : Out := walkerExec s [] (wreg wd fun _ => imm.signExtend 64)
/-- WMOV (R403, R413): the flag travels. -/
def execWmov (wd wa : WReg) (s : State) : Out :=
  walkerExec s [] fun s k w _ _ => .ok (s.ww k wd (w.rw wa) (w.poison.getLsbD wa.toNat))
/-- WADD (R403). -/
def execWadd (wd wa wb : WReg) (s : State) : Out := walkerExec s [wa, wb] (wreg wd fun w => w.rw wa + w.rw wb)
/-- WADDI (R403). -/
def execWaddi (wd wa : WReg) (imm : BitVec 14) (s : State) : Out :=
  walkerExec s [wa] (wreg wd fun w => w.rw wa + imm.signExtend 64)
/-- WSUB (R403). -/
def execWsub (wd wa wb : WReg) (s : State) : Out := walkerExec s [wa, wb] (wreg wd fun w => w.rw wa - w.rw wb)
/-- WSHL (R403). -/
def execWshl (wd wa : WReg) (sh : BitVec 6) (s : State) : Out := walkerExec s [wa] (wreg wd fun w => w.rw wa <<< sh.toNat)
/-- WSHR (R403). -/
def execWshr (wd wa : WReg) (sh : BitVec 6) (s : State) : Out := walkerExec s [wa] (wreg wd fun w => w.rw wa >>> sh.toNat)
/-- WAND (R403). -/
def execWand (wd wa wb : WReg) (s : State) : Out := walkerExec s [wa, wb] (wreg wd fun w => w.rw wa &&& w.rw wb)
/-- WOR (R403). -/
def execWor (wd wa wb : WReg) (s : State) : Out := walkerExec s [wa, wb] (wreg wd fun w => w.rw wa ||| w.rw wb)

/-- The condition of WCMP. -/
def wcond (c : WCond) (a b : Word) : Bool :=
  match c with | .eq => a == b | .lt => a.slt b | .ltn => a.ult b | .ne => a != b

/-- WCMP (R403). -/
def execWcmp (c : WCond) (wd wa wb : WReg) (s : State) : Out :=
  walkerExec s [wa, wb] (wreg wd fun w => boolWord (wcond c (w.rw wa) (w.rw wb)))
/-- WFFS (R404). -/
def execWffs (wd wa : WReg) (s : State) : Out := walkerExec s [wa] (wreg wd fun w => ctzOf (w.rw wa))
/-- WPOPC (R404). -/
def execWpopc (wd wa : WReg) (s : State) : Out := walkerExec s [wa] (wreg wd fun w => popcOf (w.rw wa))

/-! ### Loads (R405) -/

/-- n source bytes at va for command c: their value and whether a sector of them is poisoned, or the halt. `carry` lets
poison travel. -/
def State.walkLoad (s : State) (c : Cmd) (b : WalkBlk) (va : Word) (n : Nat) (carry : Bool) (f : State → Nat → Bool → WRes) : WRes :=
  if va.toNat < b.srclo ∨ b.srchi < va.toNat + n - 1 then .halt s 0x0D (some va)
  else if s.engHeld c false va n then .stall s
  else match s.access (s.ctxOf c.thr) (if carry then .carried else .read) false va n with
    | (s, .error tr) => .halt s tr.cause (some va)
    | (s, .ok sp) =>
      let fl := sp.any s.spanPoisoned
      let q := s.readSpans (s.ctxOf c.thr) 0 sp
      f q.1 (leNat q.2) fl

/-- WLD (R405). -/
def execWld (wd wa : WReg) (sz : BitVec 3) (imm : BitVec 14) (s : State) : Out :=
  walkerExec s [wa] fun s k w c b =>
    let n := 2 ^ fld sz.toNat 0 2
    s.walkLoad c b (w.rw wa + imm.signExtend 64) n false fun s v _ => .ok (s.ww k wd (oldWord (bitAt sz.toNat 2) n v) false)

/-- WLDV (R405, R413): the poison of a value goes into the register's flag. -/
def execWldv (wd wa wb : WReg) (s : State) : Out :=
  walkerExec s [wa, wb] fun s k w c b =>
    let n := (w.rw wb).toNat
    let at' := fun (o : Nat) => w.rw wa + BitVec.ofNat 64 o
    match b.tfmt with
    | 2 => s.walkLoad c b (at' n) 1 true fun s v p => .ok (s.ww k wd (BitVec.ofNat 64 v) p)
    | 3 =>
      let o := b.mw * n
      s.walkLoad c b (at' (o / 8)) ((o + b.mw - 1) / 8 + 1 - o / 8) true fun s v p =>
        .ok (s.ww k wd (BitVec.ofNat 64 (v / 2 ^ (o % 8) % 2 ^ b.mw)) p)
    | _ => s.walkLoad c b (at' (2 * n)) 2 true fun s v p => .ok (s.ww k wd (BitVec.ofNat 64 v) p)

/-- WBMP (R405). -/
def execWbmp (wd wa wb : WReg) (s : State) : Out :=
  walkerExec s [wa, wb] fun s k w c b =>
    s.walkLoad c b (w.rw wa + 8 * w.rw wb) 8 false fun s v _ => .ok (s.ww k wd (BitVec.ofNat 64 v) false)

/-! ### Emission (R406-R408) -/

/-- w bits of v written at bit offset o of the tile-store bytes from `base`, by the WALK of command c; poison marks their
sectors (R413, 04 R111). -/
def State.emitBits (s : State) (c : Cmd) (base o w v : Nat) (poison : Bool) : WRes :=
  let m := (s.th c.thr).member
  let lo := base + o / 8
  let n := (o % 8 + w + 7) / 8
  if s.engHeld c true (tileVa lo) n then .stall s
  else
    let old := Mem.readNat (s.mb m).tile lo n
    let x := old - old / 2 ^ (o % 8) % 2 ^ w * 2 ^ (o % 8) + v % 2 ^ w * 2 ^ (o % 8)
    let s := s.modMb m fun mb => { mb with tile := Mem.writeNat mb.tile lo n x }
    let cov := match s.cmd c.id with | some d => d.cover | none => []
    let q := s.carryPoison cov [⟨.tile m lo, n⟩] (List.replicate n poison)
    .ok (q.1.modCmd c.id fun d => { d with cover := q.2 })

/-- WEMIT (R406). -/
def execWemit (isExp : Bool) (wa wb : WReg) (s : State) : Out :=
  walkerExec s [wb] fun s k w c b =>
    let p := w.poison.getLsbD wa.toNat
    let v := (w.rw wa).toNat
    let col := (w.rw wb).toNat
    let buf := b.at w.buf
    if isExp then
      if b.tfmt ≠ 3 then .halt s 0x01 none
      else if b.rows ≤ w.row ∨ b.cols / lenOf b.lc ≤ col then .halt s 0x0D none
      else s.emitBits c (buf + b.rows * b.rb + w.row * (b.cols / lenOf b.lc) + col) 0 8 v p
    else if b.rows ≤ w.row ∨ b.cols ≤ col then .halt s 0x0D none
    else
      let bits := match b.tfmt with | 0 => 16 | 1 => 16 | 2 => 8 | _ => b.mw
      match s.emitBits c (buf + w.row * b.rb) (bits * col) bits v p with
      | .ok s => .ok ((s.modWalker k fun w => { w with epos := w.epos + 1 }).leadLocks c.thr c.locks (w.epos + 1).toNat)
      | r => r

/-- WROW (R407). -/
def execWrow (s : State) : Out :=
  walkerExec s [] fun s k w _ b =>
    if w.row = b.rows then .halt s 0x0D none else .ok (s.modWalker k fun w => { w with row := w.row + 1 })

/-- WFLUSH (R408). -/
def execWflush (s : State) : Out :=
  walkerExec s [] fun s k w c b =>
    let s := s.putSem (s.th c.thr).member (b.full w.buf) true
    .ok ((s.modWalker k fun w => { w with tcnt := w.tcnt + 1, buf := (w.buf + 1) % b.ntile }).waitBuffer k)

/-! ### Control flow (R409, R410) -/

/-- The target of a walker branch. -/
def Walker.target (w : Walker) (imm : BitVec 14) : Word := w.pc + imm.signExtend 64 * 4

/-- WBR (R409). -/
def execWbr (wa : WReg) (imm : BitVec 14) (s : State) : Out :=
  walkerExec s [wa] fun s _ w _ _ => if w.rw wa ≠ 0 then .jump s (w.target imm) else .ok s
/-- WJMP (R409). -/
def execWjmp (imm : BitVec 14) (s : State) : Out := walkerExec s [] fun s _ w _ _ => .jump s (w.target imm)
/-- WLOOP (R409). -/
def execWloop (wd : WReg) (imm : BitVec 14) (s : State) : Out :=
  walkerExec s [wd] fun s k w _ _ =>
    let s := s.ww k wd (w.rw wd - 1) false
    if w.rw wd - 1 ≠ 0 then .jump s (w.target imm) else .ok s

/-- WHALT (R410): the open buffer's writes are discarded, its EMPTY bit is set, and the WALK completes. -/
def execWhalt (s : State) : Out :=
  walkerExec s [] fun s k w c b =>
    let m := (s.th c.thr).member
    let s := s.modWalker k fun w => { Walker.reset with waiting := w.waiting }
    let s := (s.zeroTile m (b.at w.buf) b.tb).putSem m (b.empty w.buf) true
    .ended (s.completeCmd c)

end Sys2Proof.Machine
end

