-- ==== Sys2Proof/Machine/SyncExec.lean ====
section
/-! DEFINITION. The synchronisation, atomic and engine instructions of a strand (14 R347-R372): one meaning each, over the
operations of Sync, Engines, Stereo, Message and Walker. -/

namespace Sys2Proof.Machine

/-- The result of an operation in its scalar register. -/
def State.putX (s : State) (t : Nat) (xd : Option XReg) (v : Option Word) : State :=
  match xd, v with
  | some r, some w => s.modTh t fun th => th.wx r w
  | _, _ => s

/-- What an operation of chapter 14 comes to in a strand. `hold` keeps an instruction whose result comes later at the head
of the queue. -/
def Res.eff (t : Nat) (f : Fetched) (xd : Option XReg) (hold : Bool) : Res → Eff
  | .done s v => .ok (s.putX t xd v)
  | .after s v tr => .after (s.putX t xd v) tr f.next
  | .trap s tr => .trap s tr
  | .wait s w => .wait s w
  | .brk s e c n => .brk s e c n
  | .later s => if hold then .wait s none else .ok s

/-- A strand instruction of chapter 14: in a handler it traps ILLEGAL; with `drain` it waits under R117 first (R347). -/
def syncExec (i : Instr) (s : State) (drain : Bool) (uses : List XReg) (xd : Option XReg) (hold : Bool)
    (op : State → Nat → Site → Thread → Res) : Out :=
  scalarExec i s drain (xd.toList ++ uses) fun s t f =>
    if (s.th t).inh ∨ (s.th t).kind = .supervisor then .trap s (causeTrap 0x01)
    else (op s t { pc := f.pc, seq := f.seq } (s.th t)).eff t f xd hold

/-! ### Semaphores, boxes, barriers and fences (R351-R355) -/

/-- SEMTAS (R351). -/
def execSemtas (sem : BitVec 6) (s : State) : Out :=
  syncExec (.semtas sem) s false [] none false fun s t _ _ => s.semtas t sem.toNat
/-- SEMTRY (R351). -/
def execSemtry (xd : XReg) (sem : BitVec 6) (s : State) : Out :=
  syncExec (.semtry xd sem) s false [] (some xd) false fun s t _ _ => s.semtry t sem.toNat
/-- SEMSET (R351). -/
def execSemset (sem : BitVec 6) (s : State) : Out :=
  syncExec (.semset sem) s true [] none false fun s t _ _ => s.semWrite t sem.toNat true
/-- SEMCLR (R351). -/
def execSemclr (sem : BitVec 6) (s : State) : Out :=
  syncExec (.semclr sem) s true [] none false fun s t _ _ => s.semWrite t sem.toNat false
/-- BOXR (R353). -/
def execBoxr (xd : XReg) (box : BitVec 4) (s : State) : Out :=
  syncExec (.boxr xd box) s false [] (some xd) false fun s t _ _ => s.boxRead t box.toNat
/-- BOXW (R353). -/
def execBoxw (box : BitVec 4) (xa : XReg) (s : State) : Out :=
  syncExec (.boxw box xa) s false [xa] none false fun s t _ th => s.boxWrite t box.toNat (th.rx xa)
/-- BAR (R354). -/
def execBar (sc : Scope) (s : State) : Out :=
  syncExec (.bar sc) s true [] none false fun s t _ _ => s.barrier t sc
/-- FENCE (R355). -/
def execFence (sc : Scope) (kind : BitVec 5) (s : State) : Out :=
  syncExec (.fence sc kind) s true [] none false fun s t _ _ => s.fence t sc (kind.getLsbD 4)

/-! ### Capture and sampling marks (R372) -/

/-- CAPSTART (R372). -/
def execCapstart (s : State) : Out :=
  syncExec .capstart s true [] none false fun s t _ _ => .done (s.modTh t Thread.capstart) none
/-- CAPSTOP (R372). -/
def execCapstop (xa : XReg) (s : State) : Out :=
  syncExec (.capstop xa) s true [xa] none false fun s t _ th => s.capStop t (th.rx xa)
/-- SAMPLE (R372). -/
def execSample (xa : XReg) (s : State) : Out :=
  syncExec (.sample xa) s false [xa] none false fun s t si th => s.sampleMark t si (th.rx xa)

/-! ### Copy engine, binning and walks (R363-R365) -/

/-- XCOPY (R363). -/
def execXcopy (sc : Scope) (xd : XReg) (a : AOp) (xb : XReg) (chan : BitVec 3) (sem : BitVec 6) (semv vlcap : Bool) (s : State) : Out :=
  syncExec (.xcopy sc xd a xb chan sem semv vlcap) s true (a.regs ++ [xb]) (some xd) false fun s t si th =>
    s.xcopy t si sc (a.val th) (th.rx xb) chan.toNat (if semv then some sem.toNat else none)
      (if vlcap then some (getField th.sys.vlen 0 32) else none)
/-- XCHAIN (R364). -/
def execXchain (a : AOp) (chan : BitVec 3) (s : State) : Out :=
  syncExec (.xchain a chan) s true a.regs none false fun s t si th => s.xchain t si (a.val th) chan.toNat
/-- XSTAT (R364). -/
def execXstat (sc : Scope) (xd : XReg) (src : XSrc) (s : State) : Out :=
  syncExec (.xstat sc xd src) s false [] (some xd) false fun s t _ _ =>
    match src with | .chan c => s.xstatChan t c.toNat | .eng e => s.xstatEng t e.toNat
/-- XWAIT (R364). -/
def execXwait (sc : Scope) (a : AOp) (mode : XWMode) (s : State) : Out :=
  syncExec (.xwait sc a mode) s false (a.regs ++ match mode with | .lead _ xb => [xb] | _ => []) none false fun s t _ th =>
    match mode with
    | .chan c => s.xwaitChan t c.toNat (a.val th) none
    | .lead c xb => s.xwaitChan t c.toNat (a.val th) (some (th.rx xb))
    | .eng e => s.xwaitEng t e.toNat ((a.val th).setWidth 32)
/-- BIN (R365). -/
def execBin (sc : Scope) (a : AOp) (s : State) : Out :=
  syncExec (.bin sc a) s true a.regs none false fun s t si th => s.binCmd t si sc (a.val th)
/-- WALK (R365). -/
def execWalk (sc : Scope) (a : AOp) (xb : XReg) (s : State) : Out :=
  syncExec (.walk sc a xb) s true (a.regs ++ [xb]) none false fun s t si th => s.walkCmd t si sc (a.val th) (th.rx xb)

/-! ### Stereotype commands (R366) -/

/-- STCHK (R366): xd is pending until the comparison ends. -/
def execStchk (xd : XReg) (a : AOp) (xb xq : XReg) (s : State) : Out :=
  syncExec (.stchk xd a xb xq) s true (a.regs ++ [xb, xq]) (some xd) false fun s t si th =>
    s.stchk t si (a.val th) (th.rx xb) (th.rx xq) (some xd)
/-- STKEEP (R366). -/
def execStkeep (a : AOp) (xb xq : XReg) (s : State) : Out :=
  syncExec (.stkeep a xb xq) s true (a.regs ++ [xb, xq]) none false fun s t si th =>
    s.stkeep t si (a.val th) (th.rx xb) (th.rx xq)
/-- STDROP (R366): mode 3 is ILLEGAL. -/
def execStdrop (xq : XReg) (mode : BitVec 2) (s : State) : Out :=
  syncExec (.stdrop xq mode) s true [xq] none false fun s t si th =>
    if mode = 3 then .trap s (causeTrap 0x01) else s.stdrop t si (th.rx xq) mode.toNat

/-! ### Messages (R367-R371) -/

/-- MSEND (R368). -/
def execMsend (a : AOp) (xb xq : XReg) (ep : Option (BitVec 14)) (s : State) : Out :=
  syncExec (.msend a xb xq ep) s true (a.regs ++ [xb, xq]) none false fun s t si th =>
    s.msend t si (a.val th) (th.rx xb) (th.rx xq) (ep.map (·.toNat))
/-- MPOST (R369). -/
def execMpost (a : AOp) (s : State) : Out :=
  syncExec (.mpost a) s true a.regs none false fun s t si th => s.mpost t si (a.val th)
/-- MPROBE (R371). -/
def execMprobe (xd : XReg) (a : AOp) (s : State) : Out :=
  syncExec (.mprobe xd a) s true a.regs (some xd) false fun s t si th => s.mprobe t si (a.val th)
/-- MTEST (R371). -/
def execMtest (xd : XReg) (a : AOp) (ep : Option (BitVec 14)) (s : State) : Out :=
  syncExec (.mtest xd a ep) s true a.regs (some xd) false fun s t si th => s.mtest t si (a.val th) (ep.map (·.toNat))
/-- MCANCEL (R371). -/
def execMcancel (xd : XReg) (a : AOp) (ep : Option (BitVec 14)) (s : State) : Out :=
  syncExec (.mcancel xd a ep) s true a.regs (some xd) false fun s t si th => s.mcancel t si (a.val th) (ep.map (·.toNat))

/-! ### Waits (R356, R357) -/

/-- The MWAIT of strand t as it stands: entered at the cycle it issued. -/
def State.strandWaiter (s : State) (t : Nat) : State × Waiter :=
  let th := s.th t
  let waiting := match th.run with | .blocked _ => true | _ => false
  let now := (s.cycleOf t).toNat
  let s := if waiting then s else s.modTh t fun th => { th with waitStart := now, wake := none }
  (s, { t, owner := t, waiting, resumed := th.resumed, wake := th.wake, start := if waiting then th.waitStart else now })

/-- MWAIT (R356). -/
def execMwait (xd : XReg) (a : AOp) (xb : XReg) (size : BitVec 2) (trapTo : Bool) (timeout : BitVec 32) (s : State) : Out :=
  syncExec (.mwait xd a xb size trapTo timeout) s trapTo (a.regs ++ [xb]) (some xd) false fun s t _ th =>
    let q := s.strandWaiter t
    q.1.mwait q.2 (a.val th) (th.rx xb) (2 ^ size.toNat) timeout.toNat trapTo

/-- One read of element i of a VWAIT: satisfied, unsatisfied, held up, or faulting. -/
inductive Poll where
  | met (b : Bool)
  | held
  | fault (tr : Trap)
  deriving DecidableEq, Repr

/-- Element i of a VWAIT read as a plain load. -/
def State.vwaitElem (s : State) (t : Nat) (c : Captured) (zeroCond : Bool) (xa : XReg) (vb : VReg) (i : Nat) : State × Poll :=
  let e : LEnv := { t, seq := 0, cap := c, lane := i % c.lanes, start := 0, dist := none }
  let va := indexAddr e (s.vr t) xa vb c.sew i
  let n := c.sew / 8
  if s.interlocked t false va n then (s, .held)
  else match s.readElem (e.cx s) e.lg .read true va n with
    | (s, .error tr) => (s, .fault { tr with elem := i })
    | (s, .ok x) => (s, .met ((x == 0) == zeroCond))

/-- The active elements of a VWAIT that are not satisfied, read once each: the satisfied ones are noted. Returns whether any
was held up, and each lane's lowest fault. -/
def State.vwaitRead (s : State) (t : Nat) (c : Captured) (zeroCond : Bool) (xa : XReg) (vb : VReg) (is : List Nat) :
    State × Bool × Tbl LaneFault :=
  is.foldl (fun (acc : State × Bool × Tbl LaneFault) i =>
    let lane := i % c.lanes
    if NSet.mem i (acc.1.th t).vwaitMet ∨ (Tbl.find lane acc.2.2).isSome then acc
    else match acc.1.vwaitElem t c zeroCond xa vb i with
      | (s, .held) => (s, true, acc.2.2)
      | (s, .fault tr) => (s, acc.2.1, Tbl.insert lane { idx := 0, trap := tr } acc.2.2)
      | (s, .met b) => (if b then s.modTh t fun th => { th with vwaitMet := NSet.add i th.vwaitMet } else s, acc.2.1, acc.2.2)) (s, false, [])

/-- The record of lane faults in the VWAIT convoy f, which runs again whole. -/
def State.vwaitFault (s : State) (t : Nat) (f : Fetched) (fs : Tbl LaneFault) : State :=
  let best := fs.foldl (fun (o : Option LaneFault) (_, lf) => match o with
    | none => some lf | some b => if b.before lf then some b else some lf) none
  let mask := fs.foldl (fun m (j, _) => m ||| (1#32 <<< j)) 0#32
  let s := s.modTh t fun th => { ({ th with laneFault := fs, run := .running } : Thread).trapBlock (some f.seq) with laneFault := [] }
  s.takeTrap t (match best with | some lf => lf.trap | none => causeTrap 0x01) { (siteAt f.pc f.seq f.pc) with lanes := mask }

/-- The end of a VWAIT: vq and xd are written and every bound lane has committed it (R357). -/
def State.vwaitEnd (s : State) (t : Nat) (f : Fetched) (c : Captured) (is : List Nat) (trapTo : Bool) (xd : XReg) (vq : VReg) : State :=
  let met := (s.th t).vwaitMet
  let left := (is.filter fun i => !NSet.mem i met).length
  let v := is.foldl (fun v i => vput1 v c.lanes 1 vq.toNat i (bitOf (!NSet.mem i met))) (s.vr t)
  let s := (s.setVr t v).heal (· == .xreg t xd.toNat)
  let s := s.modTh t fun th => th.wx xd (BitVec.ofNat 64 (left + if left = 0 then 0 else 4 * 2 ^ 32))
  let s := s.modTh t fun th => { th.issueScalar f f.next with vwaitMet := [], vwaitOver := false }
  let s := (((s.count t 0x003 1).count t 0x005 c.vl).convoyDone t f.seq f.pc)
  if left ≠ 0 ∧ trapTo then s.takeTrap t (causeTrap 0x0A) (siteAt f.pc f.seq f.next) else s.stepTrap t f

/-- VWAIT (R357): it runs at the head of the queue, alone, and ends when every active element is satisfied or its time is
over. -/
def execVwait (e : ECtl) (ty : ITy) (zeroCond trapTo : Bool) (xd : XReg) (vq : VReg) (xa : XReg) (vb : VReg) (timeout : BitVec 32)
    (s : State) : Out :=
  strandIssue (.vwait e ty zeroCond trapTo xd vq xa vb timeout) s fun s t f =>
    if (s.th t).inh ∨ (s.th t).kind = .supervisor then .next ((s.rerun t f (causeTrap 0x01)).tock t)
    else
      let s := s.drain t
      if (s.th t).laneFault ≠ [] then .next ((s.recordLanes t).tock t)
      else
        let c := (s.th t).capture
        match convoyTrap c f with
        | some tr => .next ((s.rerun t f tr).tock t)
        | none =>
          if (s.th t).window ≠ [] ∨ [xa, xd].any (s.pendingRegs t).contains then .next (s.tock t)
          else if s.struckX t [xa] ∨ (List.range c.lanes).any fun j =>
              (((c.info (.vwait e ty zeroCond trapTo xd vq xa vb timeout)).bind (s.laneStruck { t, seq := f.seq, cap := c, lane := j, start := 0, dist := none })).isSome) then
            .next ((s.rerun t f (upsetTrap 0)).tock t)
          else
            let now := (s.cycleOf t).toNat
            let s := if (s.th t).run = .blocked .vwait then s else
              s.modTh t fun th => { th with run := .blocked .vwait, waitStart := now, vwaitMet := [], vwaitOver := false }
            let expired := (s.th t).vwaitOver || (timeout != 0 && decide (timeout.toNat ≤ now - (s.th t).waitStart))
            let is := (List.range c.vl).filter (isActive (s.vr t) c.lanes e.mask)
            match s.vwaitRead t c zeroCond xa vb is with
            | (s, held, []) =>
              if (is.all fun i => NSet.mem i (s.th t).vwaitMet) ∨ (expired ∧ ¬ held) then
                .next ((s.vwaitEnd t f c is trapTo xd vq).tock t)
              else .next (s.tock t)
            | (s, _, fs) => .next ((s.vwaitFault t f fs).tock t)

/-! ### Watermarks, tokens and launches (R358-R360) -/

/-- WMPUB (R358). -/
def execWmpub (sc : Scope) (a : AOp) (entry : BitVec 8) (s : State) : Out :=
  syncExec (.wmpub sc a entry) s true a.regs none false fun s t _ th => s.wmpub t sc entry.toNat (a.val th)
/-- WMCHK (R358). -/
def execWmchk (xd : XReg) (entry : BitVec 8) (s : State) : Out :=
  syncExec (.wmchk xd entry) s false [] (some xd) false fun s t _ _ => s.wmchk t entry.toNat
/-- TKPOST (R359). -/
def execTkpost (a : AOp) (xb : XReg) (s : State) : Out :=
  syncExec (.tkpost a xb) s true (a.regs ++ [xb]) none false fun s t _ th => s.tkpost t (a.val th) (th.rx xb)
/-- TKTAKE (R359). -/
def execTktake (xd : XReg) (a : AOp) (s : State) : Out :=
  syncExec (.tktake xd a) s true a.regs (some xd) false fun s t _ th =>
    let q := s.strandWaiter t
    q.1.tktake q.2 (a.val th)
/-- LAUNCH (R360). -/
def execLaunch (a : AOp) (region : BitVec 12) (s : State) : Out :=
  syncExec (.launch a region) s true a.regs none false fun s t _ th => s.launch t (a.val th) region.toNat

/-! ### Atomics (R361) -/

/-- AMO (R361). -/
def execAmo (op : AmoOp) (ty : ITy) (sc : Scope) (q : AmoCtl) (xd : XReg) (a : AOp) (xb : XReg) (s : State) : Out :=
  syncExec (.amo op ty sc q xd a xb) s true (a.regs ++ [xb]) (some xd) true fun s t si th =>
    s.amo t si op (ty == .i) (if q.w64 then 8 else 4) q.remote (a.val th) (th.rx xb)
/-- AMOCAS (R361). -/
def execAmocas (ty : ITy) (sc : Scope) (q : AmoCtl) (xd : XReg) (a : AOp) (xb xq : XReg) (s : State) : Out :=
  syncExec (.amocas ty sc q xd a xb xq) s true (a.regs ++ [xb, xq]) (some xd) true fun s t si th =>
    s.amocas t si (ty == .i) (if q.w64 then 8 else 4) q.remote (a.val th) (th.rx xb) (th.rx xq)
/-- FAMO (R361). -/
def execFamo (op : FRedOp) (f64 : Bool) (sc : Scope) (q : AmoCtl) (xd : XReg) (a : AOp) (xb : XReg) (s : State) : Out :=
  syncExec (.famo op f64 sc q xd a xb) s true (a.regs ++ [xb]) (some xd) true fun s t si th =>
    s.famo t si op f64 q.remote (a.val th) (th.rx xb)

end Sys2Proof.Machine
end

