-- ==== Sys2Proof/Machine/Control.lean ====
section
/-! DEFINITION. The control core: the result window, issue timing, the checker, tags and holds (15 R373-R380), and the one
operation `ctlExec` that every control word goes through. -/

namespace Sys2Proof.Machine

/-! ### Results in flight and the window (15 R374-R376) -/

/-- A result becomes visible: the slot takes it while it is still the word's own, the D register unless a younger write
came first, and FFLAGS its flags. Older results for the same register write nothing any more (15 R375). -/
def Thread.giveResult (th : Thread) (i : Inflight) : Thread :=
  let older := th.inflight.takeWhile (· != i)
  let younger := th.inflight.drop (older.length + 1)
  let older := match i.dreg with
    | none => older
    | some r => older.map fun j => if j.dreg = some r then { j with dreg := none } else j
  let th := { th with inflight := older ++ younger }
  let th := match i.dreg with | some r => th.wc r i.value | none => th
  let th := if i.numbered ∧ (th.sys.cseq.setWidth 32 - i.seq).toNat ≤ 16 then
      { th with rwin := vset th.rwin (i.seq.toNat % 16) (i.value, true) } else th
  { th with sys := { th.sys with fflags := th.sys.fflags ||| i.flags.setWidth 64 } }

/-- The result i of a fixed-latency word is visible to a word issuing at the present cycle (15 R374). -/
def Thread.visible (th : Thread) (i : Inflight) : Bool :=
  kindOf i.op == .f && (match i.due with | some d => decide (d ≤ th.nextIssue) | none => false)

/-- The results of fixed-latency words that are visible at the present cycle are delivered, oldest first. -/
def Thread.settleDue (th : Thread) : Thread :=
  (th.inflight.filter th.visible).foldl
    (fun th _ => match th.inflight.find? th.visible with
      | some j => th.giveResult j
      | none => th) th

/-- A thread that has ended issues no more: its fixed-latency results, of at most 4 cycles, reach its registers (15 R374). -/
def Thread.settleEnd (th : Thread) : Thread :=
  { ({ th with nextIssue := th.nextIssue + 4 } : Thread).settleDue with nextIssue := th.nextIssue }

/-- The delivery of the V result of word q of a control thread (95 RESULT_DELIVERY); none when no such result is due. -/
def Thread.deliverV (th : Thread) (q : BitVec 32) : Option Thread :=
  (th.inflight.find? fun i => i.seq == q && kindOf i.op == .v && i.due.isSome).map th.giveResult

/-- The words of the semaphore unit. -/
def semOp (op : Nat) : Bool := 0x60 ≤ op && op ≤ 0x63

/-- The words of a unit that may answer later. -/
def unitOp (op : Nat) : Bool := (0x24 ≤ op && op ≤ 0x26) || semOp op || op == 0x67 || op == 0x6A

/-- A control thread that has ended, with a unit that has still to answer one of its words (15 R379). -/
def State.unanswered (s : State) (t : Nat) : Bool :=
  (s.th t).active && (s.th t).kind == .control && (s.th t).run == .done && (s.tm (s.th t).team).state != .saved &&
  (s.th t).inflight.any fun i => i.due.isNone && unitOp i.op

/-! ### The clock of a control core (15 R373, R378, 02 R53) -/

/-- The other control thread that runs on the control core of thread t: of two half members (02 R53). -/
def State.ctlMates (s : State) (t : Nat) : List Nat :=
  (List.range s.threads.length).filter fun u =>
    u != t && (s.th u).kind == .control && s.cluOf u == s.cluOf t && (s.runnable u || s.unanswered u)

/-- The cycle to which the control core of thread t has come. -/
def State.ctlNow (s : State) (t : Nat) : Nat := match s.cluOf t with | some k => (s.clu k).ctlNow | none => 0

/-- The cycle in which thread t can next issue. -/
def State.ctlAt (s : State) (t : Nat) : Nat := max (s.th t).nextIssue (s.ctlNow t)

/-- The next cycle of the control core is thread t's: the other context has none as early, or has issued last (02 R53). -/
def State.ctlFirst (s : State) (t : Nat) : Bool :=
  (s.ctlMates t).all fun u => decide (s.ctlAt t < s.ctlAt u) ||
    (s.ctlAt t == s.ctlAt u && (match s.cluOf t with | some k => (s.clu k).ctlHalf != (s.mbOf t).half | none => true))

/-- Thread t's next issue moves n cycles on; the control core comes to the earliest next issue of its contexts, and so many cycles of
the cluster pass (15 R373). -/
def State.ctlPass (s : State) (t n : Nat) : State :=
  let at' := s.ctlAt t + n
  let now := (s.ctlMates t).foldl (fun m u => min m (s.ctlAt u)) at'
  let s := match s.cluOf t with
    | some k => (s.passCycles k (now - (s.clu k).ctlNow)).modClu k fun c => { c with ctlNow := now }
    | none => s
  s.modTh t fun th => ({ th with nextIssue := at' } : Thread).settleDue

/-- Thread t comes to the cycle of its control core. -/
def State.ctlSync (s : State) (t : Nat) : State := if (s.th t).nextIssue = s.ctlNow t then s else s.ctlPass t 0

/-- Thread t's word takes its issue cycle: the other context, ready in the same cycle, is held for it (02 R53, 15 R378). -/
def State.ctlTook (s : State) (t : Nat) : State :=
  let s := (s.ctlMates t).foldl (fun s u =>
    if s.ctlAt u = s.ctlAt t then (s.modTh u fun th => { th with nextIssue := s.ctlAt t + 1 }).count u 0x082 1 else s) s
  match s.cluOf t with
  | some k => s.modClu k fun c => { c with ctlHalf := (s.mbOf t).half }
  | none => s

/-! ### Sources (10 R265, 15 R376, R377) -/

/-- The window slot that distance value v (32-47) names for the next word. -/
def Thread.slotOf (th : Thread) (v : BitVec 6) : Nat := (th.sys.cseq.toNat % 16 + 47 - v.toNat) % 16

/-- The value of a source field. -/
def Thread.src (th : Thread) (imm : Word) (v : BitVec 6) : Word :=
  if v.toNat < 32 then th.rc (v.setWidth 5)
  else if v.toNat < 48 then
    let q := vget th.rwin (th.slotOf v) (0, false)
    if q.2 then q.1 else 0
  else if v.toNat = 49 then imm
  else 0

/-- A source is early: its producer's result is not yet visible. -/
def Thread.srcEarly (th : Thread) (v : BitVec 6) : Bool :=
  if v.toNat < 32 then th.inflight.any fun i => i.dreg == some (v.setWidth 5)
  else if v.toNat < 48 then
    (vget th.rwin (th.slotOf v) (0, false)).2 &&
    th.inflight.any fun i => i.numbered && i.seq.toNat % 16 == th.slotOf v &&
      decide ((th.sys.cseq.setWidth 32 - i.seq).toNat ≤ 16)
  else false

/-- A source names a slot whose word produced no result. -/
def Thread.srcHole (th : Thread) (v : BitVec 6) : Bool :=
  decide (32 ≤ v.toNat) && decide (v.toNat < 48) && !(vget th.rwin (th.slotOf v) (0, false)).2

/-- The register that AMOCAS names in its immediate. -/
def casReg (w : CW) : BitVec 6 := (w.imm.setWidth 5).setWidth 6

/-- The sources that a word reads, in order. -/
def ctlSources (op : Nat) (w : CW) : List (BitVec 6) :=
  let u := ccReads op
  (if u.a then [w.a] else []) ++ (if u.b then [w.b] else []) ++
    (if u.c ∧ ¬ (0x20 ≤ op ∧ op ≤ 0x26) then [w.c] else []) ++ (if op = 0x25 then [casReg w] else [])

/-! ### What a word does -/

/-- A word about to issue: its thread, its name, its sources and its immediate. -/
structure CIn where
  t : Nat
  si : Site
  a : Word
  b : Word
  c : Word
  imm : Word
  th : Thread

/-- What a control word does once nothing holds it. -/
inductive CEff where
  /-- it has executed and has no result -/
  | none (s : State)
  /-- it has executed; its result with its flags; an acquire holds later words until the result is delivered -/
  | val (s : State) (v : Word) (fl : BitVec 5) (acq : Bool)
  /-- the same, and then what g makes of the state after its issue cycle -/
  | valThen (s : State) (v : Word) (g : State → State)
  /-- a jump, with its link -/
  | jump (s : State) (link : Option Word) (pc : Word)
  /-- a V word whose unit answers later, in a wait or not -/
  | pend (s : State) (w : Option Wait) (acq : Bool)
  /-- a re-run cause -/
  | trap (s : State) (tr : Trap)
  /-- an after cause -/
  | after (s : State) (tr : Trap)
  /-- it stays at issue, blocked in a wait of R56 or not -/
  | wait (s : State) (w : Option Wait)
  /-- the thread's state is complete -/
  | ended (s : State)
  /-- an engine breakpoint -/
  | brk (s : State) (eng chan : Nat) (eseq : BitVec 32)

/-- An operation of chapter 14 as a control word does it. A wait of SEMTAS, MWAIT or TKTAKE goes on in its unit. -/
def Res.ceff (op : Nat) (acq : Bool) : Res → CEff
  | .done s v => match kindOf op with
    | .n => .none s
    | _ => .val s (v.getD 0) 0 (acq && !(op == 0x61 && v == some 0))
  | .after s v _ => .val s (v.getD 0) 0 false
  | .trap s tr => .trap s tr
  | .wait s w => if (op = 0x60 ∨ op = 0x67 ∨ op = 0x6A) ∧ w.isSome then .pend s w acq else .wait s w
  | .brk s e ch n => .brk s e ch n
  | .later s => .pend s Option.none acq

/-! ### Units that answer later (15 R375, R379, 14 R352) -/

/-- The type of an atomic's C field is signed. -/
def ctlSigned (w : CW) : Bool := (decTI (w.c.toNat % 8)).signed

/-- The bytes of an atomic. -/
def ctlBytes (w : CW) : Nat := (decTI (w.c.toNat % 8)).bytes

/-- A word of a unit that may answer later, with its sources: the semaphores, MWAIT, TKTAKE and the atomics. -/
def State.vUnit (s : State) (t : Nat) (si : Site) (wt : Waiter) (op : Nat) (w : CW) (a b c : Word) : Res :=
  let i := w.imm.toNat
  match op with
  | 0x24 => match decAmoOp (fld i 0 4) with
    | some o => s.amo t si o (ctlSigned w) (ctlBytes w) (bitAt i 6) a b
    | none => .trap s (causeTrap 0x01)
  | 0x25 => s.amocas t si (ctlSigned w) (ctlBytes w) (bitAt i 7) a b c
  | 0x26 => match decFRedOp (fld i 0 2) with
    | some o => s.famo t si o (ctlBytes w == 8) (bitAt i 6) a b
    | none => .trap s (causeTrap 0x01)
  | 0x60 => s.semtas t (fld i 0 6)
  | 0x61 => s.semtry t (fld i 0 6)
  | 0x62 => s.semWrite t (fld i 0 6) true
  | 0x63 => s.semWrite t (fld i 0 6) false
  | 0x67 => s.mwait wt a b (2 ^ fld i 0 2) c.toNat (bitAt i 2)
  | 0x6A => s.tktake wt a
  | _ => .trap s (causeTrap 0x01)

/-- The monitor owner of a control thread's word with a tag. -/
def tagOwner (t : Nat) (tag : BitVec 3) : Nat := t + 2 ^ 20 * tag.toNat

/-- An earlier word of the thread still waits in the semaphore unit for the same bit (14 R352). -/
def semBehind (before : List Inflight) (op : Nat) (w : CW) : Bool :=
  semOp op && before.any fun i => semOp i.op && i.due.isNone &&
    (match i.cw with | some v => fld v.imm.toNat 0 6 == fld w.imm.toNat 0 6 | none => false)

/-- The entry i of thread t's words in flight replaced. -/
def State.modFlight (s : State) (t : Nat) (i : Inflight) (f : Inflight → Inflight) : State :=
  s.modTh t fun th => { th with inflight := th.inflight.map fun j =>
    if j.seq = i.seq ∧ j.due.isNone then f j else j }

/-- The unit of word i answers with v: a word without a result leaves, any other waits for its delivery. -/
def State.answerUnit (s : State) (t : Nat) (i : Inflight) (v : Word) : State :=
  if kindOf i.op = .n then
    s.modTh t fun th => { th with inflight := th.inflight.filter (·.seq != i.seq) }
  else
    (s.modFlight t i fun j =>
      { j with value := v, due := some 0, wait := none, acquire := j.acquire || (i.op == 0x61 && v == 1) }).postOnce
        .resultDelivery t i.seq.toNat

/-- The unit of word i, the words `before` it being older, tries again: the state, and the trap it finds. An "after" cause
delivers the result first, and a re-run cause parks the word until the thread resumes (15 R379). -/
def State.retryUnit (s : State) (t : Nat) (before : List Inflight) (i : Inflight) : State × Option (Trap × Site) :=
  match i.cw with
  | none => (s, none)
  | some w =>
    if i.due.isSome ∨ i.parked ∨ ¬ unitOp i.op ∨ semBehind before i.op w then (s, none)
    else
      let si : Site := { pc := i.pc, seq := i.seq }
      let wt : Waiter := { t, owner := tagOwner t i.tag, waiting := i.wait.isSome, resumed := false, wake := i.reason,
                           start := i.issued }
      let src := fun k => i.srcs.getD k 0
      match s.vUnit t si wt i.op w (src 0) (src 1) (src 2) with
      | .done s v => (s.answerUnit t i (v.getD 0), none)
      | .after s v tr =>
        let s := s.answerUnit t i (v.getD 0)
        (s.modTh t fun th => (th.deliverV i.seq).getD th, some (tr, si))
      | .trap s tr => (s.modFlight t i fun j => { j with parked := true }, some (tr, si))
      | .wait s wv => (s.modFlight t i fun j => { j with wait := wv.or j.wait }, none)
      | .later s => (s, none)
      | .brk s _ _ _ => (s, none)

/-- The units of thread t's words in flight try again, in issue order, until one finds a trap. -/
def State.retryUnits (s : State) (t : Nat) : State × Option (Trap × Site) :=
  let l := (s.th t).inflight
  (List.range l.length).foldl (fun (acc : State × Option (Trap × Site)) k =>
    match acc.2 with
    | some _ => acc
    | none => match l[k]? with
      | some i =>
        let now := (acc.1.th t).inflight
        acc.1.retryUnit t (now.takeWhile (·.seq != i.seq)) ((now.find? (·.seq == i.seq)).getD { i with cw := none })
      | none => acc) (s, none)

/-! ### Holds (15 R373, R378) -/

/-- The words an acquire holds: those that access memory or issue an engine or platen command. SEQWAIT accesses memory but in the form
that reads an engine counter. -/
def acquireHolds (op : Nat) : Bool :=
  (0x20 ≤ op && op ≤ 0x26) || op == 0x67 || op == 0x69 || op == 0x6A || op == 0x6C || op == 0x6D || op == 0x70 ||
  (0x73 ≤ op && op ≤ 0x75) || (0x78 ≤ op && op ≤ 0x8B)

/-- A structural hold of R378 keeps a word at issue. A parked word holds nothing back, or its own trap's handler could not run (assumption
log 115). -/
def Thread.ctlHeld (th : Thread) (op : Nat) (w : CW) : Bool :=
  (acquireHolds op && !(op == 0x8B && w.imm.getLsbD 3) && th.inflight.any fun i => i.acquire && !i.parked) ||
  (0x50 ≤ op && op ≤ 0x53 && csrWaits (w.imm.toNat % 4096) &&
    (th.platen.any (·.op != 0x8A) || th.inflight.any fun i => kindOf i.op == .v && !i.parked)) ||
  (0x80 ≤ op && op ≤ 0x8A && decide (8 ≤ th.platen.length))

/-- The wait that a word in flight stands in, if it is one of R56 (15 R378). -/
def Inflight.blocks (i : Inflight) : Option Wait :=
  if i.due.isSome then none
  else match i.op with
    | 0x60 => some (i.wait.getD .tktake)
    | 0x67 => some (i.wait.getD .tktake)
    | 0x6A => some .tktake
    | _ => none

/-- The words that a TWAIT still waits for. -/
def Thread.twaits (th : Thread) (w : CW) : List Inflight :=
  th.inflight.filter fun i => i.tag != 0 && w.twait.getLsbD (i.tag.toNat - 1)

/-- Latency of a fixed-latency word (15 R374). -/
def latency (op : Nat) : Nat :=
  if op = 0x03 ∨ op = 0x04 ∨ op = 0x05 then 3 else if 0x30 ≤ op ∧ op ≤ 0x3A then 4 else 1

/-! ### Issue (15 R373, R376, R379) -/

/-- The entry of a word that issues now. -/
def CIn.flight (x : CIn) (op : Nat) (w : CW) (value : Word) (due : Option Nat) (fl : BitVec 5) (acq : Bool) (wt : Option Wait)
    (now : Nat) : Inflight :=
  { seq := x.si.seq, pc := x.si.pc, dreg := if w.d.toNat < 32 then some (w.d.setWidth 5) else none, tag := w.talloc, due,
    value, acquire := acq, op, cw := some w, srcs := [x.a, x.b, x.c], wait := wt, reason := none, issued := now, flags := fl,
    numbered := !x.th.inh, parked := false }

/-- A word issues: its slot, its number, its result in flight, and the PC (15 R376). In a handler it takes neither slot nor
number (R379). `hole` records that it read a slot without a result (R377). -/
def Thread.issueWord (th : Thread) (x : CIn) (op : Nat) (hole : Bool) (next : Word) (fl : Option Inflight) : Thread :=
  let inh := th.inh
  let k := x.si.seq.toNat % 16
  let th := th.clearSkip
  { th with
    run := .running
    pc := next
    rwin := if inh then th.rwin
      else vset th.rwin k (if kindOf op = .n then (0, false) else ((vget th.rwin k (0, false)).1, true))
    sys := { th.sys with
      cseq := if inh then th.sys.cseq else (x.si.seq + 1).setWidth 64
      sbchk := if hole then putBit th.sys.sbchk 8 true else th.sys.sbchk }
    inflight := th.inflight ++ fl.toList }

/-- The counts of a word that has issued, with n stale reads and so many cycles to the next issue that it holds itself: its STALL, and
2 of a jump (15 R373; assumption log 102). -/
def State.countWord (s : State) (x : CIn) (stale gap : Nat) : State :=
  let s := if stale = 0 then s else s.count x.t 0x085 stale
  let s := if gap = 0 then s else s.count x.t 0x081 gap
  (s.ctlTook x.t).convoyDone x.t x.si.seq x.si.pc

/-- The word x has issued and the thread goes on at `next`; its D register is to be written whole (04 R111), and a V result that its unit
has given waits for its delivery. -/
def State.issueCtl (s : State) (x : CIn) (op : Nat) (stale : Nat) (hole : Bool) (next : Word)
    (fl : Option Inflight) (gap : Nat) : State :=
  let s := match fl.bind (·.dreg) with | some r => s.heal (· == Upset.xreg x.t r.toNat) | none => s
  let s := (s.modTh x.t fun th => th.issueWord x op hole next fl).countWord x stale gap
  match fl with
  | some i =>
    if kindOf op = .v ∧ i.due.isSome then s.postOnce .resultDelivery x.t i.seq.toNat else s
  | none => s

/-- The trap STEP of a thread the debugger steps, once its word has issued (08 R227). -/
def State.stepCtl (s : State) (x : CIn) : State :=
  if (s.th x.t).stepReq then
    (s.modTh x.t fun th => { th with stepReq := false }).takeTrap x.t (causeTrap 0x11) (siteAt x.si.pc x.si.seq (s.th x.t).pc)
  else s

/-- A trap of word x with a re-run cause found at issue. -/
def State.rerunCtl (s : State) (x : CIn) (tr : Trap) : State := s.takeTrap x.t tr (siteAt x.si.pc x.si.seq x.si.pc)

/-- The word stays at issue for a cycle, in a wait of R56 or not. -/
def State.blockCtl (s : State) (t : Nat) (w : Option Wait) : State :=
  (s.modTh t fun th => { th with run := match w with | some w => .blocked w | none => .running }).ctlPass t 1

/-- The word is held at issue for a cycle by TWAIT or a hold of R378 (15 R373; assumption log 102). -/
def State.holdCtl (s : State) (t : Nat) (w : Option Wait) : State := (s.count t 0x082 1).blockCtl t w

/-- The outcome of word x. -/
def State.settleCtl (x : CIn) (op : Nat) (w : CW) (stale : Nat) (hole : Bool) (now : Nat) : CEff → State
  | .none s =>
    ((s.issueCtl x op stale hole (x.si.pc + 8) none w.stall.toNat).stepCtl x).ctlPass x.t (1 + w.stall.toNat)
  | .val s v fl acq =>
    let due := if kindOf op = .v then 0 else x.th.nextIssue + latency op
    ((s.issueCtl x op stale hole (x.si.pc + 8) (some (x.flight op w v (some due) fl acq none now)) w.stall.toNat).stepCtl x).ctlPass
      x.t (1 + w.stall.toNat)
  | .valThen s v g =>
    let due := x.th.nextIssue + latency op
    let s := (s.issueCtl x op stale hole (x.si.pc + 8) (some (x.flight op w v (some due) 0 false none now)) w.stall.toNat).stepCtl x
    (g (s.ctlPass x.t 1)).ctlPass x.t w.stall.toNat
  | .jump s link pc =>
    let fl := link.map fun v => x.flight op w v (some (x.th.nextIssue + 1)) 0 false none now
    ((s.issueCtl x op stale hole pc fl (2 + w.stall.toNat)).stepCtl x).ctlPass x.t (3 + w.stall.toNat)
  | .pend s wt acq =>
    ((s.issueCtl x op stale hole (x.si.pc + 8) (some (x.flight op w 0 none 0 acq wt now)) w.stall.toNat).stepCtl x).ctlPass x.t
      (1 + w.stall.toNat)
  | .trap s tr => (s.rerunCtl x tr).ctlPass x.t 1
  | .after s tr =>
    ((s.issueCtl x op stale hole (x.si.pc + 8) none w.stall.toNat).takeTrap x.t tr
      (siteAt x.si.pc x.si.seq (x.si.pc + 8))).ctlPass x.t (1 + w.stall.toNat)
  | .wait s none => s.holdCtl x.t none
  | .wait s wt => s.blockCtl x.t wt
  | .ended s => (match (s.th x.t).run with | .safept _ => s | _ => s.stepCtl x).ctlPass x.t (1 + w.stall.toNat)
  | .brk s e ch n =>
    (s.takeTrap x.t (causeTrap 0x10)
      { (siteAt x.si.pc x.si.seq x.si.pc) with eng := e, chan := ch, eseq := n }).ctlPass x.t 1

/-- The wait that thread t stands in is withdrawn, to be entered again when it resumes: an MWAIT then ends with RESUME
(02 R56, 03 R77). -/
def State.withdrawCtl (s : State) (t : Nat) : State :=
  match (s.th t).run with
  | .blocked w =>
    let s := s.modTh t fun th => { th with
      run := .running
      inflight := match w with
        | .mwait _ => th.inflight.map fun i => if i.op = 0x67 ∧ i.due.isNone then { i with reason := i.reason.or (some .resume) } else i
        | _ => th.inflight }
    s.dropMonitors 0 t
  | _ => s

/-- The engine fault that waits for thread t's word boundary is recorded (03 R77). -/
def State.reportCtl (s : State) (t : Nat) : State :=
  match (s.th t).engFault with
  | [] => s
  | e :: rest =>
    ((s.withdrawCtl t).modTh t fun th => { th with engFault := rest }).takeTrap t e.trap
      { eng := e.eng, chan := e.chan, eseq := e.eseq, pc := e.pc, seq := e.cseq, lanes := 0, refetch := (s.th t).pc }

/-- What stands before every control word: the thread that runs and whose cycle it is, the units of its words in flight and the traps
they find, a pending engine fault; then `body`. -/
def ctlTurn (s : State) (body : State → Nat → Out) : Out :=
  if ¬ s.mgmt.powered then .fault .poweredOff
  else match s.cur with
  | .thread t =>
    if ¬ s.runnable t then .fault .noThread
    else if (s.th t).kind ≠ .control then .fault .wrongAgent
    else if ¬ s.ctlFirst t then .fault .noThread
    else match (s.ctlSync t).retryUnits t with
      | (s, some (tr, si)) => .next ((s.takeTrap t tr (siteAt si.pc si.seq (s.th t).pc)).ctlPass t 1)
      | (s, none) =>
        if (s.th t).engFault ≠ [] then .next ((s.reportCtl t).ctlPass t 1)
        else body s t
  | _ => .fault .noThread

/-- A word about to issue in thread t. -/
def State.wordIn (s : State) (t op : Nat) (w : CW) : CIn :=
  let th := s.th t
  let imm := w.imm.signExtend 64
  { t, si := { pc := th.pc, seq := th.sys.cseq.setWidth 32 }, a := th.src imm w.a, b := th.src imm w.b,
    c := if op = 0x25 then th.src imm (casReg w) else th.src imm w.c, imm, th }

/-- A control word: a breakpoint, the rules of a handler, TWAIT and TALLOC, the holds, a source register that holds an error (04 R111), and
the checker; then f gives its effect (15 R373-R379). -/
def ctlExec (op : Nat) (w : CW) (s : State) (f : State → CIn → CEff) : Out :=
  ctlTurn s fun s t =>
    let x := s.wordIn t op w
    let th := x.th
    let srcs := ctlSources op w
    if th.breaks th.pc then .next ((s.rerunCtl x (causeTrap 0x10)).ctlPass t 1)
    else if th.inh ∧ (w.talloc ≠ 0 ∨ w.twait ≠ 0 ∨ srcs.any fun v => decide (32 ≤ v.toNat) && decide (v.toNat < 48)) then
      .next ((s.rerunCtl x (causeTrap 0x01)).ctlPass t 1)
    else if th.inh ∧ th.inflight.any (!·.numbered) then .next (s.blockCtl t none)
    else if th.twaits w ≠ [] then
      .next (s.holdCtl t ((th.twaits w).findSome? Inflight.blocks))
    else if w.talloc ≠ 0 ∧ th.inflight.any (·.tag == w.talloc) then .next (s.holdCtl t none)
    else if th.ctlHeld op w then .next (s.holdCtl t none)
    else if srcs.any fun v => decide (v.toNat < 32) && s.struck (.xreg t v.toNat) then .next ((s.rerunCtl x (upsetTrap 0)).ctlPass t 1)
    else
      let bad := srcs.findSome? fun v =>
        if th.srcEarly v then some (causeTrap 0x0B) else if th.srcHole v then some (causeTrap 0x0C) else none
      match (if getBit th.sys.sbchk 0 then bad else none) with
      | some tr => .next ((s.rerunCtl x tr).ctlPass t 1)
      | none =>
        let stale := (srcs.filter th.srcEarly).length
        .next (State.settleCtl x op w stale (srcs.any th.srcHole) (s.cycleOf t).toNat (f s x))

/-! ### Shapes of control words -/

/-- A fixed-latency word that only computes (15 R381). -/
def ctlInt (op : Nat) (w : CW) (s : State) (g : Word → Word → Word) : Out :=
  ctlExec op w s fun s x => .val s (g x.a x.b) 0 false

/-- A floating-point word: an enabled exception traps FPX and writes nothing (11 R284, 15 R381). -/
def ctlFloat (op : Nat) (w : CW) (s : State) (g : FTy → Word → CIn → FRes) : Out :=
  ctlExec op w s fun s x =>
    let r := g ((decFTy (w.imm.toNat % 8)).getD .f32) x.th.sys.rmode x
    if fpx x.th.sys.ftrapen r.flags then .trap s (causeTrap 0x09) else .val s (BitVec.ofNat 64 r.bits) r.flags false

/-- A control-word load (15 R381, 11 R281-R283). -/
def ctlLoad (op : Nat) (w : CW) (s : State) (aligned acq : Bool) : Out :=
  ctlExec op w s fun s x =>
    let ti := decTI (w.c.toNat % 8)
    let va := x.a + (if aligned then 0 else x.imm)
    if s.interlocked x.t false va ti.bytes then .wait s none
    else match s.readElem (s.ctxOf x.t) 0 .read aligned va ti.bytes with
      | (s, .error tr) => .trap s tr
      | (s, .ok v) => .val s (ti.extend v) 0 acq

/-- A control-word store (15 R381, 11 R281-R283). -/
def ctlStore (op : Nat) (w : CW) (s : State) (aligned : Bool) : Out :=
  ctlExec op w s fun s x =>
    let ti := decTI (w.c.toNat % 8)
    let va := x.a + (if aligned then 0 else x.imm)
    if s.interlocked x.t true va ti.bytes then .wait s none
    else match s.writeElem (s.ctxOf x.t) 0 aligned va ti.bytes x.b.toNat [] with
      | (s, _, some tr) => .trap s tr
      | (s, _, none) => .none s

/-- A branch (15 R381). -/
def ctlBranch (op : Nat) (w : CW) (s : State) (taken : Word → Word → Bool) : Out :=
  ctlExec op w s fun s x => if taken x.a x.b then .jump s none (x.si.pc + x.imm * 8) else .none s

/-- A CSR word (15 R381, 11 R292). -/
def ctlCsr (op : Nat) (c : CsrOp) (w : CW) (s : State) : Out :=
  ctlExec op w s fun s x => match s.csrAccess x.t c (w.imm.toNat % 4096) x.a with
    | (s, .error tr) => .trap s tr
    | (s, .ok old) => .valThen s old (s.keepPmc x.t (w.imm.toNat % 4096) c)

/-- A word of chapter 14 (14 R350). -/
def ctlSync (op : Nat) (w : CW) (s : State) (acq : Bool) (g : State → CIn → Res) : Out :=
  ctlExec op w s fun s x => (g s x).ceff op acq

/-- A word of a unit that may answer later. A semaphore word behind an earlier one of its bit waits in the unit. -/
def ctlUnit (op : Nat) (w : CW) (s : State) (acq : Bool) : Out :=
  ctlExec op w s fun s x =>
    let now := (s.cycleOf x.t).toNat
    let wt : Waiter := { t := x.t, owner := tagOwner x.t w.talloc, waiting := false, resumed := false, wake := none, start := now }
    if semBehind x.th.inflight op w then
      if (s.mb x.th.member).nsem ≤ fld w.imm.toNat 0 6 then .trap s boundsTrap else .pend s none (op == 0x60)
    else (s.vUnit x.t x.si wt op w x.a x.b x.c).ceff op acq

/-- The scope of a word's immediate at bit lo. -/
def ctlScope (w : CW) (lo : Nat) : Scope := (decScope (fld w.imm.toNat lo 3)).getD .str

end Sys2Proof.Machine
end

