-- ==== Sys2Proof/Machine/ControlExec.lean ====
section
/-! DEFINITION. The control words (15 R381, 14 R350): one meaning each, over the operations of Control and of chapter 14. -/

namespace Sys2Proof.Machine

/-! ### Integer words (15 R381, 11 R278, R280) -/
/-- ADD as a control word (R381). -/
def execCcAdd (w : CW) (s : State) : Out :=
  ctlInt 0x01 w s fun a b => a + b
/-- SUB as a control word (R381). -/
def execCcSub (w : CW) (s : State) : Out :=
  ctlInt 0x02 w s fun a b => a - b
/-- MUL as a control word (R381). -/
def execCcMul (w : CW) (s : State) : Out :=
  ctlInt 0x03 w s fun a b => a * b
/-- MULH as a control word (R381). -/
def execCcMulh (w : CW) (s : State) : Out :=
  ctlInt 0x04 w s fun a b => mulhOf a b
/-- MULHN as a control word (R381). -/
def execCcMulhn (w : CW) (s : State) : Out :=
  ctlInt 0x05 w s fun a b => mulhnOf a b
/-- DIV as a control word (R381). -/
def execCcDiv (w : CW) (s : State) : Out :=
  ctlInt 0x06 w s fun a b => divOf a b
/-- DIVN as a control word (R381). -/
def execCcDivn (w : CW) (s : State) : Out :=
  ctlInt 0x07 w s fun a b => divnOf a b
/-- REM as a control word (R381). -/
def execCcRem (w : CW) (s : State) : Out :=
  ctlInt 0x08 w s fun a b => remOf a b
/-- REMN as a control word (R381). -/
def execCcRemn (w : CW) (s : State) : Out :=
  ctlInt 0x09 w s fun a b => remnOf a b
/-- AND as a control word (R381). -/
def execCcAnd (w : CW) (s : State) : Out :=
  ctlInt 0x0a w s fun a b => a &&& b
/-- OR as a control word (R381). -/
def execCcOr (w : CW) (s : State) : Out :=
  ctlInt 0x0b w s fun a b => a ||| b
/-- XOR as a control word (R381). -/
def execCcXor (w : CW) (s : State) : Out :=
  ctlInt 0x0c w s fun a b => a ^^^ b
/-- SHL as a control word (R381). -/
def execCcShl (w : CW) (s : State) : Out :=
  ctlInt 0x0d w s fun a b => a <<< (b.toNat % 64)
/-- SHR as a control word (R381). -/
def execCcShr (w : CW) (s : State) : Out :=
  ctlInt 0x0e w s fun a b => a >>> (b.toNat % 64)
/-- SHA as a control word (R381). -/
def execCcSha (w : CW) (s : State) : Out :=
  ctlInt 0x0f w s fun a b => a.sshiftRight (b.toNat % 64)
/-- SLT as a control word (R381). -/
def execCcSlt (w : CW) (s : State) : Out :=
  ctlInt 0x10 w s fun a b => boolWord (a.slt b)
/-- SLTN as a control word (R381). -/
def execCcSltn (w : CW) (s : State) : Out :=
  ctlInt 0x11 w s fun a b => boolWord (a.ult b)
/-- MIN as a control word (R381). -/
def execCcMin (w : CW) (s : State) : Out :=
  ctlInt 0x12 w s fun a b => if a.sle b then a else b
/-- MAX as a control word (R381). -/
def execCcMax (w : CW) (s : State) : Out :=
  ctlInt 0x13 w s fun a b => if a.sle b then b else a
/-- MINN as a control word (R381). -/
def execCcMinn (w : CW) (s : State) : Out :=
  ctlInt 0x14 w s fun a b => if a.ule b then a else b
/-- MAXN as a control word (R381). -/
def execCcMaxn (w : CW) (s : State) : Out :=
  ctlInt 0x15 w s fun a b => if a.ule b then b else a
/-- CLZ as a control word (R381). -/
def execCcClz (w : CW) (s : State) : Out :=
  ctlInt 0x16 w s fun a _ => clzOf a
/-- CTZ as a control word (R381). -/
def execCcCtz (w : CW) (s : State) : Out :=
  ctlInt 0x17 w s fun a _ => ctzOf a
/-- POPC as a control word (R381). -/
def execCcPopc (w : CW) (s : State) : Out :=
  ctlInt 0x18 w s fun a _ => popcOf a
/-- LEA as a control word (R381). -/
def execCcLea (w : CW) (s : State) : Out :=
  ctlInt 0x19 w s fun a b => a + b
/-- LIT (R381). -/
def execCcLit (w : CW) (s : State) : Out :=
  ctlExec 0x1a w s fun s x => .val s x.imm 0 false
/-! ### Memory words (15 R381, 14 R350) -/
/-- LD (R381): any alignment. -/
def execCcLd (w : CW) (s : State) : Out :=
  ctlLoad 0x20 w s false false
/-- ST (R381): any alignment. -/
def execCcSt (w : CW) (s : State) : Out :=
  ctlStore 0x21 w s false
/-- LDA (R381): aligned, and an acquire. -/
def execCcLda (w : CW) (s : State) : Out :=
  ctlLoad 0x22 w s true true
/-- STL (R381): aligned, and a release. -/
def execCcStl (w : CW) (s : State) : Out :=
  ctlStore 0x23 w s true
/-- AMO (R350). -/
def execCcAmo (w : CW) (s : State) : Out :=
  ctlUnit 0x24 w s (w.imm.getLsbD 4)
/-- AMOCAS (R350). -/
def execCcAmocas (w : CW) (s : State) : Out :=
  ctlUnit 0x25 w s (w.imm.getLsbD 5)
/-- FAMO (R350). -/
def execCcFamo (w : CW) (s : State) : Out :=
  ctlUnit 0x26 w s (w.imm.getLsbD 4)
/-- FENCE (R350). -/
def execCcFence (w : CW) (s : State) : Out :=
  ctlSync 0x27 w s false fun s x => s.fence x.t (ctlScope w 0) (w.imm.getLsbD 7)
/-! ### Floating-point words (15 R381, 11 R285-R289) -/
/-- FADD (R381). -/
def execCcFadd (w : CW) (s : State) : Out :=
  ctlFloat 0x30 w s fun f r x => addVal (fmtOf f) (modeOf r) (ftzOf r) (fop f (ftzOf r) x.a) (fop f (ftzOf r) x.b)
/-- FSUB (R381). -/
def execCcFsub (w : CW) (s : State) : Out :=
  ctlFloat 0x31 w s fun f r x => addVal (fmtOf f) (modeOf r) (ftzOf r) (fop f (ftzOf r) x.a) (fop f (ftzOf r) x.b).flip
/-- FMUL (R381). -/
def execCcFmul (w : CW) (s : State) : Out :=
  ctlFloat 0x32 w s fun f r x => mulVal (fmtOf f) (modeOf r) (ftzOf r) (fop f (ftzOf r) x.a) (fop f (ftzOf r) x.b)
/-- FDIV (R381). -/
def execCcFdiv (w : CW) (s : State) : Out :=
  ctlFloat 0x33 w s fun f r x => divVal (fmtOf f) (modeOf r) (ftzOf r) (fop f (ftzOf r) x.a) (fop f (ftzOf r) x.b)
/-- FSQRT (R381). -/
def execCcFsqrt (w : CW) (s : State) : Out :=
  ctlFloat 0x34 w s fun f r x => sqrtVal (fmtOf f) (modeOf r) (ftzOf r) (fop f (ftzOf r) x.a)
/-- FMIN (R381). -/
def execCcFmin (w : CW) (s : State) : Out :=
  ctlFloat 0x35 w s fun f r x =>
    minmax (fmtOf f) false (ftzOf r) (x.a.toNat % 2 ^ (fmtOf f).width) (x.b.toNat % 2 ^ (fmtOf f).width)
/-- FMAX (R381). -/
def execCcFmax (w : CW) (s : State) : Out :=
  ctlFloat 0x36 w s fun f r x =>
    minmax (fmtOf f) true (ftzOf r) (x.a.toNat % 2 ^ (fmtOf f).width) (x.b.toNat % 2 ^ (fmtOf f).width)
/-- FFMA (R381): C is the addend. -/
def execCcFfma (w : CW) (s : State) : Out :=
  ctlFloat 0x37 w s fun f r x => fmaVal (fmtOf f) (modeOf r) (ftzOf r) (fop f (ftzOf r) x.a) (fop f (ftzOf r) x.b) (fop f (ftzOf r) x.c)
/-- FCMP (R381). -/
def execCcFcmp (w : CW) (s : State) : Out :=
  ctlFloat 0x38 w s fun f r x =>
    let q := fcmpVal ((decFCond (fld w.imm.toNat 3 3)).getD .eq) (fop f (ftzOf r) x.a) (fop f (ftzOf r) x.b)
    ⟨bitOf q.1, q.2⟩
/-- FCVT (R381). -/
def execCcFcvt (w : CW) (s : State) : Out :=
  ctlExec 0x39 w s fun s x =>
    let dt := (decSType (w.imm.toNat % 8)).getD .i64
    let st := (decSType (fld w.imm.toNat 6 3)).getD .i64
    let r := scalarConv dt st (modeOf x.th.sys.rmode) (ftzOf x.th.sys.rmode) x.a
    if fpx x.th.sys.ftrapen r.flags then .trap s (causeTrap 0x09) else .val s (BitVec.ofNat 64 r.bits) r.flags false
/-- FCLASS (R381). -/
def execCcFclass (w : CW) (s : State) : Out :=
  ctlFloat 0x3a w s fun f _ x => FRes.plain (fclassOf (fmtOf f) (x.a.toNat % 2 ^ (fmtOf f).width))
/-! ### Branches and jumps (15 R381) -/
/-- BEQ (R381). -/
def execCcBeq (w : CW) (s : State) : Out :=
  ctlBranch 0x40 w s fun a b => a == b
/-- BNE (R381). -/
def execCcBne (w : CW) (s : State) : Out :=
  ctlBranch 0x41 w s fun a b => a != b
/-- BLT (R381). -/
def execCcBlt (w : CW) (s : State) : Out :=
  ctlBranch 0x42 w s fun a b => a.slt b
/-- BGE (R381). -/
def execCcBge (w : CW) (s : State) : Out :=
  ctlBranch 0x43 w s fun a b => !a.slt b
/-- BLTN (R381). -/
def execCcBltn (w : CW) (s : State) : Out :=
  ctlBranch 0x44 w s fun a b => a.ult b
/-- BGEN (R381). -/
def execCcBgen (w : CW) (s : State) : Out :=
  ctlBranch 0x45 w s fun a b => !a.ult b
/-- JAL (R381). -/
def execCcJal (w : CW) (s : State) : Out :=
  ctlExec 0x46 w s fun s x => .jump s (some (x.si.pc + 8)) (x.si.pc + x.imm * 8)
/-- JALR (R381, 10 R265): a target that is not a multiple of 8 traps BOUNDS. -/
def execCcJalr (w : CW) (s : State) : Out :=
  ctlExec 0x47 w s fun s x =>
    let a := x.a + x.imm * 8
    if a.toNat % 8 ≠ 0 then .trap s { boundsTrap with addr := a } else .jump s (some (x.si.pc + 8)) a
/-! ### System words (15 R381, R380, 11 R292-R297) -/
/-- CSRR (R381). -/
def execCcCsrr (w : CW) (s : State) : Out :=
  ctlCsr 0x50 .read w s
/-- CSRW (R381). -/
def execCcCsrw (w : CW) (s : State) : Out :=
  ctlCsr 0x51 .write w s
/-- CSRS (R381). -/
def execCcCsrs (w : CW) (s : State) : Out :=
  ctlCsr 0x52 .set w s
/-- CSRC (R381). -/
def execCcCsrc (w : CW) (s : State) : Out :=
  ctlCsr 0x53 .clear w s
/-- TRAP (R381, R379): an after cause with its code. -/
def execCcTrap (w : CW) (s : State) : Out :=
  ctlExec 0x54 w s fun s _ => .after s { causeTrap 0x13 with elem := w.imm.toNat % 65536 }
/-- ERET (R381): outside a handler it traps ILLEGAL. -/
def execCcEret (w : CW) (s : State) : Out :=
  ctlExec 0x55 w s fun s x =>
    if x.th.inh then .ended ((s.modTh x.t Thread.returnFromTrap).countWord x 0 w.stall.toNat) else .trap s (causeTrap 0x01)
/-- DONE (R381): in a handler it traps ILLEGAL. Results of fixed latency still on their way reach their registers (R374). -/
def execCcDone (w : CW) (s : State) : Out :=
  ctlExec 0x56 w s fun s x =>
    if x.th.inh then .trap s (causeTrap 0x01)
    else
      let s := (s.modTh x.t fun th => th.issueWord x 0x56 false (x.si.pc + 8) none).countWord x 0 w.stall.toNat
      .ended ((s.modTh x.t fun th => { th.settleEnd with run := .done }).postMemberEnd x.th.member)
/-- NOP (R381). -/
def execCcNop (w : CW) (s : State) : Out :=
  ctlExec 0x57 w s fun s _ => .none s
/-- SAFEPT (R381, R380): with a pre-emption pending the thread stops at it once its results are in, waits in units apart, and its
platen queue is empty. -/
def execCcSafept (w : CW) (s : State) : Out :=
  ctlExec 0x58 w s fun s x =>
    if ¬ s.preemptPending x.t ∨ x.th.inh then .none s
    else if x.th.platen ≠ [] ∨ x.th.inflight.any (fun i => i.blocks.isNone) then .wait s none
    else .ended ((s.modTh x.t fun th => { th with run := .safept (x.si.pc + x.imm * 8) }).postOnce .safePointSave x.th.team)
/-! ### Synchronisation words (14 R350) -/
/-- SEMTAS (R350). -/
def execCcSemtas (w : CW) (s : State) : Out :=
  ctlUnit 0x60 w s true
/-- SEMTRY (R350): an acquire when it takes the bit. -/
def execCcSemtry (w : CW) (s : State) : Out :=
  ctlUnit 0x61 w s true
/-- SEMSET (R350). -/
def execCcSemset (w : CW) (s : State) : Out :=
  ctlUnit 0x62 w s false
/-- SEMCLR (R350). -/
def execCcSemclr (w : CW) (s : State) : Out :=
  ctlUnit 0x63 w s false
/-- BOXR (R350). -/
def execCcBoxr (w : CW) (s : State) : Out :=
  ctlSync 0x64 w s false fun s x => s.boxRead x.t (fld w.imm.toNat 0 4)
/-- BOXW (R350). -/
def execCcBoxw (w : CW) (s : State) : Out :=
  ctlSync 0x65 w s false fun s x => s.boxWrite x.t (fld w.imm.toNat 0 4) x.a
/-- BAR (R350). -/
def execCcBar (w : CW) (s : State) : Out :=
  ctlSync 0x66 w s false fun s x => s.barrier x.t (ctlScope w 0)
/-- MWAIT (R350). -/
def execCcMwait (w : CW) (s : State) : Out :=
  ctlUnit 0x67 w s false
/-- WMPUB (R350). -/
def execCcWmpub (w : CW) (s : State) : Out :=
  ctlSync 0x68 w s false fun s x => s.wmpub x.t (ctlScope w 8) (fld w.imm.toNat 0 8) x.a
/-- TKPOST (R350). -/
def execCcTkpost (w : CW) (s : State) : Out :=
  ctlSync 0x69 w s false fun s x => s.tkpost x.t x.a x.b
/-- TKTAKE (R350). -/
def execCcTktake (w : CW) (s : State) : Out :=
  ctlUnit 0x6a w s true
/-- CAPSTART (R350). -/
def execCcCapstart (w : CW) (s : State) : Out :=
  ctlSync 0x6b w s false fun s x => .done (s.modTh x.t Thread.capstart) none
/-- CAPSTOP (R350). -/
def execCcCapstop (w : CW) (s : State) : Out :=
  ctlSync 0x6c w s false fun s x => s.capStop x.t x.a
/-- SAMPLE (R350). -/
def execCcSample (w : CW) (s : State) : Out :=
  ctlSync 0x6d w s false fun s x => s.sampleMark x.t x.si x.a
/-! ### Engine words (14 R350) -/
/-- XCOPY (R350). -/
def execCcXcopy (w : CW) (s : State) : Out :=
  ctlSync 0x70 w s false fun s x =>
    let i := w.imm.toNat
    s.xcopy x.t x.si (ctlScope w 3) x.a x.b (fld i 0 3) (if bitAt i 12 then some (fld i 6 6) else none) none
/-- XSTAT (R350): an acquire. -/
def execCcXstat (w : CW) (s : State) : Out :=
  ctlSync 0x71 w s true fun s x =>
    if w.imm.getLsbD 6 then s.xstatEng x.t (fld w.imm.toNat 7 4) else s.xstatChan x.t (fld w.imm.toNat 0 3)
/-- XWAIT (R350). -/
def execCcXwait (w : CW) (s : State) : Out :=
  ctlSync 0x72 w s false fun s x =>
    if w.imm.getLsbD 6 then s.xwaitEng x.t (fld w.imm.toNat 7 4) (x.a.setWidth 32)
    else s.xwaitChan x.t (fld w.imm.toNat 0 3) x.a (if w.imm.getLsbD 11 then some x.b else none)
/-- WALK (R350). -/
def execCcWalk (w : CW) (s : State) : Out :=
  ctlSync 0x73 w s false fun s x => s.walkCmd x.t x.si (ctlScope w 3) x.a x.b
/-- BIN (R350). -/
def execCcBin (w : CW) (s : State) : Out :=
  ctlSync 0x74 w s false fun s x => s.binCmd x.t x.si (ctlScope w 3) x.a
/-- LAUNCH (R350). -/
def execCcLaunch (w : CW) (s : State) : Out :=
  ctlSync 0x75 w s false fun s x => s.launch x.t x.a (fld w.imm.toNat 0 12)
/-- MSEND (R350). -/
def execCcMsend (w : CW) (s : State) : Out :=
  ctlSync 0x78 w s false fun s x =>
    s.msend x.t x.si x.a x.b x.c (if w.imm.getLsbD 14 then some (fld w.imm.toNat 0 14) else none)
/-- MPOST (R350). -/
def execCcMpost (w : CW) (s : State) : Out :=
  ctlSync 0x79 w s false fun s x => s.mpost x.t x.si x.a
/-- MPROBE (R350). -/
def execCcMprobe (w : CW) (s : State) : Out :=
  ctlSync 0x7a w s false fun s x => s.mprobe x.t x.si x.a
/-- MTEST (R350). -/
def execCcMtest (w : CW) (s : State) : Out :=
  ctlSync 0x7b w s false fun s x => s.mtest x.t x.si x.a none
/-- MCANCEL (R350). -/
def execCcMcancel (w : CW) (s : State) : Out :=
  ctlSync 0x7c w s false fun s x => s.mcancel x.t x.si x.a none
/-- STCHK (R350): its result comes when the comparison ends. -/
def execCcStchk (w : CW) (s : State) : Out :=
  ctlSync 0x7d w s false fun s x => s.stchk x.t x.si x.a x.b x.c none
/-- STKEEP (R350). -/
def execCcStkeep (w : CW) (s : State) : Out :=
  ctlSync 0x7e w s false fun s x => s.stkeep x.t x.si x.a x.b x.c
/-- STDROP (R350). -/
def execCcStdrop (w : CW) (s : State) : Out :=
  ctlSync 0x7f w s false fun s x => s.stdrop x.t x.si x.c (fld w.imm.toNat 0 2)

end Sys2Proof.Machine
end

