-- ==== Sys2Proof/Machine/PlatenArith.lean ====
section
/-! DEFINITION. Platen arithmetic (09 R239, R241, R242, R244, 15 R384-R388): element streams, the chunked accumulation of F16
and BF16 products, integer and block partial sums, and block scaling. -/

namespace Sys2Proof.Machine

/-- The element formats of a multiply (15 R385): F16 or BF16, I8, or BFP mantissas of a and b bits. -/
inductive PFmt where
  | flt (f : FTy)
  | i8
  | bfp (a b : Nat)
  deriving DecidableEq, Repr

/-- A tile of 16,384 numbers from its listed elements: n of them from key k. -/
def denseList : NMap → Nat → Nat → List Nat
  | _, _, 0 => []
  | [], k, n + 1 => 0 :: denseList [] (k + 1) n
  | (j, v) :: r, k, n + 1 => if j = k then v :: denseList r (k + 1) n else 0 :: denseList ((j, v) :: r) (k + 1) n

/-- The elements of accumulator tile t, row by row. -/
def Member.tileVals (m : Member) (t : Nat) : List Nat :=
  denseList (Tbl.keep (fun k _ => t * 16384 ≤ k && k < (t + 1) * 16384) m.acc) (t * 16384) 16384

/-- Accumulator tile t replaced. -/
def Member.putTile (m : Member) (t : Nat) (vals : List Nat) : Member :=
  let mine := (vals.zipIdx.filter fun p => p.1 != 0).map fun p => (t * 16384 + p.2, p.1)
  { m with acc := Tbl.keep (fun k _ => decide (k < t * 16384)) m.acc ++ mine ++
      Tbl.keep (fun k _ => decide ((t + 1) * 16384 ≤ k)) m.acc }

/-- Element k of accumulator tile t written. -/
def Member.putAcc (m : Member) (t k v : Nat) : Member := { m with acc := NMap.set m.acc (t * 16384 + k) v }

/-- Row i of accumulator tile t holds poison (04 R111, 15 R392). -/
def Member.rowPoisoned (m : Member) (t i : Nat) : Bool := NSet.mem (t * 1024 + i * 8) m.accPoison

/-- The eight sectors of row i of accumulator tile t marked or cleared. -/
def Member.markRow (m : Member) (t i : Nat) (b : Bool) : Member :=
  let one := fun (p : NSet) (k : Nat) => if b then NSet.add (t * 1024 + i * 8 + k) p else NSet.del (t * 1024 + i * 8 + k) p
  { m with accPoison := (List.range 8).foldl one m.accPoison }

/-- Some sector of [off, off + n) of the tile store holds poison. -/
def Member.tilePois (m : Member) (off n : Nat) : Bool := m.tilePoison.any fun w => decide (off < w * 64 + 64) && decide (w * 64 < off + n)

/-- The n bytes at an offset of the tile store as one number. -/
def Member.tileNat (m : Member) (off n : Nat) : Nat := leNat (Mem.read (Mem.slice m.tile off n) 0 n)

/-- n elements of w bits of a stream. -/
def streamEls (x w n : Nat) : List Nat := (List.range n).map fun k => fld x (w * k) w

/-! ### One element (09 R241, R242) -/

/-- The sum of a chunk while it is formed: NaN, the infinities seen, and the exact sum. -/
structure Chunk where
  nan : Bool
  pos : Bool
  neg : Bool
  sum : Dy
  deriving DecidableEq, Repr

/-- One product joins the chunk; with SKIPZ a zero A operand is left out (R244). -/
def Chunk.step (skipz : Bool) (c : Chunk) (a b : FVal) : Chunk :=
  if skipz && a.isZero then c
  else if a.isNan || b.isNan then { c with nan := true }
  else if a.isInf || b.isInf then
    if a.isZero || b.isZero then { c with nan := true }
    else if a.isNeg == b.isNeg then { c with pos := true } else { c with neg := true }
  else { c with sum := c.sum.add (a.dy.mul b.dy) }

/-- A chunk accumulated into an F32 element: one RNE rounding. -/
def Chunk.into (acc : Nat) (c : Chunk) : Nat × Flags :=
  let F := fmtOf .f32
  if c.nan || (c.pos && c.neg) then (F.nan, flNV)
  else
    let s : FVal := if c.pos then .inf false else if c.neg then .inf true
      else if c.sum.n = 0 then .zero false else .fin (decide (c.sum.n < 0)) c.sum.n.natAbs c.sum.e
    let r := addVal F .rne false (fdecode F acc) s
    (r.bits, r.flags)

/-- The products of a row and a column accumulated in chunks of 32; the first argument bounds the chunks. -/
def accFloat (skipz : Bool) : Nat → Nat → List FVal → List FVal → Nat × Flags
  | 0, acc, _, _ => (acc, 0)
  | n + 1, acc, as, bs =>
    let c := ((as.take 32).zip (bs.take 32)).foldl (fun c (a, b) => c.step skipz a b)
      ({ nan := false, pos := false, neg := false, sum := ⟨0, 0⟩ } : Chunk)
    let r := c.into acc
    let q := accFloat skipz n r.1 (as.drop 32) (bs.drop 32)
    (q.1, r.2 ||| q.2)

/-- The exact sum of the products of two integer streams. -/
def dotInt (as bs : List Int) : Int := (as.zip bs).foldl (fun s (a, b) => s + a * b) 0

/-- Block scaling of a partial sum into an F32 element (09 R242). -/
def scaleInto (acc : Nat) (p : Int) (ea eb : Nat) : Nat × Flags :=
  let F := fmtOf .f32
  if ea = 255 ∨ eb = 255 then (F.nan, flNV)
  else
    let s : FVal := if p = 0 then .zero false else .fin (decide (p < 0)) p.natAbs ((ea : Int) + eb - 254)
    let r := addVal F .rne false (fdecode F acc) s
    (r.bits, r.flags)

/-! ### A row group of a multiply -/

/-- Bits of an A element and of a B element. -/
def PFmt.bits : PFmt → Nat × Nat
  | .flt _ => (16, 16)
  | .i8 => (8, 8)
  | .bfp a b => (a, b)

/-- Bytes of a row of K elements of A, and of a column of B (15 R384). -/
def PFmt.rowBytes (f : PFmt) (k : Nat) : Nat × Nat := (k * f.bits.1 / 8, k * f.bits.2 / 8)

/-- An A element is zero. -/
def PFmt.isZero (f : PFmt) (x : Nat) : Bool := match f with | .flt _ => x % 0x8000 == 0 | _ => x == 0

/-- One output row: its 128 elements from the row of A, the 128 columns of B and the elements before. -/
def mulRow (f : PFmt) (k : Nat) (skipz : Bool) (a : Nat) (cols : List Nat) (olds : List Nat) : List Nat × Flags :=
  let (wa, wb) := f.bits
  match f with
  | .flt t =>
    let as := (streamEls a wa k).map (fdecode (fmtOf t))
    let rs := (olds.zip cols).map fun (o, c) => accFloat skipz ((k + 31) / 32) o as ((streamEls c wb k).map (fdecode (fmtOf t)))
    (rs.map (·.1), rs.foldl (fun fl r => fl ||| r.2) 0)
  | _ =>
    let as := (streamEls a wa k).map (sintOf wa)
    ((olds.zip cols).map fun (o, c) => wrapTo 32 (sintOf 32 o + dotInt as ((streamEls c wb k).map (sintOf wb))), 0)

end Sys2Proof.Machine
end

