-- ==== Sys2Proof/Machine/Platen.lean ====
section
/-! DEFINITION. The platen (15 R382-R398): acceptance of its operations, their start and completion, colophons (08 R222,
R223), the near-memory GEMV, and the completion marks. -/

namespace Sys2Proof.Machine

/-! ### Fields of the words -/

/-- The virtual address of a tile-window offset. -/
def tileVirt (off : Nat) : Word := BitVec.ofNat 64 (0x7F0000000000 + off)

/-- The element format of a multiply. -/
def pfmtOf (w : CW) : PFmt :=
  match fld w.imm.toNat 4 2 with
  | 0 => .flt .f16 | 1 => .flt .bf16 | 2 => .i8
  | _ => .bfp (fld w.imm.toNat 7 3 + 2) (fld w.imm.toNat 10 3 + 2)

/-- The block length a code names (15 R385). -/
def blkOf (code : Nat) : Nat := 32 * 2 ^ code

/-- K of a multiply: from C, or the block length (15 R385, R387). -/
def mulK (op : Nat) (w : CW) (c : Word) : Nat :=
  if fld w.imm.toNat 4 2 = 3 then blkOf (fld w.imm.toNat 13 2) else if op = 0x82 then getField c 0 13 else c.toNat

/-- OVW of a multiply. -/
def mulOvw (w : CW) : Bool := w.imm.getLsbD 6

/-- The tile that a word names. -/
def tileNo (w : CW) : Nat := fld w.imm.toNat 0 4

/-- The accumulator tiles an operation names (08 R222). -/
def opTiles (op : Nat) (w : CW) : List Nat :=
  if op = 0x83 then [(tileNo w), fld w.imm.toNat 4 4] else if op = 0x89 ∨ op = 0x8A then [] else [(tileNo w)]

/-! ### Acceptance (R382, R384) -/

/-- What acceptance of an operation takes: its interlock entries as ranges (write, dense, element-size code, lowest and
highest byte, first byte), its group table and its header. -/
structure PlatenNeed where
  ranges : List (Bool × Bool × Nat × Nat × Nat × Nat)
  groups : List (Nat × Nat)
  hdr : Option GemvHdr
  tablePoison : Bool := false

/-- Nothing but the word. -/
def PlatenNeed.none : PlatenNeed := { ranges := [], groups := [], hdr := Option.none }

/-- A tile-store range read. -/
def tileRange (off n : Nat) : Bool × Bool × Nat × Nat × Nat × Nat :=
  (false, false, 0, (tileVirt off).toNat, (tileVirt (off + n - 1)).toNat, (tileVirt off).toNat)

/-- The ranges that an MMAG reads, its A operand, its table and the B operands of its groups, one each: where they are more than the
interlock table holds, one range spans the B operands (05 R125; assumption log 115). -/
def mmagRanges (a b : Nat × Nat) (gs : List (Nat × Nat)) : List (Bool × Bool × Nat × Nat × Nat × Nat) :=
  let gs := gs.eraseDups
  let lo := gs.foldl (fun x g => min x g.1) (2 ^ 64)
  let hi := gs.foldl (fun x g => max x (g.1 + g.2)) 0
  (a :: b :: if gs.length ≤ 14 then gs else [(lo, hi - lo)]).map fun r => tileRange r.1 r.2

/-- Tiles of a member. -/
def Member.ntile (m : Member) : Nat := if m.full then 16 else 8

/-- The bytes of a member's TILESZ grant. -/
def Member.grant (m : Member) : Nat := m.tilesz * 0x40000

/-- A tile-store operand of n bytes at an offset that breaks R384. -/
def Member.badTile (m : Member) (off : Word) (n : Nat) : Bool := off.toNat % 64 != 0 || decide (m.grant < off.toNat + n)

/-- BOUNDS at a tile-window offset. -/
def tileBounds (off : Word) : Trap := { boundsTrap with addr := tileVirt off.toNat }

/-- The lowest and highest byte of 128 rows of n bytes at a pitch. -/
def rowSpan (base : Word) (pitch : Word) (rows n : Nat) : Nat × Nat :=
  let last := (base.toNat : Int) + ((rows : Int) - 1) * pitch.toInt
  ((min (base.toNat : Int) last).toNat, (max (base.toNat : Int) last + n - 1).toNat)

/-- The group table of an MMAG, read at acceptance: the rows and B offset of each group, or the first entry that fails
(R387). -/
def Member.groupTable (m : Member) (b : Word) (ng colBytes : Nat) : Except Trap (List (Nat × Nat)) :=
  (List.range ng).foldl (fun (acc : Except Trap (List (Nat × Nat))) g =>
    match acc with
    | .error tr => .error tr
    | .ok l =>
      let e := m.tileNat (b.toNat + 8 * g) 8
      let rows := fld e 0 8
      let boff := fld e 32 32
      if 128 < (l.map (·.1)).sum + rows ∨ fld e 8 24 ≠ 0 ∨ boff % 64 ≠ 0 ∨ m.grant < boff + 128 * colBytes then
        .error { tileBounds (BitVec.ofNat 64 (b.toNat + 8 * g)) with elem := g }
      else .ok (l ++ [(rows, boff)])) (.ok [])

/-- The 64 bytes of a GEMV header with every field in its limits (R394). -/
def parseGemv (bs : List Byte) : Option GemvHdr :=
  let wf := leAt bs 0x08 1
  let mw := leAt bs 0x09 1
  let lc := leAt bs 0x0A 1
  let h : GemvHdr := { rows := leAt bs 0 4, cols := leAt bs 4 4, bfp := wf == 1, mw, blk := blkOf lc, src := leAt bs 0x10 8,
                       spitch := sintOf 64 (leAt bs 0x18 8), sexp := leAt bs 0x20 8, prep := leAt bs 0x28 8 }
  if h.rows = 0 ∨ 16384 < h.rows ∨ h.cols = 0 ∨ 1 < wf ∨ ¬ zerosAt bs 0x0B 5 ∨ ¬ zerosAt bs 0x30 16 ∨ h.prep % 4096 ≠ 0 ∨
      (wf = 0 ∧ (mw ≠ 0 ∨ lc ≠ 0 ∨ h.sexp ≠ 0)) ∨
      (wf = 1 ∧ (mw < 2 ∨ 8 < mw ∨ 2 < lc ∨ h.cols % h.blk ≠ 0)) then none
  else some h

/-- Bytes of the exponents, of the mantissas and of a prepared row, and rows per panel (R394). -/
def GemvHdr.eb (h : GemvHdr) : Nat := if h.bfp then 64 * ((h.cols / h.blk + 63) / 64) else 0
/-- MB. -/
def GemvHdr.mantBytes (h : GemvHdr) : Nat := if h.bfp then (h.cols * h.mw + 7) / 8 else h.cols * 2
/-- RB. -/
def GemvHdr.rb (h : GemvHdr) : Nat := h.eb + 64 * ((h.mantBytes + 63) / 64)
/-- RP. -/
def GemvHdr.rp (h : GemvHdr) : Nat := 4096 / h.rb
/-- Panels of the image. -/
def GemvHdr.panels (h : GemvHdr) : Nat := (h.rows + h.rp - 1) / h.rp
/-- The address of row r of the image (R395): its page has been checked at issue. -/
def GemvHdr.rowAddr (h : GemvHdr) (r : Nat) : Word := BitVec.ofNat 64 (h.prep + 4096 * (r / h.rp) + r % h.rp * h.rb)

/-- The header at va, read and checked. -/
def State.gemvHeader (s : State) (t : Nat) (va : Word) : State × Except Trap GemvHdr :=
  if va.toNat % 64 ≠ 0 then (s, .error (misaligned va))
  else match s.readBlock (s.ctxOf t) va 64 with
    | (s, .error tr) => (s, .error tr)
    | (s, .ok bs) => match parseGemv bs with
      | none => (s, .error boundsTrap)
      | some h => if 4096 < h.rb then (s, .error boundsTrap) else (s, .ok h)

/-- The first page of the image that fails: it must be an ordinary-area HBM page with MT = 0 (R395, 04 R102 check 7). -/
def State.imagePages (s : State) (t : Nat) (kind : AKind) (h : GemvHdr) : State × Option Trap :=
  (List.range h.panels).foldl (fun (acc : State × Option Trap) k =>
    match acc.2 with
    | some _ => acc
    | none =>
      match exactAddr (h.prep + 4096 * k : Nat) with
      | .error tr => (acc.1, some tr)
      | .ok va => match acc.1.access (acc.1.ctxOf t) kind false va 4096 with
        | (s, .error tr) => (s, some tr)
        | (s, .ok sp) =>
          let good := areaOf va.toNat == .ordinary && sp.all fun p => match p.place with
            | .phys a c => c && s.physKind a == .hbm | _ => false
          if ¬ good then (s, some (memTrap 0x06 0x04 va.toNat)) else (s, none)) (s, none)

/-- The checks of a multiply at issue (R384, R385, R387). -/
def Member.mulNeed (m : Member) (op : Nat) (w : CW) (a b c : Word) : Except Trap PlatenNeed :=
  let f := pfmtOf w
  let k := mulK op w c
  let bfp := fld w.imm.toNat 4 2 == 3
  let (ra, rb) := f.rowBytes k
  let ng := getField c 16 4 + 1
  if op = 0x82 ∧ (getField c 13 3 ≠ 0 ∨ getField c 20 44 ≠ 0) then .error boundsTrap
  else if (if bfp then op = 0x82 ∧ getField c 0 13 ≠ k else k = 0 ∨ 4096 < k) ∨ m.ntile ≤ (tileNo w) then .error boundsTrap
  else if m.badTile a (128 * ra) then .error (tileBounds a)
  else if op = 0x82 then
    if m.badTile b (8 * ng) then .error (tileBounds b)
    else match m.groupTable b ng rb with
      | .error tr => .error tr
      | .ok gs => .ok { ranges := mmagRanges (a.toNat, 128 * ra) (b.toNat, 8 * ng)
                          ((gs.filter (·.1 != 0)).map fun g => (g.2, 128 * rb))
                        groups := gs, hdr := none, tablePoison := m.tilePois b.toNat (8 * ng) }
  else if m.badTile b (128 * rb) then .error (tileBounds b)
  else .ok { ranges := [tileRange a.toNat (128 * ra), tileRange b.toNat (128 * rb)], groups := [(128, b.toNat)], hdr := none }

/-- The row bytes and element-size code of an ACCCVT (R390). -/
def cvtRow (w : CW) : Nat × Nat :=
  match fld w.imm.toNat 4 3 with | 0 => (256, 1) | 1 => (256, 1) | 2 => (128, 0) | _ => (16 * (fld w.imm.toNat 9 3 + 2), 0)

/-- The ranges of an ACCLD, ACCST or ACCCVT (R389, R390). -/
def accRanges (op : Nat) (w : CW) (a b c : Word) : List (Bool × Bool × Nat × Nat × Nat × Nat) :=
  let (n, z) := if op = 0x86 then cvtRow w else (512, 2)
  let bfp := op = 0x86 ∧ fld w.imm.toNat 4 3 = 3
  let sp := rowSpan a b 128 n
  let main := (op != 0x84, op != 0x84 && b.toNat == n && !bfp, z, sp.1, sp.2, a.toNat)
  let per := 128 / blkOf (fld w.imm.toNat 12 2)
  if bfp then [main, (true, false, 0, c.toNat, c.toNat + 128 * per - 1, c.toNat)] else [main]

/-- The checks of an operation at issue, and what it takes (R384-R397). -/
def State.platenNeed (s : State) (x : CIn) (op : Nat) (w : CW) : State × Except Trap PlatenNeed :=
  let m := s.mb x.th.member
  if op ≠ 0x89 ∧ op ≠ 0x8A ∧ m.ntile ≤ (tileNo w) then (s, .error boundsTrap)
  else match op with
  | 0x83 =>
    if m.ntile ≤ fld w.imm.toNat 4 4 then (s, .error boundsTrap)
    else if m.badTile x.a 128 then (s, .error (tileBounds x.a))
    else if m.badTile x.b 128 then (s, .error (tileBounds x.b))
    else (s, .ok { ranges := [tileRange x.a.toNat 128, tileRange x.b.toNat 128], groups := [], hdr := none })
  | 0x84 => (s, .ok { ranges := accRanges op w x.a x.b x.c, groups := [], hdr := none })
  | 0x85 => (s, .ok { ranges := accRanges op w x.a x.b x.c, groups := [], hdr := none })
  | 0x86 => (s, .ok { ranges := accRanges op w x.a x.b x.c, groups := [], hdr := none })
  | 0x87 => (s, .ok PlatenNeed.none)
  | 0x88 => match s.gemvHeader x.t x.b with
    | (s, .error tr) => (s, .error tr)
    | (s, .ok h) =>
      let n := if h.bfp then h.cols else h.cols * 2
      if ¬ h.bfp ∧ w.c ≠ 48 then (s, .error (causeTrap 0x01))
      else if m.badTile x.a n then (s, .error (tileBounds x.a))
      else if h.bfp ∧ m.badTile x.c (h.cols / h.blk) then (s, .error (tileBounds x.c))
      else match s.imagePages x.t .carried h with
        | (s, some tr) => (s, .error tr)
        | (s, none) => (s, .ok
            { ranges := tileRange x.a.toNat n ::
                (false, false, 0, h.prep, h.prep + 4096 * h.panels - 1, h.prep) ::
                (if h.bfp then [tileRange x.c.toNat (h.cols / h.blk)] else []), groups := [], hdr := some h })
  | 0x89 => match s.gemvHeader x.t x.a with
    | (s, .error tr) => (s, .error tr)
    | (s, .ok h) => match s.imagePages x.t .write h with
      | (s, some tr) => (s, .error tr)
      | (s, none) =>
        let sp := rowSpan (BitVec.ofNat 64 h.src) (BitVec.ofInt 64 h.spitch) h.rows h.mantBytes
        let ne := h.rows * (h.cols / h.blk)
        (s, .ok { ranges := (false, false, 0, sp.1, sp.2, h.src) :: (true, false, 0, h.prep, h.prep + 4096 * h.panels - 1, h.prep) ::
                    (if h.bfp then [(false, false, 0, h.sexp, h.sexp + ne - 1, h.sexp)] else []), groups := [], hdr := some h })
  | 0x8A =>
    if x.a.toNat % 8 ≠ 0 then (s, .error (misaligned x.a))
    else (s, .ok { ranges := [(true, false, 3, x.a.toNat, x.a.toNat + 7, x.a.toNat)], groups := [], hdr := none })
  | _ => (s, m.mulNeed op w x.a x.b x.c)

/-- What an operation reads at issue, its header or its group table, waits for the thread's earlier engine work (05 R126). -/
def State.readsHeld (s : State) (x : CIn) (op : Nat) : Bool :=
  match op with
  | 0x82 => s.interlocked x.t false (tileVirt x.b.toNat) (8 * (getField x.c 16 4 + 1))
  | 0x88 => s.interlocked x.t false x.b 64
  | 0x89 => s.interlocked x.t false x.a 64
  | _ => false

/-- A platen operation or SEQW at issue: what it reads, its checks, room in the interlock table, an engine breakpoint, then the queue
(R382). -/
def platenExec (op : Nat) (w : CW) (s : State) : Out :=
  ctlExec op w s fun s x =>
    if s.readsHeld x op then .wait s none
    else match s.platenNeed x op w with
    | (s, .error tr) => .trap s tr
    | (s, .ok need) =>
      let eng := if op = 0x88 ∨ op = 0x89 then 6 else 7
      let n := (s.th x.t).nextEseq eng
      let ls := need.ranges.map fun (wr, dense, z, lo, hi, first) => lockOf wr dense eng z n lo hi first
      if (s.th x.t).freeLocks.length < ls.length then .wait s none
      else if (s.th x.t).engBreak x.si.pc eng 0 n then .brk s eng 0 n
      else
        let q := s.takeLocks x.t ls
        let s := q.1.acceptEng x.t eng 0 n
        let p : PlatenOp :=
          { id := s.nextCmd, issued := (s.cycleOf x.t).toNat, startAt := 0, op, cw := w, pc := x.si.pc, cseq := x.si.seq, eng,
            eseq := n, a := x.a, b := x.b, c := x.c, rmode := x.th.sys.rmode, started := false, pos := 0,
            groups := need.groups, tablePoison := need.tablePoison, hdr := need.hdr, resid := 0, flags := 0, locks := q.2, fault := none, cover := [],
            waited := (s.cmds.filter fun c => c.thr == x.t && !c.finished).map (·.id), heldAt := none, heldFor := 0 }
        let s := { s with nextCmd := s.nextCmd + 1 }.modTh x.t fun th => { th with platen := th.platen ++ [p] }
        .none (s.kickPlaten x.t)

/-! ### Colophons (08 R222, R223) -/

/-- The life of tile k of member m. -/
def Member.life (m : Member) (k : Nat) : TileLife := vget m.lives k TileLife.reset

/-- The life of tile k opens with operation op if it is closed: its CINS and CINE at cycle now, but CINE of an ACCLD when that ends. A
life after an interrupted one is marked CONTINUED. -/
def Member.openLife (m : Member) (k now op : Nat) : Member :=
  let l := m.life k
  if l.isOpen then m
  else { m with lives := vset m.lives k { TileLife.reset with
    isOpen := true, flags := (if l.continued then 2 else 0) + (if op = 0x87 then 8 else 0), cins := now,
    cine := if op = 0x84 then 0 else now } }

/-- The 128 bytes of a colophon record. -/
def colophonBytes (l : TileLife) (tile : Nat) (pc : Word) (eseq : Nat) (stint : Nat) : List Byte :=
  bytesOf 1 1 ++ bytesOf 1 l.flags.toNat ++ bytesOf 1 tile ++ bytesOf 1 0 ++ bytesOf 2 l.nops ++ bytesOf 2 l.skipgrp ++
  bytesOf 8 pc.toNat ++ bytesOf 4 eseq ++ bytesOf 2 stint ++ bytesOf 2 0 ++ bytesOf 8 l.opwait ++
  [l.cins, l.cine, l.cmps, l.cmpe, l.couts, l.coute].flatMap (bytesOf 8) ++ bytesOf 8 l.zskip ++ List.replicate 40 0

/-- A colophon of control thread t stored in its ring; a store that fails is dropped. -/
def State.writeColophon (s : State) (t : Nat) (bs : List Byte) : State :=
  let r := (s.th t).sys
  if r.colbase = 0 then s
  else match s.writeBlock (s.ctxOf t) (r.colbase + BitVec.ofNat 64 (r.colhead.toNat % 2 ^ (s.region (s.ridOf t)).collog)) bs with
    | (s, some _) => s
    | (s, none) => s.modTh t fun th => { th with sys := { th.sys with colhead := th.sys.colhead + 128 } }

/-- An operation that retires the tile it names. -/
def PlatenOp.retires (p : PlatenOp) : Bool := p.op == 0x85 || p.op == 0x86

/-- An operation that computes on the tile it names, for CMPS and CMPE. -/
def PlatenOp.computes (p : PlatenOp) : Bool := p.op ≤ 0x83 || p.op == 0x88

/-- The POISON flag of a colophon of tile k: a row of it is marked when the record is written (R223). -/
def Member.poisonFlag (m : Member) (k : Nat) : BitVec 8 := if (List.range 128).any (m.rowPoisoned k) then 4 else 0

/-- The life of tile k with the stamps that the operations q of its queue, up to the one that retires it, have reached (R222). -/
def TileLife.reached (l : TileLife) (k : Nat) (q : List PlatenOp) : TileLife :=
  let mine := q.filter fun p => (opTiles p.op p.cw).contains k
  let upTo := mine.takeWhile fun p => !p.retires
  { l with
    cmps := if l.cmpe ≠ 0 then l.cmps else match upTo.find? (·.computes) with | some p => p.issued | none => 0
    couts := match q with | p :: _ => if p.started ∧ p.retires ∧ tileNo p.cw = k then p.startAt else 0 | [] => 0 }

/-- The colophons of the lives a pre-emption interrupts, in tile order: the tiles do not retire (R223; assumption log 103). -/
def State.interruptLives (s : State) (t : Nat) : State :=
  let m := (s.th t).member
  (List.range 16).foldl (fun s k =>
    let l := ((s.mb m).life k).reached k (s.th t).platen
    if l.isOpen then
      (s.writeColophon t (colophonBytes { l with flags := l.flags ||| (s.mb m).poisonFlag k ||| 1 } k 0 0
          (s.th t).stint.toNat)).modMb m fun mb =>
        { mb with lives := vset mb.lives k { TileLife.reset with continued := true } }
    else s) s

/-! ### Start (R382, R383) -/

/-- The control threads of the cluster that thread t runs on. -/
def State.platenPeers (s : State) (t : Nat) : List Nat :=
  (List.range s.threads.length).filter fun u => (s.th u).kind == .control && s.cluOf u == s.cluOf t && (s.th u).active

/-- The head of thread t's queue is ready to start: an SEQW once the commands before it have completed. -/
def State.platenReady (s : State) (t : Nat) : Bool :=
  match (s.th t).platen with
  | [] => false
  | p :: _ => !p.started && !(s.memberStopped (s.th t).member) && (s.tm (s.th t).team).state != .saved &&
      (p.op != 0x8A || !(s.cmds.any fun c => p.waited.contains c.id && !c.finished))

/-- The head of a queue changed by f. -/
def Thread.modHead (th : Thread) (f : PlatenOp → PlatenOp) : Thread :=
  { th with platen := match th.platen with | [] => [] | p :: rest => f p :: rest }

/-- The head of thread t's queue starts: no operation of the cluster runs, and it is this queue's turn when the other has an
operation ready too. None when that cannot be. -/
def State.platenStart (s : State) (t : Nat) : Option State :=
  let k := (s.cluOf t).getD 0
  let peers := s.platenPeers t
  let busy := peers.any fun u => match (s.th u).platen with | p :: _ => p.started && p.fault.isNone | [] => false
  let other := peers.any fun u => u != t && s.platenReady u
  if ¬ s.platenReady t ∨ busy ∨ (other ∧ (s.clu k).platenTurn = t + 1) then none
  else
    let now := (s.cycleOf t).toNat
    let s := s.modTh t fun th => th.modHead fun p =>
      { p with started := true, startAt := now,
               resid := if p.op = 0x86 then BitVec.ofNat 64 (efrStart th.sys.vcarry) else 0 }
    let s := match (s.th t).platen with
      | [] => s
      | p :: _ => s.modMb (s.th t).member fun mb => (opTiles p.op p.cw).foldl (fun mb j => mb.openLife j now p.op) mb
    some ((s.modClu k fun c => { c with platenTurn := t + 1 }).postOnce .platenOpComplete t)

/-! ### Multiplies and scaling (R385-R388, R391, R392) -/

/-- Row i of a multiply belongs to a group: its B offset. -/
def groupOfRow : List (Nat × Nat) → Nat → Option Nat
  | [], _ => none
  | (n, b) :: rest, i => if i < n then some b else groupOfRow rest (i - n)

/-- A multiply on member m: the tile, the flags, and the A elements an MMAZ skips. A poisoned group table, the B operand of an MMAG, marks
every row (R392; assumption log 116). -/
def Member.multiply (m : Member) (p : PlatenOp) : Member × Flags × Nat :=
  let f := pfmtOf p.cw
  let k := mulK p.op p.cw p.c
  let (ra, rb) := f.rowBytes k
  let ovw := mulOvw p.cw
  let flt := match f with | .flt _ => true | _ => false
  let skipz := p.op == 0x81 && flt && getBit p.rmode 4
  let olds := m.tileVals (tileNo p.cw)
  let colsOf := fun (b : Nat) => (List.range 128).map fun j => m.tileNat (b + j * rb) rb
  let tables : List (Nat × List Nat × Bool) := (p.groups.filter (·.1 != 0)).map fun g => (g.2, colsOf g.2, m.tilePois g.2 (128 * rb))
  let rows := (List.range 128).map fun i =>
    let old := (olds.drop (i * 128)).take 128
    match groupOfRow p.groups i with
    | none => (old, (0 : Flags), if p.tablePoison then some true else none, 0)
    | some b =>
      let a := m.tileNat (p.a.toNat + i * ra) ra
      let tb := (tables.find? fun (y : Nat × List Nat × Bool) => y.1 == b).getD (b, [], false)
      let r := mulRow f k skipz a tb.2.1 (if ovw then List.replicate 128 0 else old)
      let pois := p.tablePoison || tb.2.2 || m.tilePois (p.a.toNat + i * ra) ra
      let zeros := if p.op = 0x81 ∧ (skipz ∨ ¬ flt) then ((streamEls a f.bits.1 k).filter f.isZero).length else 0
      (r.1, r.2, if pois then some true else if ovw then some false else none, zeros)
  let m2 := m.putTile (tileNo p.cw) (rows.flatMap (·.1))
  let m3 := rows.zipIdx.foldl (fun (mb : Member) (r, i) => match r.2.2.1 with
    | some b => mb.markRow (tileNo p.cw) i b | none => mb) m2
  (m3, rows.foldl (fun fl r => fl ||| r.2.1) 0, (rows.map (·.2.2.2)).sum)

/-- SCACC on member m. -/
def Member.scacc (m : Member) (p : PlatenOp) : Member × Flags :=
  let t := (tileNo p.cw)
  let q := fld p.cw.imm.toNat 4 4
  let ea := streamEls (m.tileNat p.a.toNat 128) 8 128
  let eb := streamEls (m.tileNat p.b.toNat 128) 8 128
  let vals := ((m.tileVals t).zip (m.tileVals q)).zipIdx.map fun ((o, x), k) =>
    scaleInto o (sintOf 32 x) (ea.getD (k / 128) 0) (eb.getD (k % 128) 0)
  let all := m.tilePois p.b.toNat 128
  let m2 := m.putTile t (vals.map (·.1))
  ((List.range 128).foldl (fun mb i =>
      if all ∨ m.tilePois (p.a.toNat + i) 1 ∨ m.rowPoisoned q i then mb.markRow t i true else mb) m2,
    vals.foldl (fun fl v => fl ||| v.2) 0)

/-- ACCZERO on member m. -/
def Member.acczero (m : Member) (t : Nat) : Member :=
  (List.range 128).foldl (fun mb i => mb.markRow t i false) (m.putTile t [])

/-! ### Loads, stores and conversions (R389, R390, R392) -/

/-- The address of byte o of row i, exact (assumption log 40). -/
def PlatenOp.rowAddr (p : PlatenOp) (i o : Nat) : Except Trap Word :=
  exactAddr ((p.a.toNat : Int) + (i : Nat) * p.b.toInt + (o : Nat))

/-- Element k of an ACCLD. -/
def State.accldElem (t : Nat) (p : PlatenOp) (s : State) (k : Nat) : State × EStat :=
  match p.rowAddr (k / 128) (4 * (k % 128)) with
  | .error tr => (s, .fault tr)
  | .ok va =>
  if s.heldBefore t p.id false va 4 then (s, .stall)
  else match s.access (s.ctxOf t) .carried false va 4 with
    | (s, .error tr) => (s, .fault tr)
    | (s, .ok sp) =>
      let fl := (s.spanFlags sp).any id
      let q := s.readSpans (s.ctxOf t) 0 sp
      (q.1.modMb (s.th t).member fun mb =>
        let mb := mb.putAcc (tileNo p.cw) k (leNat q.2)
        let mb := if k % 128 = 0 then mb.markRow (tileNo p.cw) (k / 128) false else mb
        if fl then mb.markRow (tileNo p.cw) (k / 128) true else mb, .run)

/-- n bytes of row i stored at va: poisoned sectors when the row is. -/
def State.putRow (s : State) (t : Nat) (p : PlatenOp) (i : Nat) (va : Except Trap Word) (bs : List Byte) : State × EStat :=
  match va with
  | .error tr => (s, .fault tr)
  | .ok va =>
  if s.heldBefore t p.id true va bs.length then (s, .stall)
  else match s.access (s.ctxOf t) .write false va bs.length with
    | (s, .error tr) => (s, .fault tr)
    | (s, .ok sp) =>
      let bad := (s.mbOf t).rowPoisoned (tileNo p.cw) i
      let cov := match (s.th t).platen with | h :: _ => h.cover | [] => []
      let q := (s.writeSpans (s.ctxOf t) 0 sp bs).carryPoison cov sp (bs.map fun _ => bad)
      (q.1.modTh t fun th => th.modHead fun h => { h with cover := q.2 }, .run)

/-- Element k of the tile an operation of thread t reads. -/
def State.accOf (s : State) (t : Nat) (p : PlatenOp) (k : Nat) : Nat := NMap.get (s.mbOf t).acc ((tileNo p.cw) * 16384 + k)

/-- Element k of an ACCST. -/
def State.accstElem (t : Nat) (p : PlatenOp) (s : State) (k : Nat) : State × EStat :=
  s.putRow t p (k / 128) (p.rowAddr (k / 128) (4 * (k % 128))) (bytesOf 4 (s.accOf t p k))

/-- The residual and the flags of the running conversion of thread t. -/
def State.running (s : State) (t : Nat) : Nat × Flags :=
  match (s.th t).platen with | h :: _ => (h.resid.toNat, h.flags) | [] => (0, 0)

/-- The residual and the flags of the running conversion replaced. -/
def State.setRunning (s : State) (t : Nat) (r : Nat) (fl : Flags) : State :=
  s.modTh t fun th => th.modHead fun h => { h with resid := BitVec.ofNat 64 r, flags := h.flags ||| fl }

/-- Element k of an ACCCVT to F16, BF16 or I8. -/
def State.cvtElem (t : Nat) (p : PlatenOp) (s : State) (k : Nat) : State × EStat :=
  let x := s.accOf t p k
  let sat := p.cw.imm.getLsbD 8
  let F := fmtOf (if fld p.cw.imm.toNat 4 3 = 0 then .f16 else .bf16)
  let int8 := fld p.cw.imm.toNat 4 3 = 2
  let n := if int8 then 1 else 2
  let r : Nat × Nat × Flags :=
    if p.cw.imm.getLsbD 7 then efrStep (if int8 then .int8 else .flt F) false sat (s.running t).1 x
    else
      let y := if int8 then toInt true 8 (modeOf p.rmode) (fdecode (fmtOf .f32) x)
        else (cvtFloat F (modeOf p.rmode) false (fdecode (fmtOf .f32) x)).sat F sat
      (y.bits, (s.running t).1, y.flags)
  match s.putRow t p (k / 128) (p.rowAddr (k / 128) (n * (k % 128))) (bytesOf n r.1) with
  | (s, .run) => (s.setRunning t r.2.1 r.2.2, .run)
  | (s, e) => (s, e)

/-- A BFP block under error feedback: the exponent chosen as under RNE, the mantissas, the residual and the flags (09
R246). -/
def efrBlock (mb : Nat) (r : Nat) (xs : List Nat) : Nat × List Nat × Nat × Flags :=
  let E := (packBlock .rne mb (xs.map (fdecode (fmtOf .f32)))).1
  if E = 255 then (255, xs.map fun _ => 0, r, flNV)
  else
    let q := xs.foldl (fun (acc : List Nat × Nat × Flags) x =>
      let y := efrStep (.bfp mb E) false false acc.2.1 x
      (acc.1 ++ [y.1], y.2.1, acc.2.2 ||| y.2.2)) ([], r, 0)
    (E, q.1, q.2.1, q.2.2)

/-- Block j, in row order, of an ACCCVT to BFP: its mantissas, then its exponent. -/
def State.cvtBlock (t : Nat) (p : PlatenOp) (s : State) (j : Nat) : State × EStat :=
  let len := blkOf (fld p.cw.imm.toNat 12 2)
  let mb := fld p.cw.imm.toNat 9 3 + 2
  let per := 128 / len
  let i := j / per
  let xs := (List.range len).map fun k => s.accOf t p (j * len + k)
  let r : Nat × List Nat × Nat × Flags :=
    if p.cw.imm.getLsbD 7 then efrBlock mb (s.running t).1 xs
    else
      let b := packBlock (modeOf p.rmode) mb (xs.map (fdecode (fmtOf .f32)))
      (b.1, b.2.1.map (wrapTo mb), (s.running t).1, b.2.2)
  let bits := r.2.1.zipIdx.foldl (fun a (y, k) => a + y % 2 ^ mb * 2 ^ (mb * k)) 0
  match s.putRow t p i (p.rowAddr i (j % per * (len * mb / 8))) (bytesOf (len * mb / 8) bits) with
  | (s, .run) => match s.putRow t p i (exactAddr (p.c.toNat + j : Nat)) (bytesOf 1 r.1) with
    | (s, .run) => (s.setRunning t r.2.2.1 r.2.2.2, .run)
    | (s, e) => (s, e)
  | (s, e) => (s, e)

/-! ### Near-memory GEMV (R394-R396) -/

/-- n bytes read at va with their poison, in pieces of 64 bytes. -/
def State.carriedBlock (s : State) (cx : ACtx) (va : Word) (n : Nat) : State × Except Trap (List Byte × List Bool) :=
  (List.range ((n + 63) / 64)).foldl (fun (acc : State × Except Trap (List Byte × List Bool)) k =>
    match acc with
    | (s, .error tr) => (s, .error tr)
    | (s, .ok (bs, fl)) => match s.access cx .carried false (va + BitVec.ofNat 64 (64 * k)) (min 64 (n - 64 * k)) with
      | (s, .error tr) => (s, .error tr)
      | (s, .ok sp) => let q := s.readSpans cx 0 sp; (q.1, .ok (bs ++ q.2, fl ++ s.spanFlags sp))) (s, .ok ([], []))

/-- Bytes written at va with their poison, in pieces of 64 bytes. -/
def State.carriedWrite (s : State) (cx : ACtx) (cov : NMap) (va : Word) (bs : List Byte) (fl : List Bool) : State × NMap × EStat :=
  (List.range ((bs.length + 63) / 64)).foldl (fun (acc : State × NMap × EStat) k =>
    match acc with
    | (s, cov, .run) =>
      let b := (bs.drop (64 * k)).take 64
      match s.access cx .write false (va + BitVec.ofNat 64 (64 * k)) b.length with
      | (s, .error tr) => (s, cov, .fault tr)
      | (s, .ok sp) =>
        let q := (s.writeSpans cx 0 sp b).carryPoison cov sp ((fl.drop (64 * k)).take 64)
        (q.1, q.2, .run)
    | r => r) (s, cov, .run)

/-- A list brought to n entries. -/
def padTo {α : Type} (n : Nat) (d : α) (l : List α) : List α := l ++ List.replicate (n - l.length) d

/-- Row r of an HPREP; the last row of each panel also writes the zeros past the panel's rows (R395). -/
def State.prepRow (t : Nat) (p : PlatenOp) (h : GemvHdr) (s : State) (r : Nat) : State × EStat :=
  let cx := s.ctxOf t
  let ne := if h.bfp then h.cols / h.blk else 0
  match exactAddr ((h.src : Int) + (r : Nat) * h.spitch), exactAddr (h.sexp + r * ne : Nat) with
  | .error tr, _ => (s, .fault tr)
  | _, .error tr => (s, .fault tr)
  | .ok src, .ok ex =>
  let tail := if r % h.rp = h.rp - 1 ∨ r + 1 = h.rows then 4096 - h.rp * h.rb else 0
  let past := h.rowAddr (r / h.rp * h.rp) + BitVec.ofNat 64 (h.rp * h.rb)
  if s.heldBefore t p.id false src h.mantBytes ∨ (ne ≠ 0 ∧ s.heldBefore t p.id false ex ne) ∨
      s.heldBefore t p.id true (h.rowAddr r) h.rb ∨ (tail ≠ 0 ∧ s.heldBefore t p.id true past tail) then (s, .stall)
  else match s.carriedBlock cx ex ne with
    | (s, .error tr) => (s, .fault tr)
    | (s, .ok e) => match s.carriedBlock cx src h.mantBytes with
      | (s, .error tr) => (s, .fault tr)
      | (s, .ok m) =>
        let cov := match (s.th t).platen with | q :: _ => q.cover | [] => []
        let keep := fun (s : State) (cov : NMap) => s.modTh t fun th => th.modHead fun y => { y with cover := cov }
        match s.carriedWrite cx cov (h.rowAddr r) (padTo h.rb 0 (padTo h.eb 0 e.1 ++ m.1)) (padTo h.rb false (padTo h.eb false e.2 ++ m.2)) with
        | (s, cov, .run) =>
          let q := s.carriedWrite cx cov past (List.replicate tail 0) (List.replicate tail false)
          (keep q.1 q.2.1, q.2.2)
        | (s, cov, x) => (keep s cov, x)

/-- One result of an HGEMV: row r of the image against x (R396). -/
def gemvDot (h : GemvHdr) (acc : Nat) (row : Nat) (x xe : Nat) : Nat × Flags :=
  let mant := row / 2 ^ (8 * h.eb)
  if h.bfp then
    let ms := (streamEls mant h.mw h.cols).map (sintOf h.mw)
    let xs := (streamEls x 8 h.cols).map (sintOf 8)
    (List.range (h.cols / h.blk)).foldl (fun (a : Nat × Flags) q =>
      let d := dotInt ((ms.drop (q * h.blk)).take h.blk) ((xs.drop (q * h.blk)).take h.blk)
      let r := scaleInto a.1 d (fld row (8 * q) 8) (fld xe (8 * q) 8)
      (r.1, a.2 ||| r.2)) (acc, 0)
  else
    accFloat false ((h.cols + 31) / 32) acc ((streamEls mant 16 h.cols).map (fdecode (fmtOf .bf16)))
      ((streamEls x 16 h.cols).map (fdecode (fmtOf .bf16)))

/-- n weight bytes read at va by an HGEMV of thread t, counted on the die that owns their stack (08 R214). -/
def State.countWeights (s : State) (t : Nat) (va : Word) (n : Nat) : State :=
  match s.tlbFind (s.ctxOf t) va.toNat with
  | some e => s.quiet (s.ridOf t) (s.countDie (stackOf (e.pa + va.toNat % 2 ^ e.size) / 8) 0x20D n)
  | none => s

/-- Result r of an HGEMV: read from the home slices, its value and its poison in the accumulator tile. -/
def State.gemvRow (t : Nat) (p : PlatenOp) (h : GemvHdr) (s : State) (r : Nat) : State × EStat :=
  let m := s.mbOf t
  let n := if h.bfp then h.cols else h.cols * 2
  let ne := h.cols / h.blk
  let ovw := p.cw.imm.getLsbD 4
  let tile := (tileNo p.cw)
  let i := r / 128
  if s.heldBefore t p.id false (h.rowAddr r) h.rb ∨ s.heldBefore t p.id false (tileVirt p.a.toNat) n ∨
      (h.bfp ∧ s.heldBefore t p.id false (tileVirt p.c.toNat) ne) then (s, .stall)
  else match s.carriedBlock (s.ctxOf t) (h.rowAddr r) h.rb with
    | (s, .error tr) => (s, .fault tr)
    | (s, .ok row) =>
      let bad := row.2.any id || m.tilePois p.a.toNat n || (h.bfp && m.tilePois p.c.toNat ne)
      let v := gemvDot h (if ovw then 0 else NMap.get m.acc (tile * 16384 + r)) (leNat row.1) (m.tileNat p.a.toNat n)
        (if h.bfp then m.tileNat p.c.toNat ne else 0)
      let s := s.modMb (s.th t).member fun mb =>
        let mb := mb.putAcc tile r v.1
        let mb := if ovw ∧ r % 128 = 0 ∧ (i + 1) * 128 ≤ h.rows then mb.markRow tile i false else mb
        if bad then mb.markRow tile i true else mb
      (((s.countWeights t (h.rowAddr r) h.rb).setRunning t 0 v.2, .run))

/-! ### Completion (R382, R383, R397) -/

/-- A fault of the head of thread t's queue: the operation keeps its position, and the fault waits for the word boundary
(03 R77, R389). -/
def State.faultPlaten (s : State) (t : Nat) (p : PlatenOp) (tr : Trap) : State :=
  let f : EngFault := { cmd := p.id, eng := p.eng, chan := 0, eseq := p.eseq, pc := p.pc, cseq := p.cseq, trap := tr }
  let s := s.modTh t fun th => { (th.modHead fun q => { q with fault := some tr }) with engFault := th.engFault ++ [f] }
  if (s.th t).run = .done then s.recordEnded t else s.postOnce .engineFaultReport t

/-- The record of a finished operation p in the life of one of its tiles; NOPS and SKIPGRP stop at 0xFFFF (08 R222, R223;
assumption log 103). -/
def TileLife.after (l : TileLife) (p : PlatenOp) (now : Nat) (zskip wait : Nat) : TileLife :=
  { l with
    nops := min 0xFFFF (l.nops + 1)
    skipgrp := min 0xFFFF (l.skipgrp + if p.op = 0x82 then (p.groups.filter (·.1 == 0)).length else 0)
    zskip := l.zskip + zskip
    opwait := l.opwait + wait
    flags := l.flags ||| (if p.op = 0x88 then 16 else 0)
    cine := if p.op = 0x84 ∧ l.nops = 0 then now else l.cine
    cmps := if p.computes ∧ l.cmpe = 0 then p.issued else l.cmps
    cmpe := if p.computes then now else l.cmpe
    couts := if p.retires then p.startAt else l.couts
    coute := if p.retires then now else l.coute }

/-- The head p of thread t's queue has done its work: its entries are freed, its number completes, its flags and its residual
become visible, the lives of its tiles go on or end, and the next operation may start. -/
def State.platenDone (s : State) (t : Nat) (p : PlatenOp) (zskip : Nat) : State :=
  let m := (s.th t).member
  let now := (s.cycleOf t).toNat
  let h := match (s.th t).platen with | h :: _ => h | [] => p
  let work := Config.freeNat s.tick
  let wait := h.heldFor + Config.freeNat (s.tick + 1)
  let s := { s with tick := s.tick + 2 }
  let s := s.modMb m fun mb => (opTiles p.op p.cw).foldl (fun mb k =>
    { mb with lives := vset mb.lives k ((mb.life k).after p now (if k = (tileNo p.cw) then zskip else 0) wait) }) mb
  let s := if p.retires then
      let l := (s.mb m).life (tileNo p.cw)
      (s.writeColophon t (colophonBytes { l with flags := l.flags ||| (s.mb m).poisonFlag (tileNo p.cw) } (tileNo p.cw) p.pc p.eseq.toNat (s.th t).stint.toNat)).modMb m fun mb =>
        { mb with lives := vset mb.lives (tileNo p.cw) TileLife.reset }
    else s
  let s := (s.freeLocks t p.locks).completeEng t p.eng p.eseq
  let s := s.modTh t fun th => { th with
    platen := th.platen.drop 1
    sys := { th.sys with
      fflags := th.sys.fflags ||| h.flags.setWidth 64
      vcarry := if p.op = 0x86 ∧ p.cw.imm.getLsbD 7 then h.resid else th.sys.vcarry } }
  let s := if p.op = 0x8A then s else (s.count t 0x083 1).count t 0x084 work
  let s := (s.platenPeers t).foldl (fun s u => s.kickPlaten u) s
  (s.kick t).postMemberEnd m

/-- The head of thread t's queue waits for operand data in the tile store (08 R222, OPWAIT). -/
def State.platenHeld (s : State) (t : Nat) : State :=
  s.modTh t fun th => th.modHead fun h => if h.computes then { h with heldAt := h.heldAt.or (some (s.cycleOf t).toNat) } else h

/-- The head of thread t's queue goes on, after the cycles it has waited. -/
def State.platenOn (s : State) (t : Nat) : State :=
  s.modTh t fun th => th.modHead fun h =>
    { h with heldAt := none, heldFor := h.heldFor + (match h.heldAt with | some c => (s.cycleOf t).toNat - c | none => 0) }

/-- The elements of an operation from its position on, and how it ends. -/
def State.platenLoop (s : State) (t : Nat) (p : PlatenOp) (f : State → Nat → State × EStat) (n scale : Nat) : State :=
  let r := engLoop f (List.range' p.pos (n - p.pos)) s
  let pos := p.pos + r.2.1
  let s := r.1.modTh t fun th => th.modHead fun h => { h with pos }
  let s := if p.retires then s.leadEach t (p.locks.zip [pos * scale, pos]) else if p.op = 0x89 then s.leadLocks t p.locks pos else s
  match r.2.2 with
  | .run => s.platenDone t p 0
  | .stall => s.platenHeld t
  | .fault tr => s.faultPlaten t p { tr with elem := pos * scale }

/-- Completion of the operation that runs for thread t. None when none runs; an operation whose operands wait for earlier
engine work, or that faults, stays. -/
def State.platenComplete (s : State) (t : Nat) : Option State :=
  match (s.th t).platen with
  | [] => none
  | p :: _ =>
    let m := (s.th t).member
    if ¬ p.started ∨ p.fault.isSome ∨ s.memberStopped m ∨ (s.tm (s.th t).team).state = .saved then none
    else
      let inputs := (s.th t).interlock
      let mine := p.locks.map fun k => vget inputs k Interlock.reset
      let held := mine.any fun e => s.heldBefore t p.id e.write (BitVec.ofNat 64 e.lo) (e.hi + 1 - e.lo)
      let waits := some (s.platenHeld t)
      let s := s.platenOn t
      let put := fun (r : Member × Flags) (z : Nat) =>
        some (((s.modMb m fun _ => r.1).setRunning t 0 r.2).platenDone t p z)
      match p.op with
      | 0x83 => if held then waits else put ((s.mb m).scacc p) 0
      | 0x84 => some (s.platenLoop t p (State.accldElem t p) 16384 1)
      | 0x85 => some (s.platenLoop t p (State.accstElem t p) 16384 1)
      | 0x86 =>
        if fld p.cw.imm.toNat 4 3 = 3 then
          let len := blkOf (fld p.cw.imm.toNat 12 2)
          some (s.platenLoop t p (State.cvtBlock t p) (16384 / len) len)
        else some (s.platenLoop t p (State.cvtElem t p) 16384 1)
      | 0x87 => put ((s.mb m).acczero (tileNo p.cw), 0) 0
      | 0x88 => match p.hdr with
        | none => none
        | some h => some (s.platenLoop t p (State.gemvRow t p h) h.rows 1)
      | 0x89 => match p.hdr with
        | none => none
        | some h => some (s.platenLoop t p (State.prepRow t p h) h.rows 1)
      | 0x8A =>
        if s.heldBefore t p.id true p.a 8 then waits
        else match s.writeElem (s.ctxOf t) 0 true p.a 8 p.b.toNat [] with
          | (s, _, some tr) => some (s.faultPlaten t p tr)
          | (s, _, none) => some (s.platenDone t p 0)
      | _ => if held then waits else
          let r := (s.mb m).multiply p
          put (r.1, r.2.1) r.2.2

/-! ### The words -/

/-- MMA (R385). -/
def execMma (w : CW) (s : State) : Out := platenExec 0x80 w s
/-- MMAZ (R385). -/
def execMmaz (w : CW) (s : State) : Out := platenExec 0x81 w s
/-- MMAG (R387). -/
def execMmag (w : CW) (s : State) : Out := platenExec 0x82 w s
/-- SCACC (R388). -/
def execScacc (w : CW) (s : State) : Out := platenExec 0x83 w s
/-- ACCLD (R389). -/
def execAccld (w : CW) (s : State) : Out := platenExec 0x84 w s
/-- ACCST (R389). -/
def execAccst (w : CW) (s : State) : Out := platenExec 0x85 w s
/-- ACCCVT (R390). -/
def execAcccvt (w : CW) (s : State) : Out := platenExec 0x86 w s
/-- ACCZERO (R391). -/
def execAcczero (w : CW) (s : State) : Out := platenExec 0x87 w s
/-- HGEMV (R396). -/
def execHgemv (w : CW) (s : State) : Out := platenExec 0x88 w s
/-- HPREP (R395). -/
def execHprep (w : CW) (s : State) : Out := platenExec 0x89 w s
/-- SEQW (R397). -/
def execSeqw (w : CW) (s : State) : Out := platenExec 0x8A w s

/-- SEQWAIT on a word in memory: it watches the word's sector until the word reaches the value (R398). -/
def State.seqwaitMem (s : State) (t : Nat) (va want : Word) : Res :=
  if s.interlocked t false va 8 then .wait s (some .seqwait)
  else match s.access (s.ctxOf t) .monitored true va 8 with
    | (s, .error tr) => .trap (s.dropMonitors 0 t) tr
    | (s, .ok sp) => match sp with
      | [⟨.phys a _, _⟩] =>
        if want.toNat ≤ Mem.readNat s.mem a 8 then .done ((s.recall (s.ridOf t) a).dropMonitors 0 t) none
        else .wait (if s.watching 0 t then s else s.watch 0 t a) (some .seqwait)
      | _ => .trap s boundsTrap

/-- SEQWAIT (R398): it blocks issue, and its end is an acquire. -/
def execSeqwait (w : CW) (s : State) : Out :=
  ctlExec 0x8B w s fun s x =>
    (if w.imm.getLsbD 3 then
      let c := (s.th x.t).engCtr (fld w.imm.toNat 4 4)
      if seqLe (x.b.setWidth 32) c.done then Res.done s none else Res.wait s (some .seqwait)
    else s.seqwaitMem x.t x.a x.b).ceff 0x8B false

end Sys2Proof.Machine
end

