-- ==== Sys2Proof/Machine/EventsCore.lean ====
section
/-! DEFINITION. Events of the clusters: fetch, the lane-group arbiter, commits and deliveries, trap and engine-fault records,
engines, platen, samples and waits (02 R45-R52, 03 R77, 05 R127, 06 R145-R148, R158, 07 R196, 08 R219, 14 R356, R357). An
event that cannot happen in the present state stops with a fault of its own name. -/

namespace Sys2Proof.Machine

/-- An event: what it leaves, when it can happen. -/
def eventExec (s : State) (r : Option State) : Out :=
  if ¬ s.mgmt.powered then .fault .poweredOff
  else match r with
  | some s' => .next s'
  | none => .fault .eventNotPossible

/-! ### Fetch (06 R146) -/

/-- An instruction behind which fetch waits until it has resolved in the strand core. -/
def isBranch : Instr → Bool
  | .beq _ _ _ => true | .bne _ _ _ => true | .blt _ _ _ => true | .bge _ _ _ => true | .bltn _ _ _ => true
  | .bgen _ _ _ => true | .jal _ _ => true | .jalr _ _ _ => true | .eret => true | .done => true
  | _ => false

/-- Whether a conditional branch is taken by the registers as they stand; none for another instruction that changes the PC. -/
def Thread.branches (th : Thread) : Instr → Option Bool
  | .beq a b _ => some (th.rx a == th.rx b)
  | .bne a b _ => some (th.rx a != th.rx b)
  | .blt a b _ => some ((th.rx a).slt (th.rx b))
  | .bge a b _ => some (!(th.rx a).slt (th.rx b))
  | .bltn a b _ => some ((th.rx a).ult (th.rx b))
  | .bgen a b _ => some (!(th.rx a).ult (th.rx b))
  | _ => none

/-- A convoy of the queue behind which fetch goes on: no marked one and no taken branch. A branch is known not to be taken when it
stands at the head with its registers written, or when only convoys that write none of them stand before it (06 R146). -/
def State.fetchPast (s : State) (t : Nat) (before : List Fetched) (f : Fetched) : Bool :=
  f.fault.isNone && f.units.all fun u => !isBranch u.instr ||
    ((s.th t).branches u.instr == some false && (s.pendingRegs t).isEmpty &&
      before.all fun g => g.units.all fun v => match vinfo (sewOf (s.th t).sys.vcfgv) (s.th t).sys.rmode v.instr with
        | some inf => inf.xw.isEmpty | none => isBranch v.instr && (s.th t).branches v.instr == some false)

/-- The strand queue of thread t has room, and holds no convoy behind which fetch waits. -/
def State.canFetch (s : State) (t : Nat) : Bool :=
  let q := (s.th t).queue
  decide (q.length < 16) && q.zipIdx.all fun (f, k) => s.fetchPast t (q.take k) f

/-- CONVOY_FETCH (06 R146). -/
def execConvoyFetch (thr : Nat) (s : State) : Out :=
  eventExec s (if s.runnable thr ∧ (s.th thr).kind ≠ .control ∧ s.canFetch thr then some (s.fetch thr) else none)

/-! ### The lane-group arbiter (06 R148) -/

/-- BROADCAST (06 R148): one cycle of a cluster's arbiter that grants a convoy. -/
def execBroadcast (die cluster : Nat) (s : State) : Out :=
  eventExec s (if (s.strandsOn (cluKey die cluster)).any (s.ready (s.strandsOn (cluKey die cluster))) then
    some (s.arbitrate (cluKey die cluster)) else none)

/-! ### Lanes, slots and trap records (02 R46, R49, R51) -/

/-- LANE_COMMIT (02 R46): the lane executes the convoy at its commit pointer as far as it can. -/
def execLaneCommit (thr lane : Nat) (s : State) : Out :=
  let th := s.th thr
  eventExec s (if s.runnable thr ∧ ¬ th.inh ∧ lane < th.lanes ∧ (Tbl.find lane th.laneFault).isNone ∧
      (th.window.any fun w => w.seq == vget th.cp lane 0) then some (s.laneStep thr lane) else none)

/-- RENDEZVOUS_DELIVERY (02 R51). -/
def execRendezvousDelivery (thr slot : Nat) (s : State) : Out :=
  eventExec s (if slot < 4 ∧ (vget (s.th thr).slots slot Slot.reset).state = .full then
    some (s.deliver thr slot) else none)

/-- TRAP_RECORD (02 R49): the lanes drain, and the oldest faulting convoy is recorded. -/
def execTrapRecord (thr : Nat) (s : State) : Out :=
  eventExec s (if s.runnable thr ∧ (s.th thr).laneFault ≠ [] then some (s.recordFault thr) else none)

/-! ### Engine faults and the resume of a member (03 R77, R89, 02 R50) -/

/-- ENGINE_FAULT (03 R77): a fault that a unit outside the core reports for a command. -/
def execEngineFault (cmd : Nat) (rep : FaultReply) (s : State) : Out :=
  eventExec s (match s.cmd cmd with
    | some c => if c.finished ∨ c.fault.isSome then none
        else some (s.faultCmd c { cause := rep.cause, sub := rep.sub, elem := rep.elem, addr := rep.addr })
    | none => none)

/-- ENGINE_FAULT_REPORT (03 R77): at the thread's convoy boundary; at once when it has ended. -/
def execEngineFaultReport (thr : Nat) (s : State) : Out :=
  eventExec s (if (s.th thr).engFault = [] then none
    else if (s.th thr).run = .done ∧ ¬ s.memberStopped (s.th thr).member then some (s.recordEnded thr)
    else if s.runnable thr then some (if (s.th thr).kind = .control then s.reportCtl thr else s.reportEngine thr) else none)

/-- The engines of member m continue from where recorded faults stopped them. -/
def State.resumeEngines (s : State) (m : Nat) : State :=
  let ts := s.threadsOf m
  let waiting := ts.flatMap fun t => (s.th t).engFault.map (·.cmd)
  let chains := s.cmds.filterMap fun c => match c.body with
    | .chain ch => if ts.contains c.thr ∧ ¬ waiting.contains c.id then some (c.id, ch) else none
    | _ => none
  let s := chains.foldl (fun s (id, ch) => (s.dropCmd id).postOnce .chainRecordRead m ch) s
  let s := { s with cmds := s.cmds.map fun (c : Cmd) => (if ts.contains c.thr && !waiting.contains c.id then { c with fault := none } else c) }
  let clear := fun (p : PlatenOp) => if waiting.contains p.id then p else { p with fault := none }
  let s := ts.foldl (fun s t => s.modTh t fun th => { th with platen := th.platen.map clear }) s
  let s := { s with clusters := s.clusters.map fun (k, c) =>
    (match c.walker.cmd.bind s.cmd with
    | some w => if c.walker.state = .faulted ∧ ts.contains w.thr ∧ w.fault.isNone then
        (k, { c with walker := { c.walker with state := .running } }) else (k, c)
    | none => (k, c)) }
  ts.foldl (fun s t => s.kick t) s

/-- The engine faults that the ended threads of member m have still to record (03 R77). -/
def State.recordMore (s : State) (m : Nat) : State :=
  match (s.threadsOf m).find? fun t => (s.th t).run == .done && !(s.th t).engFault.isEmpty with
  | some t => s.postOnce .engineFaultReport t
  | none => s

/-- A member whose thread stopped by a trap is resumed by a supervisor core of its die: its threads go on, and its engines (01 R24, 02
R50, 03 R77, R89). -/
def State.resumeMember (s : State) (m : Nat) : State :=
  let ts := s.threadsOf m
  let s := ts.foldl (fun s t =>
    if (s.th t).run = .stopped ∨ (s.th t).run = .endedStopped then s.modTh t Thread.resumeStopped else s) s
  let s := s.allDies fun d => { d with stops := d.stops.filter (!ts.contains ·) }
  ((s.resumeEngines m).recordMore m).postMemberEnd m

/-- A supervisor core of the die runs. -/
def State.supervised (s : State) (d : Nat) : Bool :=
  !(s.die d).off && s.threads.any fun th => th.kind == .supervisor && th.member == d && th.run == .running

/-- The die whose supervisor cores serve member m: that on which its thread stopped (01 R24). -/
def State.servedBy (s : State) (m : Nat) : Option Nat :=
  (List.range 4).find? fun d => (s.die d).stops.any fun t => (s.th t).member == m

/-- MEMBER_RESUME (02 R50): by a supervisor core of the die that the stopped thread waits at. -/
def execMemberResume (mem : Nat) (s : State) : Out :=
  eventExec s (if s.memberStopped mem ∧ (s.tm (s.mb mem).team).state ≠ .saved ∧ ((s.servedBy mem).map s.supervised).getD false then
    some (s.resumeMember mem) else none)

/-! ### Engines (05 R127, 06 R158, 16 R411, 07 R202) -/

/-- The registers of strand t that differ from those of state s0, as its save area holds them. -/
def State.writeRegs (s s0 : State) (t : Nat) : State :=
  if (s.th t).kind = .control ∨ (s.tm (s.th t).team).state ≠ .saved then s
  else (List.range 32).foldl (fun s r =>
    if vget (s0.th t).x r 0 = vget (s.th t).x r 0 then s
    else s.physWrite ((s.th t).sys.ctxarea.toNat + 0x200 + 8 * r) (bytesOf 8 (vget (s.th t).x r 0).toNat)) s

/-- An engine of the cluster works for its context only while the team is on its cores (02 R57). -/
def CmdBody.onCluster : CmdBody → Bool
  | .copy _ _ _ _ _ _ => true
  | .walk _ _ _ _ => true
  | .chain _ => true
  | _ => false

/-- The engine of command c goes on with it. An acceptance or a payload that another module reports completes an MSEND. -/
def State.runCmd (s : State) (c : Cmd) : Option State :=
  if c.finished ∨ c.fault.isSome ∨ (c.body.onCluster ∧ (s.tm (s.th c.thr).team).state = .saved) ∨ s.keyHeld c ∨ ¬ s.inProgress c then
    none
  else match c.body with
  | .copy a b n _ _ _ => some (s.runCopy c a b n)
  | .bin rp nr ps cls => some (s.runBin c rp nr ps cls)
  | .stchk _ _ _ _ _ _ _ _ _ => some (s.runStchk c)
  | .stkeep _ _ _ _ _ _ false => some (s.runStkeep c)
  | .stdrop b t m => some (s.runStdrop c b t m)
  | .send _ _ _ _ _ _ _ _ _ 0 0 => some (s.runSend c)
  | .send _ _ dm _ _ _ _ (some _) _ _ 2 =>
    if s.payReads.any (·.cmd == c.id) then some (s.runReads c) else if dm = s.moduleNo then none else some (s.sendDone c)
  | .recv _ _ (some _) false _ => some (s.runRecv c)
  | _ => none

/-- ENGINE_COMPLETION (05 R127): the engine carries its command on to the end, to an element that must wait, or to a
fault. -/
def execEngineCompletion (cmd : Nat) (s : State) : Out :=
  eventExec s (match s.cmd cmd with
    | some c => (s.runCmd c).map fun s' => s'.writeRegs s c.thr
    | none => none)

/-- CHAIN_RECORD_READ (06 R158). -/
def execChainRecordRead (mem chan : Nat) (s : State) : Out :=
  eventExec s (if (s.tm (s.mb mem).team).state = .saved ∨ (s.mb mem).nchan ≤ chan then none else s.chainRead mem chan)

/-- WALKER_BUFFER_OPEN (16 R411). -/
def execWalkerBufferOpen (die cluster : Nat) (s : State) : Out := eventExec s (s.openBuffer (cluKey die cluster))

/-- The STKEEPs of a die that wait for space. -/
def State.waitingKeeps (s : State) (die : Nat) : List Cmd :=
  s.cmds.filter fun c => match c.body with
    | .stkeep _ _ _ _ _ _ w => w && (s.region (s.ridOf c.thr)).home == die && c.fault.isNone
    | _ => false

/-- STKEEP_SPACE_FREE (07 R202): the STKEEPs of the die that wait for space try again, oldest first. -/
def execStkeepSpaceFree (die : Nat) (s : State) : Out :=
  eventExec s (match s.waitingKeeps die with
    | [] => none
    | l => some (l.foldl (fun s c => if s.keyHeld c then s else s.runStkeep c) s))

/-- PLATEN_OP_START (15 R383). -/
def execPlatenOpStart (thr : Nat) (s : State) : Out := 
  eventExec s (if (s.tm (s.th thr).team).halted then none else s.platenStart thr)

/-- PLATEN_OP_COMPLETE (15 R382). -/
def execPlatenOpComplete (thr : Nat) (s : State) : Out := eventExec s (s.platenComplete thr)

/-- RESULT_DELIVERY (15 R375). -/
def execResultDelivery (thr seq : Nat) (s : State) : Out :=
  eventExec s (if (s.th thr).kind = .control ∧ (s.th thr).active then
    ((s.th thr).deliverV (BitVec.ofNat 32 seq)).map fun th => s.modTh thr fun _ => th else none)

/-! ### Samples (08 R218, R219) -/

/-- SAMPLE_RECORD (08 R219): the countdown stands at 0; the record names the newest convoy or word. -/
def execSampleRecord (thr : Nat) (s : State) : Out :=
  let th := s.th thr
  eventExec s (if th.active ∧ th.sys.sampOn ∧ th.countdown = 0 then
    some (s.sampleRecord thr (th.sys.cseq.setWidth 32 - 1) th.pc) else none)

/-- SAMPTAIL_WRITE (08 R218): the consumer moves the consumed offset. -/
def execSamptailWrite (thr : Nat) (val : Word) (s : State) : Out :=
  eventExec s (if ¬ s.runnable thr ∨ (s.th thr).kind = .supervisor then none
    else match s.csrWrite thr 0x064 val with
    | (s, none) => some s
    | (s, some tr) =>
      some (s.stopAt thr fun s =>
        s.takeTrap thr tr (siteAt (s.th thr).pc ((s.th thr).sys.cseq.setWidth 32) (s.th thr).pc)))

/-! ### Waits (07 R196, 14 R356, R357) -/

/-- MONITOR_WAKE (07 R196): entry `index` of a home slice ends for a reason. -/
def execMonitorWake (die slice index : Nat) (reason : WakeReason) (s : State) : Out :=
  let here := (s.die die).monitors.filter fun m => s.homeOf (m.sector * 64) == some (die, slice)
  eventExec s (match here[index]? with
    | some m => some ((s.modDie die fun d => { d with monitors := d.monitors.erase m }).endMonitor m reason)
    | none => none)

/-- The MWAIT that thread t waits in has run out of time: a strand's at the head of its queue (14 R356). -/
def State.mwaitOver (s : State) (t : Nat) : Bool :=
  let th := s.th t
  match th.run with
  | .blocked (.mwait _) => (match th.head.units with
    | { instr := .mwait _ _ _ _ _ timeout, .. } :: _ => timeout != 0 && decide (timeout.toNat ≤ (s.cycleOf t).toNat - th.waitStart)
    | _ => false)
  | _ => false

/-- The words of control thread t whose MWAIT has run out of time. -/
def State.mwaitsOver (s : State) (t : Nat) : List Inflight :=
  (s.th t).inflight.filter fun i => i.op == 0x67 && i.due.isNone && i.wait.isSome && i.srcs.getD 2 0 != 0 &&
    decide ((i.srcs.getD 2 0).toNat ≤ (s.cycleOf t).toNat - i.issued)

/-- MWAIT_TIMEOUT (14 R356): the waiter cancels its entry; the first reason it received counts. -/
def execMwaitTimeout (thr : Nat) (s : State) : Out :=
  eventExec s (if s.mwaitOver thr then
      some ((s.dropMonitors 0 thr).modTh thr fun th => { th with wake := th.wake.or (some .timeout) })
    else match s.mwaitsOver thr with
      | [] => none
      | l => some (l.foldl (fun s i => (s.dropMonitors 0 (tagOwner thr i.tag)).modFlight thr i fun j =>
          { j with reason := j.reason.or (some .timeout) }) s))

/-- The VWAIT in which thread t is blocked, and the elements it waits for: what its operands read as. -/
def State.vwaitRun (s : State) (t : Nat) (late : Bool) : Option State :=
  let th := s.th t
  let f := th.head
  if th.run ≠ .blocked .vwait ∨ ¬ s.runnable t then none
  else match f.units with
  | { instr := .vwait e _ zeroCond trapTo xd vq xa vb timeout, .. } :: _ =>
    let c := th.capture
    let is := (List.range c.vl).filter (isActive (s.vr t) c.lanes e.mask)
    if late ∧ (timeout = 0 ∨ (s.cycleOf t).toNat - th.waitStart < timeout.toNat) then none
    else match (if late then s.modTh t fun th => { th with vwaitOver := true } else s).vwaitRead t c zeroCond xa vb is with
      | (s, held, []) => some (if late ∧ ¬ held then s.vwaitEnd t f c is trapTo xd vq else s)
      | (s, _, fs) => some (s.vwaitFault t f fs)
  | _ => none

/-- VWAIT_POLL (14 R357): the lanes read their unsatisfied elements again. -/
def execVwaitPoll (thr : Nat) (s : State) : Out := eventExec s (s.vwaitRun thr false)

/-- VWAIT_TIMEOUT (14 R357): the unsatisfied elements are read once more, and the results are written. -/
def execVwaitTimeout (thr : Nat) (s : State) : Out := eventExec s (s.vwaitRun thr true)

end Sys2Proof.Machine
end

