-- ==== Sys2Proof/Machine/EventsSched.lean ====
section
/-! DEFINITION. The region scheduler: launch tokens and kernel descriptors (02 R34-R40, 06 R149-R153), placement, reserving and
victims (06 R166-R170), and the start of a team (02 R38). -/

namespace Sys2Proof.Machine

/-! ### Completion records and host signals (06 R153, 17 R430) -/

/-- Accesses of the scheduler for the contexts of region rid. -/
def State.regionCtx (s : State) (rid : Nat) : ACtx :=
  { rid, die := (s.region rid).home % 4, team := 0, mb := none, sup := false, lane := none, nt := false }

/-- The function bound to the subtree of region rid: 0 for the physical function. -/
def State.functionOf (s : State) (rid : Nat) : Nat :=
  match s.mgmt.vfbind.find? fun (_, w) => getBit w 31 && (s.chain rid).contains (getField w 0 16) with
  | some (n, _) => n
  | none => 0

/-- A completion record: CODE and TAG, then the MSI-X vector. A record whose store fails a check is not written. -/
def State.completionRecord (s : State) (rid : Nat) (k : Token) (code : Nat) : State :=
  if k.donerec = 0 ∨ k.donerec.toNat % 16 ≠ 0 then s
  else match s.writeBlock (s.regionCtx rid) k.donerec (bytesOf 8 code ++ bytesOf 8 k.tag.toNat) with
    | (s, some _) => s
    | (s, none) => { s with mgmt := { s.mgmt with msix := s.mgmt.msix ++ [(s.functionOf rid, rid % 64)] } }

/-! ### The kernel descriptor (02 R39, R40) -/

/-- The 128 bytes of a descriptor. -/
def parseKDesc (bs : List Byte) : KDesc :=
  let fl := leAt bs 2 2
  { full := !bitAt fl 0, fusel1 := bitAt fl 1, place := fld fl 2 2, size := leAt bs 4 2, nstrand := leAt bs 6 1,
    tilesz := leAt bs 7 1, centry := BitVec.ofNat 64 (leAt bs 8 8),
    sentry := (List.range 4).map fun k => BitVec.ofNat 64 (leAt bs (0x10 + 8 * k) 8),
    bind := (List.range 4).map fun k => leAt bs (0x30 + 2 * k) 2, vdef := leAt bs 0x38 1, slip := leAt bs 0x39 1,
    stackSize := leAt bs 0x3C 4, stackBase := BitVec.ofNat 64 (leAt bs 0x40 8), pinlist := BitVec.ofNat 64 (leAt bs 0x48 8) }

/-- Half-cluster slots of one member. -/
def KDesc.slots (k : KDesc) : Nat := if k.full then 2 else 1

/-- Code 0x01: the version, the must-be-zero bits and the stack's alignment. -/
def kdescForm (bs : List Byte) (k : KDesc) : Bool :=
  leAt bs 0 2 == 1 && k.place != 3 && fld (leAt bs 2 2) 4 12 == 0 && zerosAt bs 0x3A 2 && zerosAt bs 0x50 48 &&
  (List.range 4).all (fun j => fld (k.bind.getD j 0) 5 3 == 0 &&
    (decide (j < k.nstrand) || (k.bind.getD j 0 == 0 && k.sentry.getD j 0 == 0))) &&
  fld k.vdef 5 3 == 0 && (k.place == 2 || k.pinlist == 0) && k.stackSize % 16 == 0 && k.stackBase.toNat % 16 == 0

/-- Code 0x04: the lane-group binding. -/
def KDesc.bindOk (k : KDesc) : Bool :=
  let used := k.bind.take k.nstrand
  used.all (fun b => fld b 0 4 != 0 && (k.full || decide (fld b 0 4 < 4))) &&
  (List.range 4).all fun g =>
    let on := used.filter fun b => bitAt b g
    decide (on.length ≤ 2) && (decide (on.length < 2) || on.all fun b => bitAt b 4)

/-- The cluster that stands for cluster k of the table: the spare that replaced a retired one (18 R446). -/
def State.standIn (s : State) : Nat → Nat → Nat
  | 0, k => k
  | n + 1, k => match (s.clu k).redirect with | some j => State.standIn s n j | none => k

/-- An entry of a pin list: die, cluster and half. -/
def State.pinOf (s : State) (w : Nat) : Nat × Nat × Nat :=
  let k := s.standIn 4 (cluKey (fld w 8 2) (fld w 0 7))
  (k / 128, k % 128, fld w 15 1)

/-- Code 0x08: every entry of a pin list names an enabled cluster, once. -/
def State.pinsOk (s : State) (full : Bool) (ws : List Nat) : Bool :=
  ws.all (fun w => fld w 7 1 == 0 && fld w 10 5 == 0 && (!full || fld w 15 1 == 0) &&
    (s.clu (s.standIn 4 (cluKey (fld w 8 2) (fld w 0 7)))).enabled) &&
  ws.zipIdx.all fun (w, i) => (ws.findIdx (· == w)) == i

/-- Code 0x09: an entry is aligned, nonzero and mapped executable. -/
def State.entryOk (s : State) (rid align : Nat) (va : Word) : State × Bool :=
  if va = 0 ∨ va.toNat % align ≠ 0 then (s, false)
  else match s.access (s.regionCtx rid) .fetch false va align with
    | (s, .ok _) => (s, true)
    | (s, .error tr) => (s, tr.cause == 0x08)

/-- Every entry of a descriptor. -/
def State.entriesOk (s : State) (rid : Nat) (k : KDesc) : State × Bool :=
  (k.sentry.take k.nstrand).foldl (fun (acc : State × Bool) va =>
    if acc.2 then acc.1.entryOk rid 4 va else acc) (s.entryOk rid 8 k.centry)

/-- The largest team the budgets of a region and its ancestors can ever hold, in half slots. -/
def State.slotBudget (s : State) (rid : Nat) : Nat := ((s.chain rid).map fun r => (s.region r).slots).foldl min 512

/-- The pin list of a descriptor, read in the launching context. -/
def State.readPins (s : State) (rid : Nat) (k : KDesc) : State × Option (List Nat) :=
  if k.place ≠ 2 then (s, some [])
  else match s.readBlock (s.regionCtx rid) k.pinlist (2 * k.size) with
    | (s, .ok bs) => (s, some ((List.range k.size).map fun j => leAt bs (2 * j) 2))
    | (s, .error _) => (s, none)

/-- The checks of R40 on a descriptor, in order: the descriptor with its pin list, or the first code that holds. -/
def State.checkDesc (s : State) (rid : Nat) (va : Word) : State × Except Nat (KDesc × List Nat) :=
  let r := s.region rid
  if va.toNat % 128 ≠ 0 then (s, .error 1)
  else match s.readBlock (s.regionCtx rid) va 128 with
  | (s, .error _) => (s, .error 1)
  | (s, .ok bs) =>
    let k := parseKDesc bs
    if ¬ kdescForm bs k then (s, .error 1)
    else if k.size = 0 ∨ 256 < k.size ∨ s.slotBudget rid < k.size * k.slots then (s, .error 2)
    else if k.nstrand = 0 ∨ (if k.full then 4 else 2) < k.nstrand then (s, .error 3)
    else if ¬ k.bindOk then (s, .error 4)
    else if (k.bind.take k.nstrand).any fun b => fld b 8 8 == 0 || decide (r.maxw < fld b 8 8) then (s, .error 5)
    else if 6 ≤ fld k.vdef 2 3 ∨ 48 < k.slip then (s, .error 6)
    else if (if k.full then 16 else 8) < k.tilesz then (s, .error 7)
    else if k.place ≠ 0 ∧ fld r.placeok 0 2 < k.place then (s, .error 8)
    else match s.readPins rid k with
      | (s, none) => (s, .error 8)
      | (s, some ws) =>
        if ¬ s.pinsOk k.full ws then (s, .error 8)
        else match s.entriesOk rid k with
          | (s, false) => (s, .error 9)
          | (s, true) => (s, .ok (k, ws))

/-- The checks of R152 step 1 on a token: the token, its descriptor, then its dependence. -/
def State.checkToken (s : State) (rid : Nat) (k : Token) : State × Except Nat (KDesc × List Nat) :=
  if k.malformed then (s, .error 0x0A)
  else match s.checkDesc rid k.desc with
    | (s, .error c) => (s, .error c)
    | (s, .ok x) => match k.depk with
      | 1 => match s.tokQ (s.regionCtx rid) k.depobj with
        | (s, .error _) => (s, .error 0x0B)
        | (s, .ok _) => (s, .ok x)
      | 2 => match Tbl.find k.depobj.toNat (s.die (s.region rid).home).wmarks with
        | some e => if e.rid = rid then (s, .ok x) else (s, .error 0x0B)
        | none => (s, .error 0x0B)
      | _ => (s, .ok x)

/-! ### Queues (06 R149-R152) -/

/-- The host rings of the regions homed on die d that hold tokens are read again: an entry of the die has fallen free (06 R149). -/
def State.rereadRings (s : State) (d : Nat) : State :=
  s.lqueues.foldl (fun s (r, q) => if q.head = q.tail ∨ (s.region r).home ≠ d then s else s.postOnce .hostRingRead r) s

/-- The head token leaves the queue of region rid: the next one is looked at, and the host rings of the die are read again. -/
def State.popToken (s : State) (rid : Nat) : State :=
  let s := s.modLq rid fun q => { q with tokens := q.tokens.drop 1, desc := none, depMet := false, reserving := false }
  (if (s.lqueue rid).tokens = [] then s else s.postOnce .launchQueueHead rid).rereadRings (s.region rid).home

/-- The slots held for the launches of region rid are given back. -/
def State.unhold (s : State) (rid : Nat) : State :=
  { s with clusters := s.clusters.map fun (k, c) => (k, { c with held := c.held.filter fun h => h.2 != rid }) }

/-- The head launch of region rid is refused with a code (06 R152, R153). -/
def State.refuse (s : State) (rid : Nat) (code : Nat) : State :=
  match (s.lqueue rid).tokens with
  | [] => s
  | k :: _ => ((s.completionRecord rid k code).popToken rid).unhold rid

/-- The dependence of the head token k of region rid: met, or waited for (06 R152 step 2). -/
def State.dependence (s : State) (rid : Nat) (k : Token) : State :=
  let met := fun (s : State) => s.modLq rid fun q => { q with depMet := true }
  match k.depk with
  | 1 => match s.tokTake (s.regionCtx rid) (fun _ => false) k.depobj with
    | (s, .val _) => met (s.dropMonitors 3 rid)
    | (s, .held) => s
    | (s, .empty a) =>
      if s.watching 3 rid then s
      else (s.recall rid a).placeMonitor
        { kind := 3, die := (s.region rid).home, cluster := 0, half := 0, thr := 0, hwctx := 0, age := 0, sector := a / 64, owner := rid }
    | (s, .trap _) => s.refuse rid 0x0B
  | 2 => match Tbl.find k.depobj.toNat (s.die (s.region rid).home).wmarks with
    | some e => if e.rid = rid ∧ k.depcnt.toNat ≤ e.count then met s else s
    | none => s
  | _ => met s

/-- LAUNCH_QUEUE_HEAD (06 R152): the head token is checked once, then waits for its dependence. -/
def execLaunchQueueHead (rid : Nat) (s : State) : Out :=
  eventExec s (match (s.lqueue rid).tokens with
    | [] => none
    | k :: _ =>
      if (s.lqueue rid).depMet then none
      else if (s.lqueue rid).desc.isSome then some (s.dependence rid k)
      else match s.checkToken rid k with
        | (s, .error c) => some (s.refuse rid c)
        | (s, .ok x) => some ((s.modLq rid fun q => { q with desc := some x }).dependence rid k))

/-- LAUNCH_DOORBELL (06 R149, R150, 17 R430); none in recovery (01 R31). -/
def execLaunchDoorbell (fn : HostFn) (rid tail : Nat) (s : State) : Out :=
  eventExec s (if s.mgmt.recovery then none else some (s.ringDoorbell fn rid tail))

/-- Tokens of the host ring, in order, while the queue has room; n bounds how many. -/
def State.readRing (rid : Nat) : Nat → State → State
  | 0, s => s
  | n + 1, s =>
    let q := s.lqueue rid
    if q.head = q.tail ∨ ¬ s.lqRoom rid then s
    else
      let a := (s.region rid).hring + q.head % 2 ^ (s.region rid).hrlog * 64
      let k := parseToken (Mem.read s.mem a 64)
      State.readRing rid n ((s.modLq rid fun q => { q with head := (q.head + 1) % 65536 }).appendToken rid k)

/-- HOST_RING_READ (06 R149, R150). -/
def execHostRingRead (rid : Nat) (s : State) : Out :=
  let q := s.lqueue rid
  eventExec s (if (Tbl.find rid s.lqueues).isNone ∨ q.head = q.tail ∨ ¬ s.lqRoom rid then none else some (s.readRing rid 65536))

/-! ### Slots and placement (06 R167) -/

/-- The half slots a member holds, as a mask. -/
def Member.mask (m : Member) : Nat := if m.full then 3 else 2 ^ (m.half % 2)

/-- Two half-slot masks overlap. -/
def overlap (a b : Nat) : Bool := (bitAt a 0 && bitAt b 0) || (bitAt a 1 && bitAt b 1)

/-- Die and cluster of the target of a service action (17 R432). -/
def svcCluster (target : Word) : Nat := cluKey (getField target 8 2) (getField target 0 7)

/-- Lane sparing or the retirement of cluster k is in progress (18 R445). -/
def State.inService (s : State) (k : Nat) : Bool :=
  s.mgmt.svc.any fun r => r.state == 1 && (r.action == 1 || r.action == 2) && svcCluster r.target == k

/-- Half h of a cluster is free for a launch of region rid, the teams `gone` away. -/
def State.slotFree (s : State) (gone : List Nat) (rid d c h : Nat) : Bool :=
  let x := s.clu (cluKey d c)
  x.enabled && !x.retired && !(s.die d).off && !s.inService (cluKey d c) &&
  !(s.members.any fun m => m.placed && m.die == d && m.cluster == c && bitAt m.mask h && !gone.contains m.team) &&
  x.held.all fun (k, r) => k != h || r == rid || decide ((s.region r).prio < (s.region rid).prio)

/-- The free slots of a die for members of a kind, in ascending order: die, cluster, half. -/
def State.dieSlots (s : State) (gone : List Nat) (rid : Nat) (full : Bool) (d : Nat) : List (Nat × Nat × Nat) :=
  (List.range 68).flatMap fun c =>
    if full then (if s.slotFree gone rid d c 0 ∧ s.slotFree gone rid d c 1 then [(d, c, 0)] else [])
    else (([0, 1].filter (s.slotFree gone rid d c ·)).map fun h => (d, c, h))

/-- The dies from a home die on, in ring order D0-D1-D3-D2. -/
def dieOrder (home : Nat) : List Nat :=
  match home with
  | 0 => [0, 1, 3, 2]
  | 1 => [1, 3, 2, 0]
  | 3 => [3, 2, 0, 1]
  | _ => [2, 0, 1, 3]

/-- Half slots the placed teams of region r hold, the teams `gone` away. -/
def State.slotsUsed (s : State) (gone : List Nat) (r : Nat) : Nat :=
  (s.members.map fun m => if m.placed ∧ ¬ gone.contains m.team ∧ (s.tm m.team).rid = r then (if m.full then 2 else 1) else 0).sum

/-- place(x): the slots of a team of n members, in the order of its members (06 R167, 07 R178). -/
def State.place (s : State) (gone : List Nat) (rid : Nat) (full : Bool) (n pl : Nat) (pins : List Nat) : Option (List (Nat × Nat × Nat)) :=
  if ¬ s.fits rid (·.slots) (s.slotsUsed gone) (n * if full then 2 else 1) then none
  else
    let order := dieOrder (s.region rid).home
    match pl with
    | 0 => let l := order.flatMap (s.dieSlots gone rid full)
      if n ≤ l.length then some (l.take n) else none
    | 1 => (order.findSome? fun d => let l := s.dieSlots gone rid full d; if n ≤ l.length then some (l.take n) else none)
    | _ => let l := pins.map s.pinOf
      if l.all fun (d, c, h) => s.slotFree gone rid d c h && (!full || s.slotFree gone rid d c 1) then some l else none

/-- A slot's cluster still clears space that a member with a mask would take (06 R172). -/
def State.stillClearing (s : State) (d c mask : Nat) : Bool := (s.clu (cluKey d c)).clearing.any fun e => overlap e.2 mask

/-! ### The start of a team (02 R37, R38) -/

/-- PHYSCLU of a member (03 R87). -/
def physclu (m : Member) : Word := BitVec.ofNat 64 (m.die % 4 * 256 + m.cluster % 128 + (if m.full then 0 else m.half % 2 * 2 ^ 15))

/-- The page at which the scheduler places a save area of n bytes for region rid: free, and for a confidential region among the
pages marked to it, where it has as many together (06 R171, 17 R436; assumption log 53). -/
def State.areaPage (s : State) (rid n : Nat) : Nat :=
  let free := Config.saveArea s.tick % 2 ^ 28
  if ¬ (s.region rid).conf then free
  else
    let mine := s.mgmt.cpmap.filterMap fun (p, r) =>
      if r = rid + 1 ∧ (List.range ((n + 4095) / 4096)).all (fun j => NMap.get s.mgmt.cpmap (p + j) == rid + 1) then some p else none
    mine.getD (free % max 1 mine.length) free

/-- The system registers common to the threads of member m of team k, with a save area of n bytes. -/
def State.startSys (s : State) (k : Nat) (m : Member) (ctl : Bool) (n : Nat) : SysRegs :=
  { SysRegs.reset with
    status := BitVec.ofNat 64 (bitOf ctl + bitOf (!m.full) * 32 + bitOf (s.region (s.tm k).rid).conf * 128)
    teamidx := BitVec.ofNat 64 m.idx
    teamsize := BitVec.ofNat 64 (s.tm k).size
    ctxid := BitVec.ofNat 64 (Config.ctxId s.tick % 2 ^ 32)
    ctxarea := BitVec.ofNat 64 (s.areaPage (s.tm k).rid n * 4096)
    physclu := physclu m }

/-- LANESHARE of a bind entry (03 R72). -/
def laneshareOf (b : Nat) : Word :=
  let l := ((List.range 4).filter fun g => bitAt b g).length * 8
  BitVec.ofNat 64 (fld b 0 5 + l * 256 + fld b 8 8 * 65536)

/-- Strand j of member m (02 R38). -/
def State.startStrand (s : State) (k m j : Nat) (d : KDesc) (args : Word) : State :=
  let mb := s.mb m
  let b := d.bind.getD j 0
  let ls := laneshareOf b
  let n := nregsOf (BitVec.ofNat 64 d.vdef)
  let sys := { s.startSys k mb false (0x3000 + getField ls 8 6 * partBytes ls) with
    strandidx := BitVec.ofNat 64 j
    slip := BitVec.ofNat 64 d.slip
    laneshare := ls
    vcfgv := BitVec.ofNat 64 (mvlOf (getField ls 8 6) (partBytes ls) n (sewOf (BitVec.ofNat 64 d.vdef)) * 2 ^ 32 + d.vdef) }
  let th := Thread.create .strand k m j (d.sentry.getD j 0) sys
  let sp := if d.stackSize = 0 then 0 else d.stackBase + BitVec.ofNat 64 ((mb.idx * 4 + j + 1) * d.stackSize)
  let th := { th with x := (th.x.set 3 args).set 2 sp }
  let t := s.threads.length
  State.modMb { s with threads := s.threads ++ [th], tick := s.tick + 1 } m fun mb => { mb with ctxs := mb.ctxs ++ [t] }

/-- The control thread of member m (02 R38). -/
def State.startControl (s : State) (k m : Nat) (d : KDesc) (args : Word) : State :=
  let mb := s.mb m
  let sys := { s.startSys k mb true 0x880 with strandidx := BitVec.allOnes 64 }
  let th := { Thread.create .control k m 7 d.centry sys with hwctx := if mb.full then 0 else mb.half % 2 }
  let th := { th with x := th.x.set 3 args }
  let t := s.threads.length
  State.modMb { s with threads := s.threads ++ [th], tick := s.tick + 1 } m fun mb => { mb with ctxs := mb.ctxs ++ [t] }

/-- Member number i of team k on its slot, with its threads. -/
def State.startMember (s : State) (k i : Nat) (d : KDesc) (args : Word) (slot : Nat × Nat × Nat) : State :=
  let m := s.members.length
  let mb := { Member.create k i d.full d.fusel1 d.tilesz slot.1 slot.2.1 slot.2.2 with
    saveBase := s.areaPage (s.tm k).rid (0x1000 + d.tilesz * 0x40000 + (if d.full then 0x100000 else 0x80000)) * 4096 }
  let mb := { mb with waitClear := s.stillClearing slot.1 slot.2.1 mb.mask }
  let s := { s with members := s.members ++ [mb], tick := s.tick + 1 }
  let s := s.modTm k fun tm => { tm with members := tm.members ++ [m] }
  let s := (List.range d.nstrand).foldl (fun s j => s.startStrand k m j d args) s
  s.startControl k m d args

/-- start(x): the team of the head token of region rid on its slots; the token leaves the queue (06 R152 step 4). -/
def State.startTeam (s : State) (rid : Nat) (tok : Token) (d : KDesc) (pins : List Nat) (slots : List (Nat × Nat × Nat)) : State :=
  let k := s.teams.length
  let tm : Team := { Team.absent with
    state := .running, token := tok, rid, size := slots.length, place := d.place, pins }
  let s := { s with teams := s.teams ++ [tm] }
  let s := slots.zipIdx.foldl (fun s (slot, i) => s.startMember k i d tok.args slot) s
  (s.popToken rid).unhold rid

/-! ### Victims and reserving (06 R168, R169) -/

/-- The sublists of k entries, those that keep earlier entries first. -/
def sublistsOf : Nat → List Nat → List (List Nat)
  | 0, _ => [[]]
  | _ + 1, [] => []
  | k + 1, x :: xs => (sublistsOf k xs).map (x :: ·) ++ sublistsOf (k + 1) xs

/-- A team whose pre-emption x of region rid may ask for. -/
def State.qualifies (s : State) (rid k : Nat) : Bool :=
  let tm := s.tm k
  let p := (s.region tm.rid).prio
  let q := (s.region rid).prio
  (match tm.state with | .running => true | .preempting _ => true | _ => false) &&
  (decide (p < q) || (p == q && decide ((s.region tm.rid).slice ≤ tm.ran) && decide (14000 ≤ tm.ran) &&
    decide ((s.lqueue rid).account < (s.lqueue tm.rid).account)))

/-- Team a is preferred to team b as a victim: lower priority, then higher account, then more recent start, that is the
later team number (assumption log 104). -/
def State.victimBefore (s : State) (a b : Nat) : Bool :=
  let p := fun k => (s.region (s.tm k).rid).prio
  let c := fun k => (s.lqueue (s.tm k).rid).account
  decide (p a < p b) || (p a == p b && (decide (c b < c a) || (c a == c b && decide (b < a))))

/-- victims(x): the fewest teams that free enough slots, the most preferred such set. -/
def State.victims (s : State) (rid : Nat) (d : KDesc) (pins : List Nat) : Option (List Nat) :=
  let l := sortBy s.victimBefore ((List.range s.teams.length).filter (s.qualifies rid))
  (List.range (l.length + 1)).findSome? fun n =>
    (sublistsOf n l).find? fun v => (s.place v rid d.full d.size d.place pins).isSome

/-- A pre-emption request to team k: one that is being saved is unchanged (06 R170). -/
def State.requestPreempt (s : State) (k : Nat) : State :=
  match (s.tm k).state with
  | .running =>
    let d := (s.mb ((s.tm k).members.headD 0)).die
    (s.modTm k fun tm => { tm with state := .preempting false, reqAt := (s.die d).sched }).postOnce .safePointSave k
  | _ => s

/-- The regions of the module with a reserving launch, oldest enqueue first. -/
def State.reservers (s : State) : List Nat :=
  let at' := fun r => ((s.lqueue r).tokens.headD Token.zero).num
  sortBy (fun a b => decide (at' a < at' b)) ((s.lqueues.filter fun q => q.2.reserving).map (·.1))

/-- The slots for members of a kind that die d has in service, taken or not. -/
def State.serviceSlots (s : State) (full : Bool) (d : Nat) : Nat :=
  if (s.die d).off then 0
  else ((List.range 68).filter fun c => (s.clu (cluKey d c)).enabled && !(s.clu (cluKey d c)).retired).length * if full then 1 else 2

/-- The head launch of region rid can use die d: its home die, or a die that its placement allows (06 R167, R168). -/
def State.canUse (s : State) (rid d : Nat) : Bool :=
  (s.region rid).home == d || match (s.lqueue rid).desc with
    | none => false
    | some (k, pins) => match k.place with
      | 0 => true
      | 1 => decide (k.size ≤ s.serviceSlots k.full d)
      | _ => (pins.map s.pinOf).any (·.1 == d)

/-- The half slots of a mask on a cluster have fallen free: the oldest reserving launch that can use the die holds them (06 R168). -/
def State.slotFreed (s : State) (d c mask : Nat) : State :=
  match s.reservers.find? (s.canUse · d) with
  | none => s
  | some r => s.modClu (cluKey d c) fun x => { x with
      held := x.held ++ (([0, 1].filter fun h => bitAt mask h && !(x.held.any fun e => e.1 == h)).map fun h => (h, r)) }

/-! ### The pass (06 R166) -/

/-- The accounts after the teams of regions homed on die d have run. -/
def State.chargeTeams (s : State) (d : Nat) : State :=
  (List.range s.teams.length).foldl (fun s k =>
    let tm := s.tm k
    if tm.sincePass = 0 ∨ (s.region tm.rid).home ≠ d then s
    else
      let n := (tm.members.map fun m => if (s.mb m).full then 2 else 1).sum
      (s.modLq tm.rid fun q => { q with account := q.account + n * tm.sincePass * 1024 / max 1 (s.region tm.rid).share }).modTm k
        fun tm => { tm with sincePass := 0 }) s

/-- A placed team of region r runs. -/
def State.regionRuns (s : State) (r : Nat) : Bool :=
  s.teams.any fun tm => tm.rid == r && (match tm.state with | .running => true | .preempting _ => true | _ => false)

/-- The candidates of priority p on die d, in order. -/
def State.candidates (s : State) (d p : Nat) : List Nat :=
  let l := (s.lqueues.filter fun (r, q) =>
    q.depMet && q.tokens != [] && (s.region r).leaf && (s.region r).home == d && (s.region r).prio == p).map (·.1)
  let enq := fun r => ((s.lqueue r).tokens.headD Token.zero).num
  sortBy (fun a b =>
    let qa := s.lqueue a
    let qb := s.lqueue b
    (qa.reserving && !qb.reserving) ||
    (qa.reserving == qb.reserving && ((qa.reserving && decide (enq a < enq b)) ||
      ((!qa.reserving || enq a == enq b) && (decide (qa.account < qb.account) || (qa.account == qb.account && decide (a < b))))))) l

/-- A region that has become runnable since it last ran starts from the least account of the running regions of its
priority. -/
def State.becomeRunnable (s : State) (d r : Nat) : State :=
  if (s.lqueue r).runnable then s
  else
    let peers := (s.lqueues.filter fun (k, _) => k != r && (s.region k).home == d && (s.region k).prio == (s.region r).prio && s.regionRuns k)
    let least := match peers with | [] => 0 | (_, q) :: rest => rest.foldl (fun m e => min m e.2.account) q.account
    s.modLq r fun q => { q with account := max q.account least, runnable := true }

/-- The key slot of a confidential region is filled (17 R435). -/
def State.keyed (s : State) (rid : Nat) : Bool :=
  !(s.region rid).conf || (Tbl.find (s.region rid).keyidx s.mgmt.keys).isSome

/-- One candidate, whose descriptor the scheduler has checked: placed and started, or reserving, or victims asked for. WAITTHR counts
from the enqueue of its token (assumption log 105). No new team is placed during a thermal stop (18 R442). -/
def State.tryLaunch (s : State) (d rid : Nat) : State :=
  let s := s.becomeRunnable d rid
  match (s.lqueue rid).tokens with
  | [] => s
  | tok :: _ =>
    if s.mgmt.thermalStop ∨ ¬ s.keyed rid then s
    else match (s.lqueue rid).desc with
    | none => s
    | some (k, pins) => match s.place [] rid k.full k.size k.place pins with
      | some slots => s.startTeam rid tok k pins slots
      | none =>
        if (s.region rid).waitthr ≤ (s.die d).sched - tok.enq then s.modLq rid fun q => { q with reserving := true }
        else match s.victims rid k pins with
          | some v => v.foldl State.requestPreempt s
          | none => s

/-- Teams off their cores whose save is complete, and whose slots are free, are asked to resume. -/
def State.askResume (s : State) (d : Nat) : State :=
  (List.range s.teams.length).foldl (fun s k =>
    if (s.tm k).state = .saved ∧ (s.region (s.tm k).rid).home = d ∧ (s.tm k).members.all fun m => !(s.mb m).placed then
      s.postOnce .teamResume k else s) s

/-- One pass of the scheduler of die d. -/
def State.pass (s : State) (d : Nat) : State :=
  let s := s.chargeTeams d
  let rest := fun (e : Nat × LaunchQ) =>
    if (s.region e.1).home = d ∧ ¬ (e.2.depMet ∧ e.2.tokens ≠ []) ∧ ¬ s.regionRuns e.1 then (e.1, { e.2 with runnable := false }) else e
  let s := { s with lqueues := s.lqueues.map rest }
  let s := [7, 6, 5, 4, 3, 2, 1, 0].foldl (fun s p => (s.candidates d p).foldl (fun s r => s.tryLaunch d r) s) s
  (s.askResume d).modDie d fun x => { x with passLeft := 256 }

/-- SCHEDULING_PASS (06 R166). -/
def execSchedulingPass (die : Nat) (s : State) : Out :=
  eventExec s (if die < 4 ∧ ¬ (s.die die).off then some (s.pass die) else none)

end Sys2Proof.Machine
end

