-- ==== Sys2Proof/Machine/EventsSave.lean ====
section
/-! DEFINITION. Pre-emption: safe points, forced saves and the save areas (02 R55-R57, 06 R171, R172, 08 R211, 10 R273, 15 R380,
R393, 16 R401, R414), and the resume of a team, with its migration (02 R59, 06 R165). -/

namespace Sys2Proof.Machine

/-! ### Save areas: the byte layouts (06 R171, 07 R188, 08 R211, 16 R401) -/

/-- Words in a row. -/
def wordsBytes (ws : List Word) : List Byte := ws.flatMap fun w => bytesOf 8 w.toNat

/-- A list brought to n bytes with zeros, or cut there. -/
def cutTo (n : Nat) (l : List Byte) : List Byte := (padTo n 0 l).take n

/-- One interlock entry, 32 bytes (07 R188). -/
def Interlock.bytes (e : Interlock) : List Byte :=
  bytesOf 8 (bitOf e.v * 2 ^ 63 + bitOf e.write * 2 ^ 62 + bitOf e.dense * 2 ^ 61 + e.eng % 16 * 2 ^ 57 + e.esize % 8 * 2 ^ 54 +
    e.lo % 2 ^ 48) ++
  bytesOf 8 (e.hi % 2 ^ 48) ++ bytesOf 8 (e.boff % 64 * 2 ^ 32 + e.eseq.toNat) ++ bytesOf 8 (e.leadcnt % 2 ^ 40)

/-- An interlock entry read back: valid only while its command is, which a die-level engine may have completed meanwhile, and
with the higher leading-element count. -/
def Interlock.load (e : Interlock) (m : Mem) (a : Nat) : Interlock :=
  let w := fun (k : Nat) => Mem.readNat m (a + 8 * k) 8
  if ¬ (e.v ∧ bitAt (w 0) 63) then Interlock.reset
  else { v := true, write := bitAt (w 0) 62, dense := bitAt (w 0) 61, eng := fld (w 0) 57 4, esize := fld (w 0) 54 3, lo := fld (w 0) 0 48,
         hi := fld (w 1) 0 48, boff := fld (w 2) 32 6, eseq := BitVec.ofNat 32 (w 2), leadcnt := max e.leadcnt (fld (w 3) 0 40) }

/-- The interlock table, 512 bytes. -/
def Thread.lockBytes (th : Thread) : List Byte := th.interlock.toList.flatMap Interlock.bytes

/-- The system registers of a kind of thread, in ascending number order. -/
def csrNums (k : Kind) : List Nat := (List.range 0x802).filter (csrAssigned k)

/-- The save header: FORM, refetch PC, live-map address, CSEQ. -/
def Thread.headerBytes (th : Thread) (form : Nat) (map : Word) : List Byte :=
  bytesOf 8 form ++ wordsBytes [th.pc, map, th.sys.cseq] ++ List.replicate 32 0

/-- The vector registers: lane 0's share first, its registers in order. -/
def Thread.vecBytes (th : Thread) : List Byte :=
  let n := nregsOf th.sys.vcfgv
  let w := partBytes th.sys.laneshare / n
  th.laneList.flatMap fun j => (List.range n).flatMap fun r => bytesOf w (NMap.get th.v (r * 32 + j))

/-- The base of thread t's save area. -/
def Thread.area (th : Thread) : Nat := th.sys.ctxarea.toNat

/-- A rendezvous slot, 16 bytes: state, arrived mask, and the number of its convoy, which names it (assumption log 53). -/
def Slot.bytes (q : Slot) : List Byte :=
  bytesOf 4 (match q.state with | .empty => 0 | .part => 1 | .full => 2 | .delivered => 3) ++ bytesOf 4 q.arrived.toNat ++
    bytesOf 4 q.seq.toNat ++ bytesOf 4 0

/-- The partial of a lane, 24 bytes: its value, bit 0 deposited and bit 1 a value, and the flags (assumption log 53). -/
def partialBytes : Option SlotPart → List Byte
  | none => List.replicate 24 0
  | some p => bytesOf 8 (p.val.getD 0) ++ bytesOf 1 (1 + bitOf p.val.isSome * 2) ++ bytesOf 1 p.flags.toNat ++ List.replicate 14 0

/-- The rendezvous slots and their partials. -/
def Thread.slotsBytes (th : Thread) : List Byte :=
  th.slots.toList.flatMap Slot.bytes ++
    th.slots.toList.flatMap fun q => (List.range 32).flatMap fun j => partialBytes (Tbl.find j q.parts)

/-- A slot read back, with the instruction and the operands that were captured with it. -/
def Slot.load (q : Slot) (m : Mem) (a p : Nat) : Slot :=
  { q with
    state := match Mem.readNat m a 4 with | 0 => .empty | 1 => .part | 2 => .full | _ => .delivered
    arrived := BitVec.ofNat 32 (Mem.readNat m (a + 4) 4)
    seq := BitVec.ofNat 32 (Mem.readNat m (a + 8) 4)
    parts := (List.range 32).filterMap fun j =>
      let b := Mem.readNat m (p + 24 * j + 8) 1
      if bitAt b 0 then some (j, { val := if bitAt b 1 then some (Mem.readNat m (p + 24 * j) 8) else none
                                   flags := BitVec.ofNat 5 (Mem.readNat m (p + 24 * j + 9) 1) }) else none }

/-- The scalar registers a convoy of the window reads, at most 8. -/
def WinEntry.reads (w : WinEntry) : List XReg :=
  ((w.units.flatMap fun u => match w.cap.info u.instr with | some inf => inf.xr | none => []).eraseDups).take 8

/-- An entry of the replay window, 128 bytes: the convoy's numbers and PC, and the registers captured with it (assumption log 53). -/
def WinEntry.bytes (w : WinEntry) : List Byte :=
  let c := w.cap
  cutTo 128 (bytesOf 4 w.seq.toNat ++ bytesOf 4 (w.eseq.getD 0).toNat ++ bytesOf 8 w.pc.toNat ++ bytesOf 4 c.vcarry.toNat ++
    bytesOf 4 c.ststep.toNat ++ bytesOf 4 c.stthr.toNat ++ bytesOf 4 c.msgep.toNat ++ bytesOf 8 c.vcfgv.toNat ++ bytesOf 4 c.vlen.toNat ++
    bytesOf 4 c.laneshare.toNat ++ bytesOf 2 c.stmetric.toNat ++ bytesOf 1 c.rmode.toNat ++ bytesOf 1 c.ftrapen.toNat ++
    c.wmark.toList.flatMap (fun b => bytesOf 1 (b.toNat % 256)) ++
    bytesOf 1 ((c.wmark.toList.zipIdx.map fun (b, k) => bitOf (getBit b 31) * 2 ^ k).sum) ++ bytesOf 3 (bitOf w.eseq.isSome) ++
    w.reads.flatMap fun r => bytesOf 8 (vget c.x r.toNat 0).toNat)

/-- An entry of the replay window read back; its instructions are those of its PC. -/
def WinEntry.load (w : WinEntry) (m : Mem) (a : Nat) : WinEntry :=
  let n := fun (o k : Nat) => Mem.readNat m (a + o) k
  let word := fun (o k : Nat) => BitVec.ofNat 64 (n o k)
  let x := w.reads.zipIdx.foldl (fun v (r, k) => vset v r.toNat (word (0x40 + 8 * k) 8)) w.cap.x
  { w with
    seq := BitVec.ofNat 32 (n 0 4), pc := word 8 8, eseq := if n 0x3D 1 = 0 then none else some (BitVec.ofNat 32 (n 4 4))
    cap := { w.cap with
      x, vcarry := word 0x10 4, ststep := word 0x14 4, stthr := word 0x18 4, msgep := word 0x1C 4, vcfgv := word 0x20 8
      vlen := word 0x28 4, laneshare := word 0x2C 4, stmetric := word 0x30 2, rmode := word 0x32 1, ftrapen := word 0x33 1
      wmark := Vector.ofFn fun j : Fin 8 => word (0x34 + j.val) 1 ||| (if bitAt (n 0x3C 1) j.val then 0x80000000 else 0) } }

/-- Strand t's area written. -/
def State.saveStrand (s : State) (t form : Nat) (map : Word) : State :=
  let th := s.th t
  let a := th.area
  let regs := padTo 0x300 0 (wordsBytes ((csrNums .strand).map (s.csrGet t)))
  let x := wordsBytes ((0 : Word) :: th.x.toList.drop 1)
  s.physWrite a (padTo 0x200 0 th.trapBytes ++ x ++ regs ++ th.headerBytes form map ++ th.lockBytes ++ th.slotsBytes ++
    cutTo 0x1880 (th.window.flatMap WinEntry.bytes) ++ List.replicate 0x300 0 ++ th.vecBytes)

/-- One entry of the platen queue, 64 bytes. -/
def PlatenOp.bytes (p : PlatenOp) : List Byte :=
  wordsBytes [BitVec.ofNat 64 (encCW p.op p.cw), p.pc, BitVec.ofNat 64 (p.eseq.toNat + 2 ^ 32), p.a, p.b, p.c, 0, 0]

/-- An entry of the platen queue read back. -/
def PlatenOp.load (p : PlatenOp) (m : Mem) (a : Nat) : PlatenOp :=
  let w := fun (k : Nat) => BitVec.ofNat 64 (Mem.readNat m (a + k) 8)
  { p with op := getField (w 0) 2 8, cw := cwFields (w 0).toNat, pc := w 8, eseq := BitVec.ofNat 32 (Mem.readNat m (a + 0x10) 4),
           a := w 0x18, b := w 0x20, c := w 0x28 }

/-- An operation's stopping position as the area holds it: a row of an ACCLD or ACCST, and otherwise its element. -/
def PlatenOp.place (p : PlatenOp) : Nat := if p.op = 0x84 ∨ p.op = 0x85 then p.pos / 128 else p.pos

/-- The platen progress of the head of the queue. No operation stops inside an MMAG's group, so its index is 0. -/
def Thread.progress (th : Thread) : List Byte :=
  match th.platen with
  | p :: _ => bytesOf 4 p.place ++ bytesOf 4 0 ++ bytesOf 4 p.resid.toNat ++ bytesOf 1 p.flags.toNat
  | [] => []

/-- The platen queue read back, with the progress of its head. -/
def platenLoad (l : List PlatenOp) (m : Mem) (q a : Nat) : List PlatenOp :=
  (l.zipIdx.map fun (p, k) => p.load m (q + 64 * k)).modifyHead fun p =>
    { p with pos := Mem.readNat m a 4 * (if p.op = 0x84 ∨ p.op = 0x85 then 128 else 1)
             resid := BitVec.ofNat 64 (Mem.readNat m (a + 8) 4), flags := BitVec.ofNat 5 (Mem.readNat m (a + 12) 1) }

/-- An outstanding tag, 16 bytes: its unit by the word's OP, its destination register and one more, 0 for none, and the word's
number and PC (assumption log 53). -/
def Inflight.bytes (i : Inflight) : List Byte :=
  bytesOf 1 i.op ++ bytesOf 3 (match i.dreg with | some d => d.toNat + 1 | none => 0) ++ bytesOf 4 i.seq.toNat ++ bytesOf 8 i.pc.toNat

/-- The entry of each tag that a wait still holds, and zero for the others. -/
def Thread.tagBytes (th : Thread) : List Byte :=
  cutTo 0x78 ((List.range 7).flatMap fun k => match th.inflight.find? (·.tag.toNat == k + 1) with
    | some i => i.bytes
    | none => List.replicate 16 0)

/-- A wait of a tag read back. -/
def Inflight.load (i : Inflight) (m : Mem) (a : Nat) : Inflight :=
  if i.tag = 0 then i
  else
    let e := a + 16 * (i.tag.toNat - 1)
    let d := Mem.readNat m (e + 1) 1
    { i with dreg := if d = 0 then none else some (BitVec.ofNat 5 (d - 1)), seq := BitVec.ofNat 32 (Mem.readNat m (e + 4) 4)
             pc := BitVec.ofNat 64 (Mem.readNat m (e + 8) 8) }

/-- The result window: the values of the 16 slots, oldest first, then the produced mask. -/
def Thread.windowBytes (th : Thread) : List Byte :=
  let l := (List.range 16).map fun k => vget th.rwin ((th.sys.cseq.toNat + k) % 16) (0, false)
  wordsBytes (l.map (·.1)) ++ bytesOf 8 ((l.zipIdx.map fun (e, k) => bitOf e.2 * 2 ^ k).sum)

/-- Control thread t's area written. -/
def State.saveControl (s : State) (t form : Nat) (map : Word) : State :=
  let th := s.th t
  let a := th.area
  let regs := padTo 0x200 0 (wordsBytes ((csrNums .control).map (s.csrGet t)))
  s.physWrite a (wordsBytes th.x.toList ++ regs ++ th.windowBytes ++ th.tagBytes ++ th.headerBytes form map ++ th.lockBytes ++
    padTo 0x200 0 ((th.platen.take 8).flatMap PlatenOp.bytes) ++ padTo 0x40 0 th.progress)

/-- The walk-block bytes 0x00-0x1F of a walk (16 R399). -/
def WalkBlk.bytes (b : WalkBlk) : List Byte :=
  bytesOf 1 b.tfmt ++ bytesOf 1 b.mw ++ bytesOf 1 b.lc ++ bytesOf 1 b.ntile ++ bytesOf 1 b.sembase ++ bytesOf 1 b.rows ++
    bytesOf 2 b.cols ++ bytesOf 4 b.tbase ++ bytesOf 4 b.tstride ++ bytesOf 8 b.srclo ++ bytesOf 8 b.srchi

/-- The walker part of a member's area (16 R401). -/
def Walker.bytes (w : Walker) : List Byte :=
  let st := match w.state with | .idle => 0 | .running => 1 | .waiting => 2 | .faulted => 3
  wordsBytes (w.w.toList ++ [w.pc]) ++ bytesOf 4 w.epos.toNat ++ bytesOf 4 w.tcnt.toNat ++
    bytesOf 4 (w.row % 256 + w.buf % 256 * 2 ^ 8 + w.poison.toNat * 2 ^ 16) ++ bytesOf 4 st ++ bytesOf 8 w.faddr.toNat ++
    (match w.blk with | some b => b.bytes | none => List.replicate 32 0) ++ List.replicate 64 0

/-- The walker of a member's cluster while it runs a walk of that member. -/
def State.walkerOf (s : State) (m : Nat) : Option Walker :=
  let w := (s.clu (cluKey (s.mb m).die (s.mb m).cluster)).walker
  match w.cmd.bind s.cmd with
  | some c => if (s.th c.thr).kind != .supervisor && (s.th c.thr).member == m then some w else none
  | none => none

/-- The thread in slot j of member m: strand j, or the control thread in slot 4 (08 R211). -/
def State.inSlot (s : State) (m j : Nat) : Thread :=
  match (s.threadsOf m).find? fun t => (s.th t).areaSlot == j with
  | some t => s.th t
  | none => Thread.absent

/-- Counters, capture state and debug entries of a member (08 R211). -/
def State.slotBytes (s : State) (m : Nat) : List Byte :=
  let each := fun (f : Thread → List Byte) => (List.range 5).flatMap fun j => f (s.inSlot m j)
  each (fun th => th.eng.toList.flatMap (fun e => bytesOf 4 e.issued.toNat ++ bytesOf 4 e.done.toNat) ++ bytesOf 8 0) ++
  each (fun th => bytesOf 8 th.countdown) ++ each (fun th => bytesOf 8 th.stint.toNat) ++ List.replicate 0x70 0 ++
  each (fun th => wordsBytes th.snap.toList) ++ each (fun th => wordsBytes (th.oncore.toList ++ th.offcore.toList)) ++
  each (fun th => (th.dbgPc.toList ++ th.dbgEng.toList).flatMap fun e => wordsBytes [e.1, e.2]) ++ List.replicate 0x80 0

/-- The transfers of channel c of member m in progress, oldest first. -/
def State.transfers (s : State) (m c : Nat) : List Cmd :=
  s.cmds.filter fun x => s.chanOf x == some (m, c) && !x.finished && s.inProgress x

/-- The leading-element count of a command's entries. -/
def State.leadOf (s : State) (c : Cmd) : Nat :=
  (c.locks.map fun k => (vget (s.th c.thr).interlock k Interlock.reset).leadcnt).foldl max 0

/-- Channel c of member m, 128 bytes: its identifiers, its chain register and position, how many transfers are in progress, and each
one's identifier, position and leading-element count (assumption log 53). -/
def State.chanBytes (s : State) (m c : Nat) : List Byte :=
  let ch := vget (s.mb m).chans c Channel.reset
  let l := s.transfers m c
  cutTo 128 (bytesOf 8 ch.issued ++ bytesOf 8 ch.completed ++ bytesOf 8 ch.chain.toNat ++ bytesOf 4 ch.chainPos ++ bytesOf 4 l.length ++
    l.flatMap fun x => bytesOf 8 x.eseq ++ bytesOf 8 x.pos ++ bytesOf 8 (s.leadOf x))

/-- Channel c of member m read from its area. -/
def State.loadChan (s : State) (m a c : Nat) : State :=
  let n := fun (o k : Nat) => Mem.readNat s.mem (a + o) k
  let l := (s.transfers m c).zipIdx.map fun (x, k) => (x.id, n (0x28 + 24 * k) 8)
  let s := s.modChan m c fun x =>
    { x with issued := n 0 8, completed := n 8 8, chain := BitVec.ofNat 64 (n 16 8), chainPos := n 24 4, chainParked := false }
  l.foldl (fun s (id, at') => s.modCmd id fun x => ({ x with pos := at' } : Cmd)) s

/-- The listed bytes of the accumulator store of a member, 64 KiB per tile. -/
def accImage (acc : NMap) : Mem :=
  acc.flatMap fun (k, v) => (bytesOf 4 v).zipIdx.filterMap fun (b, j) => if b = 0 then none else some (4 * k + j, b)

/-- Accumulator tiles of a member, in bytes. -/
def Member.accBytes (m : Member) : Nat := if m.full then 0x100000 else 0x80000

/-- The poison of the sectors [lo, lo + n) of memory replaced by that of a store, whose sectors count from lo. -/
def poisonPaste (p : NSet) (lo n : Nat) (q : NSet) : NSet :=
  p.filter (· < lo) ++ (q.filter (· < n)).map (· + lo) ++ p.filter (lo + n ≤ ·)

/-- The area of member m written: its bits and boxes, its engines, counters, tile store and accumulator store. Poison marks
travel with their sectors (04 R111). -/
def State.saveMember (s : State) (m : Nat) : State :=
  let mb := s.mb m
  let a := mb.saveBase
  let head := bytesOf 8 mb.sem.toNat ++ List.replicate 0x38 0 ++ wordsBytes mb.box.toList ++ List.replicate 0x40 0 ++
    (List.range 8).flatMap (s.chanBytes m) ++ (match s.walkerOf m with | some w => w.bytes | none => List.replicate 0x100 0) ++ s.slotBytes m
  let s := s.physWrite a head
  let n := mb.tilesz * 0x40000
  let b := a + 0x1000 + n
  { s with
    mem := Mem.paste (Mem.paste s.mem (a + 0x1000) n mb.tile) b mb.accBytes (accImage mb.acc)
    poison := poisonPaste (poisonPaste s.poison ((a + 0x1000) / 64) (n / 64) mb.tilePoison) (b / 64) (mb.accBytes / 64) mb.accPoison }

/-! ### The live map (10 R273) -/

/-- The masks of a live map: x or c registers, and v registers. -/
structure LiveMap where
  x : Nat
  v : Nat
  deriving DecidableEq, Repr

/-- The map at va for thread t; none when it is misaligned, unreadable or malformed. -/
def State.liveMap (s : State) (t : Nat) (va : Word) : State × Option LiveMap :=
  if va.toNat % 8 ≠ 0 then (s, none)
  else match s.readBlock (s.ctxOf t) va 0x20 with
    | (s, .error _) => (s, none)
    | (s, .ok bs) =>
      let x := leAt bs 8 8
      let v := leAt bs 0x10 8
      let c := leAt bs 0x18 4
      let n := leAt bs 2 2
      let ctl := (s.th t).kind == .control
      if leAt bs 0 2 ≠ 1 ∨ 64 < n ∨ ¬ zerosAt bs 4 4 ∨ ¬ zerosAt bs 0x1C 4 ∨ (if ctl then x != 0 || v != 0 else c != 0) then (s, none)
      else match s.readBlock (s.ctxOf t) (va + 0x20) (2 * n) with
        | (s, .error _) => (s, none)
        | (s, .ok ns) =>
          if (List.range n).all fun j => leAt ns (2 * j) 2 < 4096 then (s, some { x := if ctl then c else x, v }) else (s, none)

/-- The registers a map does not name read zero from the save on (02 R56). -/
def Thread.keepLive (th : Thread) (lm : LiveMap) : Thread :=
  { th with x := Vector.ofFn fun j : Fin 32 => if lm.x.testBit j.val then th.x[j.val] else 0
            v := th.v.filter fun e => lm.v.testBit (e.1 / 32) }

/-! ### Stopping (02 R56, R57, 15 R380, R393) -/

/-- The members of team k that have not ended. -/
def State.live (s : State) (k : Nat) : List Nat := (s.tm k).members.filter fun m => !(s.mb m).ended

/-- Thread t stands where a safe-point save may take it: so does every thread of a member that a trap has stopped, for such a member is
saved whole with its trap pending (02 R36, R56, 06 R170; assumption log 54). -/
def State.atSafe (s : State) (t : Nat) : Bool :=
  s.memberStopped (s.th t).member ||
  match (s.th t).run with
  | .done => true
  | .safept _ => true
  | .blocked .walk => false
  | .blocked _ => true
  | _ => false

/-- Every thread of team k is at a safe point. -/
def State.teamSafe (s : State) (k : Nat) : Bool := (s.teamThreads k).all s.atSafe

/-- A strand stops: its lanes drain without a record, full slots are delivered, and the convoys that have not issued are
discarded (02 R49 steps 2 and 3, R52). -/
def State.stopStrand (s : State) (t : Nat) : State :=
  let th := s.th t
  let s := if th.inh ∨ th.run = .stopped ∨ th.run = .endedStopped ∨ th.run = .done then s else s.drainStop t
  (s.deliverAll t).modTh t fun th =>
    let th := th.rewind.discard
    { th with slots := th.slots.map fun q => (if q.state = .delivered then Slot.reset else q),
              tbCp := Vector.ofFn fun j : Fin 32 => if j.val < th.lanes then vget th.cp j.val 0 else 0 }

/-- Every result of a control thread that has a value is delivered. -/
def Thread.settleAll (th : Thread) : Thread :=
  (th.inflight.filter fun i => i.due.isSome).foldl (fun th i => match th.inflight.find? (·.seq == i.seq) with
    | some j => th.giveResult j
    | none => th) th

/-- The platen's operation for thread t stops at its boundary: an ACCLD or ACCST after a whole row, an ACCCVT after an element, and
any other where it has begun nothing that it keeps. A near-memory operation that has started runs to its end (02 R57, 15 R393). -/
def State.stopPlaten (s : State) (t : Nat) : State :=
  let s := match (s.th t).platen with
    | p :: _ => if p.started ∧ (p.op = 0x88 ∨ p.op = 0x89) then (s.platenComplete t).getD s else s
    | [] => s
  (s.platenOn t).modTh t fun th => th.modHead fun p =>
    { p with started := false, pos := if p.op = 0x84 ∨ p.op = 0x85 then p.pos / 128 * 128 else p.pos }

/-- A thread stops where it stands. -/
def State.stopThread (s : State) (t : Nat) : State :=
  if (s.th t).kind = .control then (s.modTh t Thread.settleAll).stopPlaten t else s.stopStrand t

/-- One pre-emption counted in an open capture window (08 R216). -/
def SysRegs.interrupted (r : SysRegs) : SysRegs :=
  if getBit r.capstate 0 then { r with capstate := putField r.capstate 32 16 (min 0xFFFF (getField r.capstate 32 16 + 1)) } else r

/-- FORM of the save of thread t, the map it names, and its registers as the map leaves them. -/
def State.applyMap (s : State) (t : Nat) (forced : Bool) : State × Nat × Word :=
  if forced then (s, 1, 0)
  else match (s.th t).run with
    | .safept va => (match s.liveMap t va with
      | (s, some lm) => (s.modTh t fun th => th.keepLive lm, 0, va)
      | (s, none) => (s, 1, 0))
    | .done => (s, 0, 0)
    | _ => (s, 1, 0)

/-- The area of thread t written. -/
def State.saveThread (s : State) (t form : Nat) (map : Word) : State :=
  if (s.th t).kind = .control then s.saveControl t form map else s.saveStrand t form map

/-- Team k stops and its areas are written (06 R171). -/
def State.saveTeam (s : State) (k : Nat) (forced : Bool) : State :=
  let ts := (s.teamThreads k).filter fun t => !(s.mbOf t).ended
  let s := ts.foldl State.stopThread s
  let s := ts.foldl (fun s t =>
    let q := s.applyMap t forced
    (q.1.modTh t fun th => { th with sys := th.sys.interrupted }).saveThread t q.2.1 q.2.2) s
  let s := (s.live k).foldl State.saveMember s
  let s := ts.foldl (fun s t => s.modTh t fun th => { th with active := false }) s
  let d := (s.mb ((s.tm k).members.headD 0)).die
  let s := s.quiet (s.tm k).rid ((s.countDie d 0x20B 1).countDie d 0x20C (bitOf forced))
  (s.modTm k fun tm => { tm with state := .saved }).postOnce .saveComplete k

/-- Team k has been asked to give up its slots. -/
def State.preempting (s : State) (k : Nat) : Bool := match (s.tm k).state with | .preempting _ => true | _ => false

/-- A thread of team k waits for remote elements of a convoy it drains. -/
def State.teamAwaits (s : State) (k : Nat) : Bool := (s.teamThreads k).any s.awaitsRemote

/-- Every thread of a team with a pre-emption pending is at a safe point, drained (02 R55, R56). -/
def State.canSafeSave (s : State) (k : Nat) : Bool :=
  (s.tm k).state == .preempting false && s.teamSafe k && !s.teamAwaits k

/-- The pre-emption deadline of team k has passed (02 R57). -/
def State.deadlinePast (s : State) (k : Nat) : Bool :=
  s.preempting k &&
  decide ((s.region (s.tm k).rid).deadline ≤ (s.die (s.mb ((s.tm k).members.headD 0)).die).sched - (s.tm k).reqAt)

/-- A forced save of team k begins, at the deadline of a team that has reached no safe point, or goes on, once the remote elements its
lanes waited for have come (02 R57, 13 R332). -/
def State.canForce (s : State) (k : Nat) : Bool :=
  match (s.tm k).state with
  | .preempting false => s.deadlinePast k && !s.teamSafe k
  | .preempting true => !s.teamAwaits k
  | _ => false

/-- The forced save of team k: its threads stop issue and its lanes drain; its areas are written, or, while a lane waits for remote
elements, it stands stopped. -/
def State.forceSave (s : State) (k : Nat) : State :=
  let ts := (s.teamThreads k).filter fun t => (s.th t).kind == .strand && !(s.th t).inh &&
    (s.th t).run != .stopped && (s.th t).run != .endedStopped && (s.th t).run != .done
  let s := ts.foldl State.drainStop s
  if s.teamAwaits k then s.modTm k fun tm => { tm with state := .preempting true } else s.saveTeam k true

/-- SAFE_POINT_SAVE (02 R56). -/
def execSafePointSave (team : Nat) (s : State) : Out := eventExec s (if s.canSafeSave team then some (s.saveTeam team false) else none)

/-- FORCED_SAVE (02 R57). -/
def execForcedSave (team : Nat) (s : State) : Out := eventExec s (if s.canForce team then some (s.forceSave team) else none)

/-! ### The save completes (06 R172) -/

/-- The units of a saved control thread answer: their results are delivered, and a trap they find is recorded. -/
def State.settleUnits (s : State) (t : Nat) : State :=
  if (s.th t).kind ≠ .control then s
  else
    let s := match s.retryUnits t with
      | (s, some (tr, si)) => s.takeTrap t tr (siteAt si.pc si.seq (s.th t).pc)
      | (s, none) => s
    s.modTh t Thread.settleAll

/-- The results of control thread t that a save has to wait for: all but its waits (15 R380), and but the words parked by a trap, which no
unit performs before the thread resumes (R379). -/
def Thread.awaited (th : Thread) : Bool := th.inflight.any fun i => !i.parked && i.op != 0x60 && i.op != 0x67 && i.op != 0x6A

/-- The waits of a thread that leaves its core are withdrawn: its monitor entries go, and an MWAIT will end with RESUME (07
R193, R196, 15 R380). -/
def State.withdrawWaits (s : State) (t : Nat) : State :=
  let s := s.modTh t fun th => { th with
    resumed := th.resumed || (match th.run with | .blocked (.mwait _) => th.kind != .control | _ => false)
    inflight := th.inflight.map fun i => if i.op = 0x67 ∧ i.due.isNone then { i with reason := i.reason.or (some .resume) } else i }
  let s := (List.range 8).foldl (fun s g => (s.dropMonitors 0 (t + 2 ^ 20 * g)).dropMonitors 1 (t + 2 ^ 20 * g)) s
  { s with clusters := s.clusters.map fun (k, c) =>
      (k, if c.walker.waiting.any (·.1 == t) then { c with walker := { c.walker with waiting := c.walker.waiting.filter (·.1 != t) } } else c) }

/-- The region that near-store sector w (address / 64) holds an area of. -/
def State.nearRegion (s : State) (w : Nat) : Option Nat :=
  let a := w * 64
  if a < nearBase ∨ nearBase + 0x200000000 ≤ a then none
  else
    let b := a - nearBase
    let o := b % 0x2000000 / 0x100000 * 64 + b % 0x80000000 / 0x2000000
    ((s.die (b / 0x80000000)).allocs.find? fun x => decide (x.off ≤ o) && decide (o < x.off + x.mib)).map (·.rid)

/-- The lines of a confidential region, in its pages and in its near-store, leave the L1s of a cluster (04 R113). -/
def State.dropLines (s : State) (rid k : Nat) : State :=
  if ¬ (s.region rid).conf then s
  else
    let keep := fun ((w, st) : Nat × DirSt) =>
      if NMap.get s.mgmt.cpmap (w / 64) ≠ rid + 1 ∧ s.nearRegion w ≠ some rid then some (w, st)
      else match st with
        | .clean hs => (match hs.filter (· / 4 != k) with | [] => none | l => some (w, .clean l))
        | .dirty h => if h / 4 = k then none else some (w, .dirty h)
    s.allDies fun d => { d with dir := d.dir.filterMap keep }

/-- Member m leaves its slots: its walk goes with it, the space it held is cleared, and the slots fall free (06 R168, R172,
04 R113). -/
def State.leaveSlots (s : State) (m : Nat) : State :=
  let mb := s.mb m
  let k := cluKey mb.die mb.cluster
  let w := s.walkerOf m
  let s := if w.isSome then s.modWalker k fun x => { Walker.reset with waiting := x.waiting } else s
  let s := (s.dropLines (s.tm mb.team).rid k).modClu k fun c => { c with clearing := c.clearing ++ [(m, mb.mask)] }
  let s := s.modMb m fun mb => { mb with
    placed := false, tile := [], tilePoison := [], acc := [], accPoison := []
    savedWalker := w.map fun x => { x with waiting := [] } }
  (s.slotFreed mb.die mb.cluster mb.mask).postOnce .spaceClearingEnd m

/-- The save of team k ends; none while a result has still to come. -/
def State.endSave (s : State) (k : Nat) : Option State :=
  let tm := s.tm k
  if tm.state ≠ .saved ∨ ¬ (tm.members.any fun m => (s.mb m).placed) then none
  else
    let ts := (s.teamThreads k).filter fun t => !(s.mbOf t).ended
    let s := ts.foldl State.settleUnits s
    if ts.any fun t => (s.th t).awaited then none
    else
      let s := ts.foldl State.withdrawWaits s
      let s := (tm.members.flatMap fun m => (List.range 8).map fun c => m * 8 + c).foldl (fun s o => s.dropMonitors 2 o) s
      let ctl := ts.filter fun t => (s.th t).kind == .control
      let s := ctl.foldl State.interruptLives s
      let s := ctl.foldl (fun s t =>
        let a := (s.th t).area + 0x400
        s.saveControl t (Mem.readNat s.mem a 8) (BitVec.ofNat 64 (Mem.readNat s.mem (a + 0x10) 8))) s
      let d := (s.mb ((s.live k).headD 0)).die
      let s := (s.live k).foldl State.leaveSlots s
      some ((s.modTm k fun tm => { tm with savedDie := d, savedAt := (s.die d).sched }).postOnce .schedulingPass (s.region tm.rid).home)

/-- SAVE_COMPLETE (06 R172). -/
def execSaveComplete (team : Nat) (s : State) : Out := eventExec s (s.endSave team)

/-- SPACE_CLEARING_END (06 R172): the space a member left reads zero; members placed on it start. -/
def execSpaceClearingEnd (mem : Nat) (s : State) : Out :=
  eventExec s (if s.clusters.any fun e => e.2.clearing.any (·.1 == mem) then
    let free := fun ((k, c) : Nat × Cluster) => (k, { c with clearing := c.clearing.filter (·.1 != mem) })
    let s := { s with clusters := s.clusters.map free }
    let look := fun (m : Member) => { m with waitClear := m.waitClear && s.stillClearing m.die m.cluster m.mask }
    some { s with members := s.members.map look }
  else none)

/-! ### Resume (02 R59, 06 R165, R171) -/

/-- The word at a physical address. -/
def State.word (s : State) (a : Nat) : Word := BitVec.ofNat 64 (Mem.readNat s.mem a 8)

/-- System register n as an area holds it: those computed where they are read take nothing from it. -/
def SysRegs.load (r : SysRegs) (n : Nat) (v : Word) : SysRegs :=
  if 0x040 ≤ n ∧ n ≤ 0x047 then { r with wmark := vset r.wmark (n - 0x040) v }
  else if 0x080 ≤ n ∧ n ≤ 0x08F then { r with pmccfg := vset r.pmccfg (n - 0x080) v }
  else if 0x090 ≤ n ∧ n ≤ 0x09F then { r with pmc := vset r.pmc (n - 0x090) v }
  else match n with
  | 0x000 => { r with status := v } | 0x001 => { r with rmode := v } | 0x002 => { r with fflags := v }
  | 0x003 => { r with ftrapen := v } | 0x004 => { r with vcarry := v } | 0x010 => { r with slip := putField v 8 6 0 }
  | 0x011 => { r with vcfgv := v } | 0x012 => { r with vlen := v } | 0x014 => { r with laneshare := v } | 0x015 => { r with cseq := v }
  | 0x020 => { r with trapcause := v } | 0x021 => { r with trappc := v } | 0x022 => { r with trapseq := v }
  | 0x023 => { r with traplanes := v } | 0x024 => { r with trapelem := v } | 0x025 => { r with trapaddr := v }
  | 0x026 => { r with trapvec := v } | 0x027 => { r with trapscr0 := v } | 0x028 => { r with trapscr1 := v }
  | 0x030 => { r with ctxid := v } | 0x031 => { r with teamidx := v } | 0x032 => { r with teamsize := v }
  | 0x033 => { r with strandidx := v } | 0x038 => { r with msgep := v } | 0x050 => { r with ststep := v }
  | 0x051 => { r with stthr := v } | 0x052 => { r with stmetric := v } | 0x060 => { r with capstate := v }
  | 0x061 => { r with sampcfg := v } | 0x062 => { r with sampbase := v } | 0x063 => { r with samphead := v }
  | 0x064 => { r with samptail := v } | 0x065 => { r with colbase := v } | 0x066 => { r with colhead := v }
  | 0x070 => { r with sbchk := v }
  | _ => r

/-- The system registers read from address a. -/
def State.loadSys (s : State) (k : Kind) (r : SysRegs) (a : Nat) : SysRegs :=
  (csrNums k).zipIdx.foldl (fun r (n, j) => r.load n (s.word (a + 8 * j))) r

/-- A strand's context read from its area. -/
def State.loadStrand (s : State) (th : Thread) : Thread :=
  let a := th.area
  let sys := s.loadSys .strand th.sys (a + 0x300)
  let n := nregsOf sys.vcfgv
  let w := partBytes sys.laneshare / n
  let cells := (List.range n).flatMap fun r => th.laneList.map fun j => (r * 32 + j, Mem.readNat s.mem (a + 0x3000 + (j * n + r) * w) w)
  { th with
    sys
    pc := s.word (a + 0x608)
    x := Vector.ofFn fun j : Fin 32 => s.word (a + 0x200 + 8 * j.val)
    interlock := Vector.ofFn fun j : Fin 16 => (th.interlock[j]).load s.mem (a + 0x640 + 32 * j.val)
    slots := Vector.ofFn fun j : Fin 4 => (th.slots[j]).load s.mem (a + 0x840 + 16 * j.val) (a + 0x880 + 768 * j.val)
    window := th.window.zipIdx.map fun (w, j) => w.load s.mem (a + 0x1480 + 128 * j)
    v := cells.filter fun e => e.2 != 0
    tbCp := Vector.ofFn fun j : Fin 32 => BitVec.ofNat 32 (Mem.readNat s.mem (a + 4 * j.val) 4)
    cp := Vector.ofFn fun j : Fin 32 => if j.val < th.lanes then BitVec.ofNat 32 (Mem.readNat s.mem (a + 4 * j.val) 4) else vget th.cp j.val 0
    tbCause := Vector.ofFn fun j : Fin 32 => Mem.get s.mem (a + 0x80 + j.val)
    tbElem := Vector.ofFn fun j : Fin 32 => BitVec.ofNat 32 (Mem.readNat s.mem (a + 0xA0 + 4 * j.val) 4) }

/-- A control thread's context read from its area. -/
def State.loadControl (s : State) (th : Thread) : Thread :=
  let a := th.area
  let sys := s.loadSys .control th.sys (a + 0x100)
  let mask := Mem.readNat s.mem (a + 0x380) 2
  { th with
    sys
    pc := s.word (a + 0x408)
    x := Vector.ofFn fun j : Fin 32 => s.word (a + 8 * j.val)
    inflight := th.inflight.map fun i => i.load s.mem (a + 0x388)
    interlock := Vector.ofFn fun j : Fin 16 => (th.interlock[j]).load s.mem (a + 0x440 + 32 * j.val)
    platen := platenLoad th.platen s.mem (a + 0x640) (a + 0x840)
    rwin := Vector.ofFn fun j : Fin 16 =>
      let k := (j.val + 16 - sys.cseq.toNat % 16) % 16
      (s.word (a + 0x300 + 8 * k), mask.testBit k) }

/-- What the member's area holds for a thread (08 R211); the numbers completed out of order that DONE has passed are gone. -/
def State.loadSlot (s : State) (th : Thread) (a : Nat) : Thread :=
  let j := th.areaSlot
  let n4 := fun (o : Nat) => BitVec.ofNat 32 (Mem.readNat s.mem (a + o) 4)
  let pair := fun (o : Nat) => (s.word (a + o), s.word (a + o + 8))
  { th with
    eng := Vector.ofFn fun e : Fin 7 =>
      { issued := n4 (0x600 + j * 64 + 8 * e.val), done := n4 (0x604 + j * 64 + 8 * e.val),
        early := (vget th.eng e.val { issued := 0, done := 0, early := [] }).early }
    countdown := Mem.readNat s.mem (a + 0x740 + 8 * j) 8
    stint := BitVec.ofNat 16 (Mem.readNat s.mem (a + 0x768 + 8 * j) 2 + 1)
    snap := Vector.ofFn fun e : Fin 16 => s.word (a + 0x800 + j * 128 + 8 * e.val)
    oncore := Vector.ofFn fun e : Fin 4 => s.word (a + 0xA80 + j * 64 + 8 * e.val)
    offcore := Vector.ofFn fun e : Fin 4 => s.word (a + 0xAA0 + j * 64 + 8 * e.val)
    dbgPc := Vector.ofFn fun e : Fin 8 => pair (0xBC0 + j * 192 + 16 * e.val)
    dbgEng := Vector.ofFn fun e : Fin 4 => pair (0xC40 + j * 192 + 16 * e.val) }

/-- A walker read from a member's area (16 R401); its walk and its program position are its own. -/
def State.loadWalker (s : State) (w : Walker) (a : Nat) : Walker :=
  let b := Mem.readNat s.mem (a + 0x94) 1
  { w with
    state := if b = 0 then .idle else if b = 1 then .running else if b = 2 then .waiting else .faulted
    w := Vector.ofFn fun j : Fin 16 => s.word (a + 8 * j.val)
    pc := s.word (a + 0x80), epos := BitVec.ofNat 32 (Mem.readNat s.mem (a + 0x88) 4)
    tcnt := BitVec.ofNat 32 (Mem.readNat s.mem (a + 0x8C) 4), row := Mem.readNat s.mem (a + 0x90) 1
    buf := Mem.readNat s.mem (a + 0x91) 1, poison := BitVec.ofNat 16 (Mem.readNat s.mem (a + 0x92) 2)
    faddr := s.word (a + 0x98) }

/-- The accumulator elements that a byte image holds. -/
def accFrom (m : Mem) : NMap :=
  m.foldr (fun (a, _) (acc : NMap) => match acc with
    | (k, _) :: _ => if k = a / 4 then acc else (a / 4, Mem.readNat m (a / 4 * 4) 4) :: acc
    | [] => [(a / 4, Mem.readNat m (a / 4 * 4) 4)]) []

/-- Member m takes a slot, and reads its area. -/
def State.loadMember (s : State) (m : Nat) (slot : Nat × Nat × Nat) : State :=
  let a := (s.mb m).saveBase
  let s := s.modMb m fun mb =>
    let n := mb.tilesz * 0x40000
    let pois := fun (lo len : Nat) => (s.poison.filter fun w => lo / 64 ≤ w && w < (lo + len) / 64).map (· - lo / 64)
    { mb with
      die := slot.1, cluster := slot.2.1, half := slot.2.2, placed := true
      waitClear := s.stillClearing slot.1 slot.2.1 (Member.mask { mb with half := slot.2.2 })
      sem := BitVec.ofNat 64 (Mem.readNat s.mem a 8)
      box := Vector.ofFn fun j : Fin 16 => s.word (a + 0x40 + 8 * j.val)
      tile := Mem.slice s.mem (a + 0x1000) n, tilePoison := pois (a + 0x1000) n
      acc := accFrom (Mem.slice s.mem (a + 0x1000 + n) mb.accBytes), accPoison := pois (a + 0x1000 + n) mb.accBytes }
  let s := (List.range 8).foldl (fun s c => s.loadChan m (a + 0x100 + 128 * c) c) s
  let k := cluKey slot.1 slot.2.1
  match (s.mb m).savedWalker with
  | none => s
  | some w =>
    (s.modWalker k fun x => { s.loadWalker w (a + 0x500) with waiting := x.waiting }).modMb m fun mb => { mb with savedWalker := none }

/-- Thread t is resident again on its member's slot: what it waits for is entered again, and its time runs on the new
cluster's clock, with every STALL met (15 R380). -/
def State.loadThread (s : State) (t : Nat) : State :=
  let mb := s.mbOf t
  let now := s.cycleOf t
  let next := s.ctlNow t
  s.modTh t fun th =>
    let th := s.loadSlot (if th.kind = .control then s.loadControl th else s.loadStrand th) mb.saveBase
    let away := (s.die (s.tm th.team).savedDie).sched - (s.tm th.team).savedAt
    { th with
      active := true
      run := match th.run with | .safept _ => .running | r => r
      hwctx := if th.kind = .control ∧ ¬ mb.full then mb.half % 2 else 0
      sys := { th.sys with physclu := physclu mb }
      offcore := if getBit th.sys.capstate 0 then
          vset th.offcore (s.tm th.team).savedDie (vget th.offcore (s.tm th.team).savedDie 0 + BitVec.ofNat 64 away) else th.offcore
      waitStart := now.toNat
      nextIssue := next
      inflight := th.inflight.map fun i => { i with issued := now.toNat }
      platen := th.platen.map fun p => { p with issued := now.toNat } }

/-! ### Endpoints that follow their team (06 R165) -/

/-- The message contexts on die d of the endpoints that team k's threads name in MSGEP, and of the receives they have posted
(assumption log 60). -/
def State.teamCtxs (s : State) (k d : Nat) : List Nat :=
  let named := (s.teamThreads k).filterMap fun t =>
    let e := (s.th t).sys.msgep
    if ¬ getBit e 31 then none
    else match Tbl.find (getField e 0 14) s.endpoints with
      | some p => if p.die % 4 = d ∧ p.rid = s.ridOf t then some p.mctx else none
      | none => none
  let posted := s.cmds.filterMap fun c =>
    if (s.th c.thr).kind != .supervisor ∧ (s.th c.thr).team = k ∧ (s.die d).posted.contains c.id then (s.postedRecv c.id).map (·.1) else none
  (named ++ posted).eraseDups

/-- The endpoints of contexts cs marked MOVING or no longer (06 R165 steps 1 and 5). -/
def State.markMoving (s : State) (cs : List Nat) (b : Bool) : State :=
  { s with endpoints := s.endpoints.map fun (n, p) => (n, if cs.contains p.mctx then { p with moving := b } else p) }

/-- Every endpoint of contexts cs is MOVING. -/
def State.allMoving (s : State) (cs : List Nat) : Bool := s.endpoints.all fun (_, p) => !cs.contains p.mctx || p.moving

/-- An endpoint of contexts cs is MOVING. -/
def State.someMoving (s : State) (cs : List Nat) : Bool := s.endpoints.any fun (_, p) => cs.contains p.mctx && p.moving

/-- The messages held for contexts cs at die d are matched, each pair's in its order (06 R165 step 4). -/
def State.releaseHeld (s : State) (cs : List Nat) (d : Nat) : State :=
  ((s.die d).pairs.filter fun p => cs.contains p.mctx).foldl (fun s p =>
    match (s.die d).unexp.find? fun h => h.held && h.msg.src == p.smod && h.msg.sep == p.sep && h.msg.dep == p.dep with
    | some h => State.takeHeld d p.mctx h.msg (s.die d).unexp.length p.expect s
    | none => s) s

/-- The lists of contexts cs move from one die's receive engine to another's, the queue in its order and before what reached
the new die; none when they do not fit. -/
def State.moveCtxs (s : State) (cs : List Nat) (d e : Nat) : Option State :=
  let x := s.die d
  let y := s.die e
  let mine := fun (k : Nat) => cs.contains k
  let hdrs := x.unexp.filter fun h => mine h.mctx
  let posts := x.posted.filter fun c => match s.postedRecv c with | some (k, _) => mine k | none => false
  let res := x.reserve.filter fun r => mine r.1
  if 262144 - (y.reserve.map (·.2)).sum - (res.map (·.2)).sum <
      (y.unexp.filter (!·.reserved)).length + (hdrs.filter (!·.reserved)).length ∨ 65536 < y.posted.length + posts.length then none
  else
    let s := s.modDie d fun x => { x with
      unexp := x.unexp.filter fun h => !mine h.mctx
      posted := x.posted.filter fun c => !posts.contains c
      pairs := x.pairs.filter fun p => !mine p.mctx
      reserve := x.reserve.filter fun r => !mine r.1
      recs := x.recs.filter fun r => !mine r.1 }
    let s := s.modDie e fun y => { y with
      unexp := hdrs ++ y.unexp
      posted := posts ++ y.posted
      pairs := y.pairs ++ x.pairs.filter fun p => mine p.mctx
      reserve := res.foldl (fun t r => Tbl.insert r.1 r.2 t) y.reserve
      recs := y.recs ++ x.recs.filter fun r => mine r.1 }
    some { s with
      endpoints := s.endpoints.map fun (n, p) => (n, if mine p.mctx then { p with die := e, moving := false } else p)
      mctxs := s.mctxs.map fun (n, c) => (n, if mine n then { c with die := e } else c) }

/-- The slots that team k may resume on: its own where it is pinned (02 R59). A migration that is not made puts member 0 on its old
die (06 R165). -/
def State.resumeSlots (s : State) (k : Nat) (stay : Bool) : Option (List (Nat × Nat × Nat)) :=
  let tm := s.tm k
  let ms := s.live k
  let full := (s.mb (ms.headD 0)).full
  let d := (s.mb (ms.headD 0)).die
  let l := if tm.place = 2 ∨ (s.region tm.rid).nomig then
      s.place [] tm.rid full ms.length 2 (ms.map fun m => (physclu (s.mb m)).toNat)
    else if ¬ stay then s.place [] tm.rid full ms.length tm.place []
    else
      let l := (if tm.place = 1 then [d] else dieOrder d).flatMap (s.dieSlots [] tm.rid full)
      if ms.length ≤ l.length ∧ (l.headD (4, 0, 0)).1 = d ∧ s.fits tm.rid (·.slots) (s.slotsUsed []) (ms.length * if full then 2 else 1) then
        some (l.take ms.length) else none
  l.bind fun l =>
    if (ms.zip l).all fun (m, slot) => (s.mb m).savedWalker.isNone || (s.clu (cluKey slot.1 slot.2.1)).walker.cmd.isNone
    then some l else none

/-- The engines of member m go on from where the save stopped them. -/
def State.wakeEngines (s : State) (m : Nat) : State :=
  let s := (s.threadsOf m).foldl State.kick s
  let s := (List.range 8).foldl (fun s c => if (s.channel m c).chain = 0 then s else s.postOnce .chainRecordRead m c) s
  let k := cluKey (s.mb m).die (s.mb m).cluster
  (if (s.clu k).walker.state = .waiting then s.postOnce .walkerBufferOpen k else s).postMemberEnd m

/-- Bytes of a thread's save area, and of a member's (06 R171). -/
def Thread.areaSize (th : Thread) : Nat :=
  if th.kind = .control then 0x880 else 0x3000 + th.lanes * partBytes th.sys.laneshare
def Member.areaSize (m : Member) : Nat := 0x1000 + m.tilesz * 0x40000 + m.accBytes

/-- A member that has migrated takes new save areas: its own, and those that CTXAREA of its threads names, each with its trap block
(03 R78, R87). -/
def State.newAreas (s : State) (m : Nat) : State :=
  let rid := (s.tm (s.mb m).team).rid
  let s := { s.modMb m fun mb => { mb with saveBase := s.areaPage rid mb.areaSize * 4096 } with tick := s.tick + 1 }
  (s.threadsOf m).foldl (fun s t =>
    let a := BitVec.ofNat 64 (s.areaPage rid (s.th t).areaSize * 4096)
    State.putTrapBlock { s.modTh t fun th => { th with sys := { th.sys with ctxarea := a } } with tick := s.tick + 1 } t) s

/-- Team k starts again on slots l. -/
def State.resumeOn (s : State) (k : Nat) (l : List (Nat × Nat × Nat)) : State :=
  let ms := s.live k
  let moved := ((ms.zip l).filter fun (m, d, c, h) => physclu (s.mb m) != physclu { s.mb m with die := d, cluster := c, half := h }).map (·.1)
  let s := (ms.zip l).foldl (fun s (m, slot) => s.loadMember m slot) s
  let s := ((s.teamThreads k).filter fun t => !(s.mbOf t).ended).foldl State.loadThread s
  let s := moved.foldl State.newAreas s
  let s := s.modTm k fun tm => { tm with state := .running, ran := 0, sincePass := 0 }
  ms.foldl State.wakeEngines s

/-- Team k stays on its old die: its endpoints are ACTIVE there again, and it resumes if it has slots there. -/
def State.resumeStay (s : State) (k : Nat) (cs : List Nat) (d : Nat) : State :=
  let s := (s.markMoving cs false).releaseHeld cs d
  match s.resumeSlots k true with
  | some l => s.resumeOn k l
  | none => s

/-- Team k, off its cores, resumes; none while it has no slots. A migration marks its endpoints MOVING first, and takes their lists along
when the team starts on its new die, unless they do not fit there (02 R59, 06 R165; assumption log 60). -/
def State.resumeTeam (s : State) (k : Nat) : Option State :=
  let tm := s.tm k
  let d := (s.mb ((s.live k).headD 0)).die
  let cs := s.teamCtxs k d
  if tm.state ≠ .saved ∨ tm.members.any (fun m => (s.mb m).placed) then none
  else match s.resumeSlots k false with
    | none => if s.someMoving cs then some (s.resumeStay k cs d) else none
    | some l =>
      let e := (l.headD (0, 0, 0)).1
      if d = e ∨ cs = [] then some (((s.markMoving cs false).releaseHeld cs d).resumeOn k l)
      else if ¬ s.allMoving cs then some ((s.markMoving cs true).postOnce .teamResume k)
      else match s.moveCtxs cs d e with
        | some s' => some ((s'.releaseHeld cs e).resumeOn k l)
        | none => some (s.resumeStay k cs d)

/-- TEAM_RESUME (02 R59). -/
def execTeamResume (team : Nat) (s : State) : Out := eventExec s (s.resumeTeam team)

end Sys2Proof.Machine
end

