-- ==== Sys2Proof/Machine/EventsEnd.lean ====
section
/-! DEFINITION. The ends of members, teams and fault domains (02 R32, 06 R153, R172, 07 R179, 14 R486, 17 R437). -/

namespace Sys2Proof.Machine

/-- MEMBER_END (02 R32, 11 R295): every thread has executed DONE and every engine command has completed. -/
def State.endMember (s : State) (m : Nat) : Option State :=
  let mb := s.mb m
  let ts := s.threadsOf m
  if mb.ended ∨ ¬ mb.placed ∨ (s.tm mb.team).state = .saved ∨ ¬ (ts.all fun t => (s.th t).run == .done && (s.th t).platen.isEmpty) ∨
      (s.cmds.any fun c => ts.contains c.thr) then none
  else
    let s := s.leaveSlots m
    let s := s.modMb m fun mb => { mb with ended := true }
    let s := ts.foldl (fun s t => s.modTh t fun th => { th with active := false }) s
    some (if (s.tm mb.team).members.all fun j => (s.mb j).ended then s.postOnce .teamEnd mb.team else s)

/-- MEMBER_END. -/
def execMemberEnd (mem : Nat) (s : State) : Out := eventExec s (s.endMember mem)

/-- TEAM_END (02 R32, 06 R153): every member has ended; the completion record holds code 0. -/
def execTeamEnd (team : Nat) (s : State) : Out :=
  let tm := s.tm team
  eventExec s (if (tm.state ≠ .running ∧ ¬ s.preempting team) ∨ tm.members = [] ∨
      ¬ (tm.members.all fun m => (s.mb m).ended) then none
    else some (((s.modTm team fun tm => { tm with state := .ended, endCode := some 0 }).completionRecord tm.rid tm.token 0).postOnce
      .schedulingPass (s.region tm.rid).home))

/-- The teams of the fault domain of team k (07 R179). -/
def State.faultDomain (s : State) (k : Nat) : List Nat :=
  let rid := (s.tm k).rid
  let alive := (List.range s.teams.length).filter fun j => (s.tm j).state != .ended
  match (s.region rid).fdom with
  | 0 => [k]
  | 1 => alive.filter fun j => (s.tm j).rid == rid
  | _ =>
    let top := (s.chain rid).find? fun r => match Tbl.find r s.regions with | some b => b.ovr.getLsbD 1 && b.fdom == 2 | none => false
    match top with
    | some r => alive.filter fun j => (s.subtree r).contains (s.tm j).rid
    | none => [k]

/-- What a command of a team that ends held outside its member is returned: a lent forme, a replay's tile, a posted receive. -/
def State.abandon (s : State) (c : Cmd) : State :=
  let s := match c.body with
    | .send _ _ _ _ _ _ _ (some f) _ _ _ => { s with formes := Tbl.erase f s.formes }
    | .stchk _ _ _ _ _ _ _ _ (some off) => s.endReplay (s.region (s.ridOf c.thr)).home off
    | .recv _ _ _ _ _ => s.allDies fun d => { d with posted := d.posted.filter (· != c.id) }
    | _ => s
  s.dropCmd c.id

/-- Team k ends where it stands, with a code. Remote elements it has sent are answered to nobody. -/
def State.cutTeam (s : State) (k code : Nat) : State :=
  let tm := s.tm k
  let ts := s.teamThreads k
  let s := s.endSends k
  let s := (s.cmds.filter fun c => ts.contains c.thr).foldl State.abandon s
  let s := ts.foldl State.withdrawWaits { s with remotes := s.remotes.filter fun r => !ts.contains r.thr }
  let s := (tm.members.flatMap fun m => (List.range 8).map fun c => m * 8 + c).foldl (fun s o => s.dropMonitors 2 o) s
  let walks := fun ((j, c) : Nat × Cluster) =>
    if c.walker.cmd.isSome ∧ (c.walker.cmd.bind s.cmd).isNone then (j, { c with walker := { Walker.reset with waiting := c.walker.waiting } }) else (j, c)
  let s := { s with clusters := s.clusters.map walks }
  let s := (tm.members.filter fun m => (s.mb m).placed).foldl State.leaveSlots s
  let s := tm.members.foldl (fun s m => s.modMb m fun mb => { mb with ended := true, savedWalker := none }) s
  let s := ts.foldl (fun s t => s.modTh t fun th =>
    { th with active := false, run := .done, queue := [], window := [], laneFault := [], inflight := [], platen := [], engFault := [] }) s
  let s := s.allDies fun d => { d with stops := d.stops.filter (!ts.contains ·) }
  (s.modTm k fun tm => { tm with state := .ended, endCode := some code }).completionRecord tm.rid tm.token code

/-- The report records of the faulting team's confidential region (17 R437). -/
def State.reportFault (s : State) (k : Nat) : State :=
  let tm := s.tm k
  if ¬ (s.region tm.rid).conf then s
  else ((tm.members.map fun m => (s.mb m).die).eraseDups).foldl (fun s d =>
    s.modReport tm.rid d fun r => { r with cls := tm.faultClass, eng := tm.faultEng }) s

/-- FAULT_DOMAIN_END (07 R179): system software does not resume a member that a trap has stopped. -/
def execFaultDomainEnd (team : Nat) (s : State) : Out :=
  let tm := s.tm team
  eventExec s (if tm.state = .ended ∨ ¬ (tm.members.any s.memberStopped) then none
    else
      let dom := s.faultDomain team
      let s := (s.reportFault team).cutTeam team 0x11
      let s := (dom.filter (· != team)).foldl (fun s j => s.cutTeam j 0x10) s
      some (dom.foldl (fun s j => s.postOnce .schedulingPass (s.region (s.tm j).rid).home) s))

end Sys2Proof.Machine
end

