-- ==== Sys2Proof/Machine/EventsTables.lean ====
section
/-! DEFINITION. Table commands (07 R173-R191, R206-R208), near-store allocations (04 R485), translation invalidation (04 R107) and
the debug block (08 R226, 17 R431). -/

namespace Sys2Proof.Machine

/-! ### Images (07 R175, R181, R185, R191, R207) -/

/-- A region block read from its 128 bytes. -/
def parseRegion (bs : List Byte) : Region :=
  let n := leAt bs
  { parent := n 2 2, ovr := BitVec.ofNat 32 (n 4 4), leaf := bitAt (n 8 1) 0, prio := n 9 1, fdom := n 0xA 1, home := n 0xB 1,
    share := n 0xC 2, eager := n 0xE 1, placeok := fld (n 0xF 1) 0 2, nomig := bitAt (n 0xF 1) 2, slice := n 0x10 4,
    waitthr := n 0x14 4, deadline := n 0x18 4, conf := bitAt (n 0x1C 1) 0, hrlog := n 0x1D 1, collog := n 0x1E 1,
    root := n 0x20 8, hring := n 0x28 8, keyidx := n 0x30 2, slots := n 0x32 2, maxw := n 0x34 1, lqent := n 0x35 1,
    nsmib := n 0x36 2, formes := n 0x38 2, endpts := n 0x3A 2, mctxs := n 0x3C 2, precv := n 0x40 4, pairs := n 0x44 4,
    stmib := n 0x48 2, sttags := n 0x4A 2, wment := n 0x4C 2, distent := n 0x4E 2 }

/-- The 128 bytes of a region block. -/
def Region.bytes (rid : Nat) (r : Region) : List Byte :=
  bytesOf 2 rid ++ bytesOf 2 r.parent ++ bytesOf 4 r.ovr.toNat ++ bytesOf 1 (bitOf r.leaf) ++ bytesOf 1 r.prio ++ bytesOf 1 r.fdom ++
  bytesOf 1 r.home ++ bytesOf 2 r.share ++ bytesOf 1 r.eager ++ bytesOf 1 (r.placeok + bitOf r.nomig * 4) ++ bytesOf 4 r.slice ++
  bytesOf 4 r.waitthr ++ bytesOf 4 r.deadline ++ bytesOf 1 (bitOf r.conf) ++ bytesOf 1 r.hrlog ++ bytesOf 1 r.collog ++ bytesOf 1 0 ++
  bytesOf 8 r.root ++ bytesOf 8 r.hring ++ bytesOf 2 r.keyidx ++ bytesOf 2 r.slots ++ bytesOf 1 r.maxw ++ bytesOf 1 r.lqent ++
  bytesOf 2 r.nsmib ++ bytesOf 2 r.formes ++ bytesOf 2 r.endpts ++ bytesOf 2 r.mctxs ++ bytesOf 2 0 ++ bytesOf 4 r.precv ++
  bytesOf 4 r.pairs ++ bytesOf 2 r.stmib ++ bytesOf 2 r.sttags ++ bytesOf 2 r.wment ++ bytesOf 2 r.distent ++ List.replicate 48 0

/-- The must-be-zero bits of a block, and the limits of the fields it gives; those that only a leaf uses count in a leaf. -/
def State.regionForm (s : State) (idx : Nat) (bs : List Byte) : Bool :=
  let r := parseRegion bs
  let n := leAt bs
  let g := fun (k : Nat) (ok : Bool) => !r.ovr.getLsbD k || ok
  n 0 2 == idx && decide (1 ≤ idx) && fld (n 4 4) 17 15 == 0 && fld (n 8 1) 1 7 == 0 && fld (n 0xF 1) 3 5 == 0 && fld (n 0x1C 1) 1 7 == 0 &&
  zerosAt bs 0x1F 1 && zerosAt bs 0x3E 2 && zerosAt bs 0x50 48 &&
  (r.parent != 0 || fld (n 4 4) 0 17 == 2 ^ 17 - 1) &&
  g 0 (decide (r.prio ≤ 7)) && g 1 (decide (r.fdom ≤ 2)) && g 2 (decide (r.home ≤ 3)) && g 3 (decide (1 ≤ r.share)) &&
  g 4 (decide (1 ≤ r.eager) && decide (r.eager ≤ 64)) && g 5 (r.placeok != 3) && g 6 (decide (14000 ≤ r.slice)) &&
  g 7 (decide (1 ≤ r.waitthr)) && g 8 (decide (7000 ≤ r.deadline)) && g 9 (decide (r.keyidx ≤ 1023)) &&
  g 10 (decide (12 ≤ r.collog) && decide (r.collog ≤ 30) &&
    (!r.leaf || (decide (4 ≤ r.hrlog) && decide (r.hrlog ≤ 12) && r.hring % 4096 == 0 && decide (r.hring < 2 ^ 52)))) &&
  g 11 (r.root % 4096 == 0 && s.physKind r.root == .hbm) &&
  g 12 (decide (r.slots ≤ 512) && decide (1 ≤ r.maxw) && (!r.leaf || decide (r.lqent ≤ 64))) && g 13 (decide (r.nsmib ≤ 1536)) &&
  g 14 (decide (r.formes ≤ 16384) && decide (r.endpts ≤ 16384) && decide (r.mctxs ≤ 4096) && decide (r.precv ≤ 65536) &&
    decide (r.pairs ≤ 1048576)) && g 15 (decide (r.stmib ≤ 512) && decide (r.sttags ≤ 32768)) &&
  g 16 (decide (r.wment ≤ 256) && decide (r.distent ≤ 1024))

/-- A forme entry read from its 64 bytes. -/
def parseForme (bs : List Byte) : Forme :=
  let f := leAt bs 0 2
  { rd := bitAt f 1, wr := bitAt f 2, atom := bitAt f 3, msg := bitAt f 4, srcset := fld f 5 2, rid := leAt bs 2 2, mod := leAt bs 4 2,
    esize := leAt bs 6 1, base := BitVec.ofNat 64 (leAt bs 8 8), ext := (List.range 3).map fun k => leAt bs (0x10 + 4 * k) 4,
    str := (List.range 3).map fun k => sintOf 64 (leAt bs (0x20 + 8 * k) 8), mask := BitVec.ofNat 64 (leAt bs 0x38 8), lent := none }

/-- The 64 bytes of a forme entry. -/
def Forme.bytes (f : Forme) : List Byte :=
  bytesOf 2 (1 + bitOf f.rd * 2 + bitOf f.wr * 4 + bitOf f.atom * 8 + bitOf f.msg * 16 + f.srcset * 32) ++ bytesOf 2 f.rid ++
  bytesOf 2 f.mod ++ bytesOf 2 f.esize ++ bytesOf 8 f.base.toNat ++ f.ext.flatMap (bytesOf 4) ++ bytesOf 4 0 ++
  f.str.flatMap (fun x => bytesOf 8 (wrapTo 64 x)) ++ bytesOf 8 f.mask.toNat

/-- The limits of a forme entry; a confidential region's forme does not serve any module (17 R436). -/
def State.formeForm (s : State) (bs : List Byte) : Bool :=
  let f := parseForme bs
  fld (leAt bs 0 2) 7 9 == 0 && f.srcset != 3 && (f.srcset != 2 || decide (f.mod ≤ 992)) && decide (f.esize ≤ 3) && zerosAt bs 7 1 &&
  decide (f.base.toNat < 2 ^ 47) && f.ext.all (fun e => decide (1 ≤ e) && decide (e < 2 ^ 31)) && zerosAt bs 0x1C 4 &&
  (f.srcset == 1 || f.mask == 0) && !((s.region f.rid).conf && f.srcset == 0)

/-- A distribution entry read from its 32 bytes. -/
def parseDist (bs : List Byte) : DistEntry :=
  { rid := leAt bs 2 2, rowlen := leAt bs 4 4, rows := leAt bs 8 5, blog := leAt bs 0xD 1, nown := leAt bs 0xE 2,
    ownlist := BitVec.ofNat 64 (leAt bs 0x10 8) }

/-- The 32 bytes of a distribution entry. -/
def DistEntry.bytes (e : DistEntry) : List Byte :=
  bytesOf 2 1 ++ bytesOf 2 e.rid ++ bytesOf 4 e.rowlen ++ bytesOf 5 e.rows ++ bytesOf 1 e.blog ++ bytesOf 2 e.nown ++
    bytesOf 8 e.ownlist.toNat ++ bytesOf 8 0

/-- The limits of a distribution entry. -/
def distForm (bs : List Byte) : Bool :=
  let e := parseDist bs
  fld (leAt bs 0 2) 1 15 == 0 && decide (1 ≤ e.rowlen) && decide (e.rowlen ≤ 2 ^ 20) && decide (1 ≤ e.rows) && decide (e.blog ≤ 20) &&
  decide (1 ≤ e.nown) && decide (e.nown ≤ 4096) && e.ownlist.toNat % 4 == 0 && zerosAt bs 0x18 8

/-- A watermark entry read from its 32 bytes. -/
def parseWm (bs : List Byte) : WmEntry :=
  { rid := leAt bs 2 2, esize := fld (leAt bs 0 2) 1 3, scope := fld (leAt bs 0 2) 4 3, base := BitVec.ofNat 64 (leAt bs 8 8),
    count := leAt bs 0x10 8, nelem := leAt bs 0x18 8 }

/-- The 32 bytes of a watermark entry. -/
def WmEntry.bytes (e : WmEntry) : List Byte :=
  bytesOf 2 (1 + e.esize * 2 + e.scope * 16) ++ bytesOf 2 e.rid ++ bytesOf 4 0 ++ bytesOf 8 e.base.toNat ++ bytesOf 8 e.count ++
    bytesOf 8 e.nelem

/-- The limits of a watermark entry of die d: its region is at home there. -/
def State.wmForm (s : State) (d : Nat) (bs : List Byte) : Bool :=
  let e := parseWm bs
  fld (leAt bs 0 2) 7 9 == 0 && decide (e.esize ≤ 3) && decide (e.scope ≤ 4) && zerosAt bs 4 4 && e.base.toNat % 2 ^ e.esize == 0 &&
  decide (e.count < 2 ^ 40) && decide (1 ≤ e.nelem) && decide (e.nelem < 2 ^ 40) &&
  (!s.validRegion e.rid || (s.region e.rid).home == d)

/-! ### Near-store allocations (04 R485) -/

/-- MiB o to o + n of die d's near-store zeroed. -/
def State.nearZero (s : State) (d o n : Nat) : State :=
  (List.range n).foldl (fun s k =>
    let a := nearAddr d ((o + k) * 0x100000)
    { s with mem := Mem.clear s.mem a 0x100000, poison := s.poison.filter fun w => w < a / 64 || a / 64 + 0x4000 ≤ w }) s

/-- The first run of n MiB that no allocation holds, at or above MiB lo. -/
def nsGap (n : Nat) (l : List NsAlloc) : Nat :=
  ((0 :: l.map fun a => a.off / 0x100000 + a.mib).foldl (fun (best : Option Nat) o =>
    if l.all (fun a => o + n ≤ a.off / 0x100000 || a.off / 0x100000 + a.mib ≤ o) then
      (match best with | some b => some (min b o) | none => some o) else best) none).getD 0

/-- The near-store size that holds the allocations of a die where they lie. -/
def nsNeed (l : List NsAlloc) : Nat := (((l.map fun a => a.off / 0x100000 + a.mib).foldl max 0) + 63) / 64

/-- What leaf rid is to hold on die d: its allocation, and its stereotype area on its home die. -/
def State.nsWants (s : State) (rid d : Nat) : List (Bool × Nat) :=
  if (s.region rid).leaf ∧ s.validRegion rid then
    (if (s.region rid).nsmib = 0 then [] else [(false, (s.region rid).nsmib)]) ++
    (if (s.region rid).home = d ∧ (s.region rid).stmib ≠ 0 then [(true, (s.region rid).stmib)] else [])
  else []

/-- n MiB of die d's near-store copied from MiB o to MiB p, with their poison. -/
def State.nearCopy (s : State) (d o p n : Nat) : State :=
  (List.range n).foldl (fun s k =>
    let a := nearAddr d ((o + k) * 0x100000)
    let b := nearAddr d ((p + k) * 0x100000)
    let marks := (s.poison.filter fun w => a / 64 ≤ w && w < a / 64 + 0x4000).map (· - a / 64)
    { s with mem := Mem.paste s.mem b 0x100000 (Mem.slice s.mem a 0x100000), poison := poisonPaste s.poison (b / 64) 0x4000 marks }) s

/-- The tiles of region rid on die d, and the replays that read them, lie n bytes on. -/
def State.shiftTiles (s : State) (rid d : Nat) (f : Nat → Nat) : State :=
  let s := s.modDie d fun x => { x with tags := x.tags.map fun g =>
    if g.rid = rid then { g with inoff := f g.inoff, outoff := f g.outoff } else g }
  { s with cmds := s.cmds.map fun c => match c.body with
    | .stchk a b bl tl st th mt xd (some off) =>
      if s.ridOf c.thr = rid then { c with body := .stchk a b bl tl st th mt xd (some (f off)) } else c
    | _ => c }

/-- An area of region rid on die d grows to m MiB: where it lies, if the run after it is free, and otherwise in a new place that its
tiles move to; what it gains reads zero (assumption log 10). -/
def State.growArea (s : State) (d : Nat) (a : NsAlloc) (m : Nat) : State :=
  let o := a.off / 0x100000
  let rest := (s.die d).allocs.erase a
  let put := fun (s : State) (b : Nat) => s.modDie d fun x => { x with allocs := x.allocs.map fun y => if y = a then { a with off := b, mib := m } else y }
  if rest.all fun b => o + m ≤ b.off / 0x100000 || b.off / 0x100000 + b.mib ≤ o then put (s.nearZero d (o + a.mib) (m - a.mib)) a.off
  else
    let p := nsGap m (s.die d).allocs
    let s := ((s.nearZero d p m).nearCopy d o p a.mib).nearZero d o a.mib
    (put s (p * 0x100000)).shiftTiles a.rid d fun x => x - a.off + p * 0x100000

/-- The allocations of leaf rid on die d made as its block now asks: one that shrinks keeps its place, a stereotype area that grows keeps
its tiles, and a new or larger allocation takes the first run that holds it, and reads zero. A die held off has none (01 R31). -/
def State.nsFit (s : State) (rid d : Nat) : State :=
  let wants := if (s.die d).off then [] else s.nsWants rid d
  let s := ((s.die d).allocs.filter (·.rid == rid)).foldl (fun s a =>
    match wants.find? (·.1 == a.stereo) with
    | some (_, m) =>
      if m = a.mib then s
      else if m < a.mib then
        (s.nearZero d (a.off / 0x100000 + m) (a.mib - m)).modDie d fun x =>
          { x with allocs := x.allocs.map fun b => if b = a then { b with mib := m } else b }
      else if a.stereo then s.growArea d a m
      else (s.nearZero d (a.off / 0x100000) a.mib).modDie d fun x => { x with allocs := x.allocs.erase a }
    | none => (s.nearZero d (a.off / 0x100000) a.mib).modDie d fun x => { x with allocs := x.allocs.erase a }) s
  wants.foldl (fun s (st, m) =>
    if (s.die d).allocs.any fun a => a.rid == rid && a.stereo == st then s
    else
      let o := nsGap m (s.die d).allocs
      (s.nearZero d o m).modDie d fun x => { x with allocs := x.allocs ++ [{ rid, stereo := st, off := o * 0x100000, mib := m }] }) s

/-- Every leaf's allocations on every die, and NS of each die, which only the invalidation of a leaf lowers; none when a die would need NS
above 24. -/
def State.nsAll (s : State) (lower : Bool) : Option State :=
  let rids := s.regions.map (·.1)
  let gone := fun (s : State) (d : Nat) => (((s.die d).allocs.map (·.rid)).filter fun r => !rids.contains r).eraseDups
  let s := (List.range 4).foldl (fun s d => (gone s d ++ rids).foldl (fun s r => s.nsFit r d) s) s
  let s := s.allDies fun x => { x with ns := if lower then nsNeed x.allocs else max x.ns (nsNeed x.allocs) }
  if (List.range 4).any fun d => decide (24 < (s.die d).ns) then none else some s

/-! ### Budgets (07 R178) -/

/-- Endpoints and message contexts of region r. -/
def State.endptsUsed (s : State) (r : Nat) : Nat := (s.endpoints.filter (·.2.rid == r)).length
/-- Message contexts of region r. -/
def State.mctxsUsed (s : State) (r : Nat) : Nat := (s.mctxs.filter (·.2.rid == r)).length
/-- Distribution entries of region r on die d. -/
def State.distUsed (s : State) (d r : Nat) : Nat := ((s.die d).dist.filter (·.2.rid == r)).length
/-- Watermark entries of region r. -/
def State.wmUsed (s : State) (r : Nat) : Nat := ((List.range 4).map fun d => ((s.die d).wmarks.filter (·.2.rid == r)).length).sum

/-- Every budget of region r covers what its subtree now uses: on each die, where the budget is per die. -/
def State.budgetHolds (s : State) (r : Nat) : Bool :=
  let sub := s.subtree r
  let b := s.region r
  let use := fun (f : Nat → Nat) => (sub.map f).sum
  let leaf := fun (f : Region → Nat) => fun (j : Nat) => if (s.region j).leaf then f (s.region j) else 0
  decide (use (s.slotsUsed []) ≤ b.slots) && decide (use (leaf (·.nsmib)) ≤ b.nsmib) && decide (use s.formesUsed ≤ b.formes) &&
  decide (use s.endptsUsed ≤ b.endpts) && decide (use s.mctxsUsed ≤ b.mctxs) && decide (use s.tagsUsed ≤ b.sttags) &&
  decide (use s.wmUsed ≤ b.wment) &&
  (!b.leaf || decide ((s.lqueue r).tokens.length ≤ b.lqent)) &&
  (List.range 4).all fun d =>
    decide (use (s.postedUsed d) ≤ b.precv) && decide (use (s.pairsUsed d) ≤ b.pairs) && decide (use (s.distUsed d) ≤ b.distent) &&
    decide (use (fun j => if (s.region j).home = d then leaf (·.stmib) j else 0) ≤ b.stmib)

/-! ### Region blocks (07 R176, R177) -/

/-- Region rid has a team that has not ended. -/
def State.hasTeam (s : State) (rid : Nat) : Bool := s.teams.any fun tm => tm.rid == rid && tm.state != .ended

/-- Region rid has tags in a stereotype cache. -/
def State.hasTags (s : State) (rid : Nat) : Bool := s.dies.toList.any fun d => d.tags.any fun g => g.rid == rid && g.charged

/-- Region rid holds near-store. -/
def State.hasNear (s : State) (rid : Nat) : Bool := s.dies.toList.any fun d => d.allocs.any (·.rid == rid)

/-- The watermark entries of region rid move to its new home die, at the same index; none when one is taken there. -/
def State.moveWms (s : State) (rid old new : Nat) : Option State :=
  let l := (s.die old).wmarks.filter (·.2.rid == rid)
  if l.any fun e => (Tbl.find e.1 (s.die new).wmarks).isSome then none
  else
    let s := s.modDie old fun x => { x with wmarks := x.wmarks.filter (·.2.rid != rid) }
    some (s.modDie new fun x => { x with wmarks := l.foldl (fun t e => Tbl.insert e.1 e.2 t) x.wmarks })

/-- The homes that a write has changed: their watermark entries move. -/
def State.moveHomes (s old : State) (rids : List Nat) : Option State :=
  rids.foldl (fun (acc : Option State) r => acc.bind fun s =>
    if (old.region r).home = (s.region r).home then some s else s.moveWms r (old.region r).home (s.region r).home) (some s)

/-- A region block written at an index: the error code, or the state with the new block, its allocations and its queue. Its limits may
have given host rings room (06 R149). -/
def State.writeRegion (s : State) (idx : Nat) (bs : List Byte) : Except Nat State :=
  let r := parseRegion bs
  if 4096 ≤ idx then .error 2
  else if ¬ s.regionForm idx bs then .error 1
  else
    let old := Tbl.find idx s.regions
    let kids := s.regions.any fun e => e.2.parent == idx
    if r.parent ≠ 0 ∧ (¬ s.validRegion r.parent ∨ (s.region r.parent).leaf) then .error 3
    else if old.isSome ∧ (s.regions.any fun e => e.1 == idx && e.2.parent != r.parent) then .error 5
    else if r.parent = 0 ∧ (s.regions.any fun e => e.2.parent == 0 && e.1 != idx) then .error 5
    else if r.leaf ∧ kids then .error 5
    else if old.isSome ∧ (s.region idx).leaf ∧ ¬ r.leaf ∧ ((s.lqueue idx).tokens ≠ [] ∨ s.hasTeam idx) then .error 5
    else
      let n : State := { s with
        regions := Tbl.insert idx r s.regions
        lqueues := if r.leaf then (match Tbl.find idx s.lqueues with | some _ => s.lqueues | none => Tbl.insert idx LaunchQ.reset s.lqueues)
          else Tbl.erase idx s.lqueues
        stcounts := match Tbl.find idx s.stcounts with
          | some _ => s.stcounts
          | none => Tbl.insert idx { hit := 0, miss := 0, evict := 0 } s.stcounts }
      let sub := if old.isSome then s.subtree idx else []
      let placed := sub.any fun j => s.slotsUsed [] j != 0
      let changed := fun (j : Nat) (f : Region → Nat) => f (s.region j) != f (n.region j)
      if (sub.any fun j => changed j fun x => bitOf x.nomig) ∧ placed then .error 5
      else if (sub.any fun j => changed j fun x => bitOf x.conf) ∧ (sub.any fun j => s.hasTeam j || s.hasNear j || s.hasTags j) then .error 5
      else if sub.any fun j => changed j (·.home) && ((s.lqueue j).tokens != [] || s.slotsUsed [] j != 0 || s.hasTags j) then .error 5
      else if sub.any fun j => (s.region j).leaf && (decide ((n.region j).nsmib < (s.region j).nsmib) || decide ((n.region j).stmib < (s.region j).stmib)) &&
          (s.hasTeam j || s.hasTags j) then .error 5
      else if ¬ ((n.subtree idx ++ n.chain idx).all n.budgetHolds) then .error 4
      else match n.moveHomes s sub with
        | none => .error 5
        | some n => match n.nsAll false with
          | none => .error 4
          | some n => .ok ((List.range 4).foldl State.rereadRings n)

/-- A region's key slot is emptied, and its owner's key forgotten (17 R435). -/
def State.dropKey (s : State) (rid : Nat) : State :=
  if ¬ (s.region rid).conf then s
  else { s with mgmt := { s.mgmt with keys := Tbl.erase (s.region rid).keyidx s.mgmt.keys, owners := Tbl.erase (s.region rid).keyidx s.mgmt.owners } }

/-- A region invalidated: its stereotype entries, allocations, queue, counters and key go (04 R485, 07 R197, 17 R435). -/
def State.dropRegion (s : State) (idx : Nat) : Except Nat State :=
  if 4096 ≤ idx then .error 2
  else if ¬ s.validRegion idx then .error 3
  else if (s.regions.any fun e => e.2.parent == idx) ∨ (s.lqueue idx).tokens ≠ [] ∨ s.hasTeam idx ∨ s.formesUsed idx ≠ 0 ∨
      s.endptsUsed idx ≠ 0 ∨ s.mctxsUsed idx ≠ 0 ∨ s.wmUsed idx ≠ 0 ∨ ((List.range 4).any fun d => s.distUsed d idx != 0) then .error 5
  else
    let s := (s.dropKey idx).allDies fun d => { d with tags := d.tags.filter (·.rid != idx) }
    let s := { s with regions := Tbl.erase idx s.regions, lqueues := Tbl.erase idx s.lqueues, stcounts := Tbl.erase idx s.stcounts }
    match s.nsAll true with
    | some s => .ok s
    | none => .error 4

/-! ### The other tables (07 R181-R191, R206-R208) -/

/-- A forme invalidated. -/
def State.dropForme (s : State) (idx : Nat) : Except Nat State :=
  match Tbl.find idx s.formes with
  | none => .error (if idx < 16384 then 3 else 2)
  | some f => if f.msg then .error 5 else .ok { s with formes := Tbl.erase idx s.formes }

/-- A forme written. An image with MSG set is taken into an empty index, and the entry serves payload reads alone (assumption log
106). -/
def State.writeForme (s : State) (idx : Nat) (bs : List Byte) : Except Nat State :=
  let f := parseForme bs
  if 16384 ≤ idx then .error 2
  else if ¬ s.formeForm bs then .error 1
  else if ¬ s.validRegion f.rid then .error 3
  else match Tbl.find idx s.formes with
    | some o =>
      if o.msg then .error 5 else if o.rid ≠ f.rid then .error 6
      else if ¬ bitAt (leAt bs 0 2) 0 then s.dropForme idx
      else .ok { s with formes := Tbl.insert idx f s.formes }
    | none =>
      if ¬ bitAt (leAt bs 0 2) 0 then .ok s
      else if ¬ s.fits f.rid (·.formes) s.formesUsed 1 then .error 4 else .ok { s with formes := Tbl.insert idx f s.formes }

/-- A distribution entry of die d invalidated. -/
def State.dropDist (s : State) (d idx : Nat) : Except Nat State :=
  if 1024 ≤ idx then .error 2
  else if (Tbl.find idx (s.die d).dist).isNone then .error 3 else .ok (s.modDie d fun x => { x with dist := Tbl.erase idx x.dist })

/-- A distribution entry of die d written. -/
def State.writeDist (s : State) (d idx : Nat) (bs : List Byte) : Except Nat State :=
  let e := parseDist bs
  let put := s.modDie d fun x => { x with dist := Tbl.insert idx e x.dist }
  if 1024 ≤ idx then .error 2
  else if ¬ distForm bs then .error 1
  else if ¬ s.validRegion e.rid then .error 3
  else match Tbl.find idx (s.die d).dist with
    | some o => if o.rid ≠ e.rid then .error 6 else if ¬ bitAt (leAt bs 0 2) 0 then s.dropDist d idx else .ok put
    | none => if ¬ bitAt (leAt bs 0 2) 0 then .ok s else if ¬ s.fits e.rid (·.distent) (s.distUsed d) 1 then .error 4 else .ok put

/-- A watermark entry of die d invalidated. -/
def State.dropWm (s : State) (d idx : Nat) : Except Nat State :=
  if 256 ≤ idx then .error 2
  else if (Tbl.find idx (s.die d).wmarks).isNone then .error 3 else .ok (s.modDie d fun x => { x with wmarks := Tbl.erase idx x.wmarks })

/-- A watermark entry of die d written; a launch that waits for its count is looked at again. -/
def State.writeWm (s : State) (d idx : Nat) (bs : List Byte) : Except Nat State :=
  let e := parseWm bs
  let put := (s.modDie d fun x => { x with wmarks := Tbl.insert idx e x.wmarks }).postOnce .launchQueueHead e.rid
  if 256 ≤ idx then .error 2
  else if ¬ s.wmForm d bs then .error 1
  else if ¬ s.validRegion e.rid then .error 3
  else match Tbl.find idx (s.die d).wmarks with
    | some o => if o.rid ≠ e.rid then .error 6 else if ¬ bitAt (leAt bs 0 2) 0 then s.dropWm d idx else .ok put
    | none => if ¬ bitAt (leAt bs 0 2) 0 then .ok s else if ¬ s.fits e.rid (·.wment) s.wmUsed 1 then .error 4 else .ok put

/-- The headers and receives that wait at a destination endpoint, or in a context. -/
def State.msgBusy (s : State) (ofHdr : UnexpHdr → Bool) (ofPost : Nat → RecvBlk → Bool) : Bool :=
  s.dies.toList.any fun d => d.unexp.any ofHdr || d.posted.any fun c => match s.postedRecv c with | some (k, b) => ofPost k b | none => false

/-- An endpoint invalidated: the pairs it was the source of are freed. -/
def State.dropEndpoint (s : State) (idx : Nat) : Except Nat State :=
  if 16384 ≤ idx then .error 2
  else if (Tbl.find idx s.endpoints).isNone then .error 3
  else if s.msgBusy (·.msg.dep == idx) fun _ b => b.ep == idx then .error 5
  else
    let s := s.allDies fun d => { d with pairs := d.pairs.filter fun p => !(p.smod == s.moduleNo && p.sep == idx) }
    .ok { s with endpoints := Tbl.erase idx s.endpoints, pairSend := s.pairSend.filter fun e => e.1 / 16384 / 1024 != idx }

/-- An endpoint written from its 8 bytes. -/
def State.writeEndpoint (s : State) (idx : Nat) (w : Nat) : Except Nat State :=
  let e : Endpoint := { moving := false, die := fld w 56 2, mctx := fld w 32 12, rid := fld w 0 16 }
  let put := { s with endpoints := Tbl.insert idx e s.endpoints }
  if 16384 ≤ idx then .error 2
  else if fld w 58 5 ≠ 0 ∨ fld w 44 12 ≠ 0 ∨ fld w 16 16 ≠ 0 then .error 1
  else if ¬ s.validRegion e.rid then .error 3
  else match Tbl.find idx s.endpoints with
    | some o =>
      if o.rid ≠ e.rid then .error 6
      else if ¬ bitAt w 63 then s.dropEndpoint idx
      else match Tbl.find e.mctx s.mctxs with
        | none => .error 3
        | some c => if c.rid ≠ e.rid then .error 6 else if c.die ≠ e.die then .error 3 else .ok put
    | none =>
      if ¬ bitAt w 63 then .ok s
      else match Tbl.find e.mctx s.mctxs with
        | none => .error 3
        | some c =>
          if c.rid ≠ e.rid then .error 6 else if c.die ≠ e.die then .error 3
          else if ¬ s.fits e.rid (·.endpts) s.endptsUsed 1 then .error 4 else .ok put

/-- A message context invalidated: its pairs and its reserved slots are freed. -/
def State.dropMctx (s : State) (idx : Nat) : Except Nat State :=
  if 4096 ≤ idx then .error 2
  else if (Tbl.find idx s.mctxs).isNone then .error 3
  else if s.msgBusy (·.mctx == idx) fun k _ => k == idx then .error 5
  else .ok ({ s with mctxs := Tbl.erase idx s.mctxs }.allDies fun d => { d with
    pairs := d.pairs.filter (·.mctx != idx), reserve := Tbl.erase idx d.reserve, recs := d.recs.filter (·.1 != idx) })

/-- The header slots that a context takes on its die: one for each module of the fabric (06 R164). -/
def State.slotsPerCtx (s : State) : Nat := let q := getField s.fab.fabcfg 16 5; q * q + q + 1

/-- A message context written from its 8 bytes, with its header slots. -/
def State.writeMctx (s : State) (idx : Nat) (w : Nat) : Except Nat State :=
  let c : MCtx := { die := fld w 56 2, rid := fld w 0 16 }
  let old := Tbl.find idx s.mctxs
  let x := s.die c.die
  let room := (x.unexp.filter (!·.reserved)).length + (x.reserve.map (·.2)).sum + s.slotsPerCtx ≤ 262144
  let put := State.modDie { s with mctxs := Tbl.insert idx c s.mctxs } c.die fun d => { d with reserve := Tbl.insert idx s.slotsPerCtx d.reserve }
  if 4096 ≤ idx then .error 2
  else if fld w 58 5 ≠ 0 ∨ fld w 16 40 ≠ 0 then .error 1
  else if ¬ s.validRegion c.rid then .error 3
  else match old with
    | some o =>
      if o.rid ≠ c.rid then .error 6
      else if ¬ bitAt w 63 then s.dropMctx idx
      else if o.die = c.die then .ok s
      else if s.msgBusy (·.mctx == idx) fun k _ => k == idx then .error 5
      else if ¬ room then .error 4
      else .ok (put.modDie o.die fun d => { d with reserve := Tbl.erase idx d.reserve, pairs := d.pairs.filter (·.mctx != idx) })
    | none =>
      if ¬ bitAt w 63 then .ok s
      else if ¬ s.fits c.rid (·.mctxs) s.mctxsUsed 1 then .error 4
      else if ¬ room then .error 4 else .ok put

/-! ### The commands (07 R173) -/

/-- The result of a table command of die d: the state it leaves, and ERR. -/
def State.tableResult (s : State) (d : Nat) (r : Except Nat State) : State :=
  let q := match r with | .ok s' => (s', 0) | .error c => (s, c)
  q.1.modDie d fun x => { x with tblstat := putField (putBit x.tblstat 0 false) 8 8 q.2 }

/-- A table command with an OP waits on die d. -/
def State.tableBusy (s : State) (d op : Nat) : Bool := decide (d < 4) && getBit (s.die d).tblstat 0 && getField (s.die d).tblRun.1 4 2 == op

/-- TABLE and INDEX of die d's command, as they stood at GO. -/
def State.tableArgs (s : State) (d : Nat) : Nat × Nat := (getField (s.die d).tblRun.1 8 4, getField (s.die d).tblRun.1 12 20)

/-- Entry i of table t, written whole: a distribution or watermark entry on die d, any other in all four copies (04 R111, 07 R173). -/
def State.healEntry (s : State) (d t i : Nat) : State :=
  s.heal fun u => match u with | .table k a j => a == t && j == i && (k == d || !(t == 2 || t == 3)) | _ => false

/-- TABLE_WRITE. -/
def execTableWrite (die : Nat) (s : State) : Out :=
  eventExec s (if ¬ s.tableBusy die 0 then none
    else
      let (t, i) := s.tableArgs die
      let img := fun (n : Nat) => Mem.read s.mem (s.die die).tblRun.2.toNat n
      some (s.tableResult die ((match t with
        | 0 => s.writeRegion i (img 128)
        | 1 => s.writeForme i (img 64)
        | 2 => s.writeDist die i (img 32)
        | 3 => s.writeWm die i (img 32)
        | 4 => s.writeEndpoint i (leNat (img 8))
        | _ => s.writeMctx i (leNat (img 8))).map fun s => State.healEntry s die t i)))

/-- TABLE_INVALIDATE. -/
def execTableInvalidate (die : Nat) (s : State) : Out :=
  eventExec s (if ¬ s.tableBusy die 1 then none
    else
      let (t, i) := s.tableArgs die
      some (s.tableResult die ((match t with
        | 0 => s.dropRegion i
        | 1 => s.dropForme i
        | 2 => s.dropDist die i
        | 3 => s.dropWm die i
        | 4 => s.dropEndpoint i
        | _ => s.dropMctx i).map fun s => State.healEntry s die t i)))

/-- The image of entry i of table t on die d: an error code, or its bytes. A message forme gives none (07 R183). -/
def State.tableImage (s : State) (d t i : Nat) : Except Nat (List Byte) :=
  let get := fun (n : Nat) (b : Option (List Byte)) => if n ≤ i then .error 2 else match b with | some b => .ok b | none => .error 3
  match t with
  | 0 => get 4096 ((Tbl.find i s.regions).map (Region.bytes i))
  | 1 => if (Tbl.find i s.formes).any (·.msg) then .error 5 else get 16384 ((Tbl.find i s.formes).map Forme.bytes)
  | 2 => get 1024 ((Tbl.find i (s.die d).dist).map DistEntry.bytes)
  | 3 => get 256 ((Tbl.find i (s.die d).wmarks).map WmEntry.bytes)
  | 4 => get 16384 ((Tbl.find i s.endpoints).map fun e =>
      bytesOf 8 (2 ^ 63 + bitOf e.moving * 2 ^ 61 + e.die % 4 * 2 ^ 56 + e.mctx % 4096 * 2 ^ 32 + e.rid % 65536))
  | _ => get 4096 ((Tbl.find i s.mctxs).map fun c => bytesOf 8 (2 ^ 63 + c.die % 4 * 2 ^ 56 + c.rid % 65536))

/-- TABLE_READ. -/
def execTableRead (die : Nat) (s : State) : Out :=
  eventExec s (if ¬ s.tableBusy die 2 then none
    else
      let (t, i) := s.tableArgs die
      some (s.tableResult die (match s.tableImage die t i with
        | .error c => .error c
        | .ok bs => .ok (s.physWrite (s.die die).tblRun.2.toNat bs))))

/-! ### Translation invalidation (04 R107) -/

/-- A cached translation of region r whose pages overlap [lo, hi), by its key. -/
def tlbOverlaps (r lo hi key : Nat) : Bool :=
  let z := key % 64
  let page := key / 64 % 2 ^ 36
  key / 64 / 2 ^ 36 == r && decide (page * 2 ^ z < hi) && decide (lo < (page + 1) * 2 ^ z)

/-- The cached translations of every level kept by a test of their keys, and the walk caches by one of their regions. -/
def State.tlbKeep (s : State) (keep walk : Nat → Bool) : State :=
  let kept := fun (t : Tbl TlbEntry) => t.filter fun e => keep e.1
  let s := s.allDies fun d => { d with tlb := kept d.tlb, walks := d.walks.filter fun e => walk (e.1 / 2 ^ 38) }
  { s with clusters := s.clusters.map fun (k, c) =>
      (k, { c with utlb := c.utlb.map fun (j, t) => (j, kept t), gtlb := c.gtlb.map fun (j, t) => (j, kept t) }) }

/-- An invalidation command of die d with SCOPE sc ends, for region r or for all. -/
def State.endXli (s : State) (d sc : Nat) (keep : Nat → Bool) (walk : Nat → Bool) : Option State :=
  if 4 ≤ d ∨ ¬ getBit (s.die d).xlistat 0 ∨ getField (s.die d).xliRun.1 1 2 ≠ sc then none
  else some ((s.tlbKeep keep walk).modDie d fun x => { x with xlistat := putBit x.xlistat 0 false })

/-- REGION of die d's invalidation command. -/
def State.xliRegion (s : State) (d : Nat) : Nat := getField (s.die d).xliRun.1 16 16

/-- TLB_INVALIDATE_ALL. -/
def execTlbInvalidateAll (die : Nat) (s : State) : Out := eventExec s (s.endXli die 0 (fun _ => false) fun _ => false)

/-- TLB_INVALIDATE_REGION. -/
def execTlbInvalidateRegion (die : Nat) (s : State) : Out :=
  eventExec s (s.endXli die 1 (fun k => k / 64 / 2 ^ 36 != s.xliRegion die) fun r => r != s.xliRegion die)

/-- TLB_INVALIDATE_RANGE. -/
def execTlbInvalidateRange (die : Nat) (s : State) : Out :=
  let lo := (s.die die).xliRun.2.1.toNat
  let hi := lo + (s.die die).xliRun.2.2.toNat * 4096
  eventExec s (s.endXli die 2 (fun k => !tlbOverlaps (s.xliRegion die) lo hi k) fun r => r != s.xliRegion die)

/-! ### Debug entries (08 R226, 17 R431) -/

/-- The thread context of die d that DBGSEL names: one that is resident there, or that was saved there. -/
def State.dbgThread (s : State) (d : Nat) : Option Nat :=
  (List.range s.threads.length).find? fun t =>
    (s.th t).kind != .supervisor && (s.th t).sys.ctxid == (s.die d).dbgRun.2.1 && (s.mbOf t).die == d && (s.tm (s.th t).team).state != .ended

/-- The address of debug entry e of thread t in its member's save area. -/
def State.dbgArea (s : State) (t e : Nat) : Nat := (s.mbOf t).saveBase + 0xBC0 + (s.th t).areaSlot * 192 + 16 * e

/-- The bits that entry e holds of two words: CHAN only for ENG = 1. -/
def dbgMask (e : Nat) (w0 w1 : Word) : Word × Word :=
  (w0 &&& 0xFFFFFFFFFFFD, if e < 8 then 0 else w1 &&& (if getField w1 32 4 = 1 then 0x7FFFFFFFFF else 0xFFFFFFFFF))

/-- A debug command of die d with OP op ends: f changes the state for the context and the entry named. -/
def State.endDebug (s : State) (d : Nat) (op : Bool) (f : Nat → Nat → State) : Option State :=
  if 4 ≤ d ∨ ¬ getBit (s.die d).dbgctl 3 ∨ getBit (s.die d).dbgRun.1 1 ≠ op then none
  else
    let e := (s.die d).dbgRun.2.2.1.toNat
    match s.dbgThread d, decide (e < 12) with
    | some t, true => some ((f t e).modDie d fun x => { x with dbgctl := putBit (putBit x.dbgctl 3 false) 2 false })
    | _, _ => some (s.modDie d fun x => { x with dbgctl := putBit (putBit x.dbgctl 3 false) 2 true })

/-- DEBUG_ENTRY_WRITE: into the context, or into the save area of one that is off-core. -/
def execDebugEntryWrite (die : Nat) (s : State) : Out :=
  eventExec s (s.endDebug die false fun t e =>
    let w := dbgMask e (s.die die).dbgRun.2.2.2.1 (s.die die).dbgRun.2.2.2.2
    let s := s.modTh t fun th =>
      if e < 8 then { th with dbgPc := vset th.dbgPc e w } else { th with dbgEng := vset th.dbgEng (e - 8) w }
    if (s.tm (s.th t).team).state = .saved then s.physWrite (s.dbgArea t e) (wordsBytes [w.1, w.2]) else s)

/-- DEBUG_ENTRY_READ. -/
def execDebugEntryRead (die : Nat) (s : State) : Out :=
  eventExec s (s.endDebug die true fun t e =>
    let w := if (s.tm (s.th t).team).state = .saved then (s.word (s.dbgArea t e), s.word (s.dbgArea t e + 8))
      else if e < 8 then vget (s.th t).dbgPc e (0, 0) else vget (s.th t).dbgEng (e - 8) (0, 0)
    s.modDie die fun x => { x with dbgw0 := w.1, dbgw1 := w.2 })

end Sys2Proof.Machine
end

