-- ==== Sys2Proof/Machine/EventsFabric.lean ====
section
/-! DEFINITION. The fabric: the polarity graph and its ports (17 R418-R420, R428), routing tables and their swap (17 R421-R427),
remote operations at both ends (05 R134, 07 R183, 13 R332, 17 R424, R427), and messages (06 R161-R164, 14 R486, 17 R417). -/

namespace Sys2Proof.Machine

/-! ### The polarity graph (17 R418, R419) -/

/-- A field of order q: its characteristic, its degree, and the low coefficients of x^k as a polynomial. -/
def fieldOf (q : Nat) : Nat × Nat × List Nat :=
  match q with
  | 8 => (2, 3, [1, 1, 0])
  | 9 => (3, 2, [2, 0])
  | 16 => (2, 4, [1, 1, 0, 0])
  | 25 => (5, 2, [3, 0])
  | 27 => (3, 3, [2, 1, 0])
  | p => (p, 1, [0])

/-- The k base-p digits of a, lowest first. -/
def digits (p : Nat) : Nat → Nat → List Nat
  | 0, _ => []
  | k + 1, a => a % p :: digits p k (a / p)

/-- The number with the digits. -/
def ofDigits (p : Nat) (l : List Nat) : Nat := l.foldr (fun d n => d + p * n) 0

/-- Sum of two field elements. -/
def fieldAdd (q a b : Nat) : Nat :=
  let (p, k, _) := fieldOf q
  ofDigits p (((digits p k a).zip (digits p k b)).map fun (x, y) => (x + y) % p)

/-- x times a polynomial of k digits, reduced. -/
def timesX (p : Nat) (red l : List Nat) : List Nat :=
  let top := l.getLastD 0
  ((0 :: l.dropLast).zip red).map fun (d, r) => (d + top * r) % p

/-- Product of two field elements. -/
def fieldMul (q a b : Nat) : Nat :=
  let (p, k, red) := fieldOf q
  if k = 1 then a * b % p
  else
    let r := (digits p k b).foldl (fun (acc : List Nat × List Nat) d =>
      ((acc.1.zip acc.2).map (fun (s, x) => (s + d * x) % p), timesX p red acc.2)) (List.replicate k 0, digits p k a)
    ofDigits p r.1

/-- The coordinates of module m. -/
def pointOf (q m : Nat) : Nat × Nat × Nat :=
  if m < q * q then (1, m / q, m % q) else if m < q * q + q then (0, 1, m - q * q) else (0, 0, 1)

/-- Modules u and v are linked. -/
def linked (q u v : Nat) : Bool :=
  let (a, b, c) := pointOf q u
  let (x, y, z) := pointOf q v
  u != v && fieldAdd q (fieldAdd q (fieldMul q a x) (fieldMul q b y)) (fieldMul q c z) == 0

/-- The neighbours of module m, in ascending order. -/
def neighbours (q m : Nat) : List Nat := (List.range (q * q + q + 1)).filter (linked q m)

/-- The port of the neighbour of rank k. -/
def rankPort (k : Nat) : Nat := 8 * (k % 4) + k / 4

/-- The fabric's order; 0 when it is off. -/
def State.order (s : State) : Nat := getField s.fab.fabcfg 16 5

/-- The neighbour that port n is cabled to. -/
def State.expected (s : State) (n : Nat) : Option Nat :=
  if s.order = 0 then none
  else ((neighbours s.order s.moduleNo).zipIdx.find? fun e => rankPort e.2 == n).map (·.1)

/-- The port cabled to module v. -/
def State.portTo (s : State) (v : Nat) : Option Nat :=
  ((neighbours s.order s.moduleNo).zipIdx.find? fun e => e.1 == v).map fun e => rankPort e.2

/-! ### Link states (17 R428) -/

/-- A unit of a kind, as an alert names it: 0 a pseudo-channel, 1 a home slice, 2 a lane, 3 a cluster, 4 a sector the scrub could not
correct, 5 a port that did not train, 6 a port that is MISWIRED. -/
def unitKey (kind unit : Nat) : Nat := kind * 2 ^ 52 + unit

/-- PORT_TRAINING: the port comes UP, or is MISWIRED and reported; one that does not train is DOWN, withdrawn and reported (01 R31, 17 R415). A port
with no neighbour is powered down and does not train: the spec ties no STATE to it, and it keeps the reset value DOWN (DESIGN CHOICE,
01 R26, assumption log 108). -/
def execPortTraining (port nbr width : Nat) (trained : Bool) (s : State) : Out :=
  eventExec s (match s.expected port with
    | none => none
    | some v =>
      if 32 ≤ port ∨ (vget s.ports port Port.reset).state = .off ∨ (vget s.ports port Port.reset).state = .up ∨
          (trained ∧ width ≠ 1 ∧ width ≠ 2 ∧ width ≠ 4) then none
      else if ¬ trained then
        some (State.modPort { s with mgmt := { s.mgmt with alerts := s.mgmt.alerts ++ [unitKey 5 port] } } port fun p =>
          { p with state := .down, width := 0, wdraw := true })
      else
        let alerts := if nbr = v then s.mgmt.alerts else s.mgmt.alerts ++ [unitKey 6 port]
        some (State.modPort { s with mgmt := { s.mgmt with alerts } } port fun p =>
          { p with state := if nbr = v then .up else .miswired, nbr := nbr % 1024, width }))

/-- A packet that this router cannot forward: NAK to its source, on the response class; its own goes back to its unit, which injects
it again (17 R427). -/
def State.nakPacket (s : State) (p : Packet) : State :=
  if p.src = s.moduleNo then (if p.cls = 1 then s.emit { p with gen := s.genNow, hop := 0, phase := false } else
    (({ p with hop := 0, phase := false, gen := s.genNow, via := 0x3FF } : Packet) |> s.emit))
  else s.emit (s.packetTo p.src 1 (3 :: p.body.take 8))

/-- PORT_DOWN: the packets queued to it are answered NAK. -/
def execPortDown (port : Nat) (s : State) : Out :=
  eventExec s (
    let s := s.transmit port
    let p := vget s.ports port Port.reset
    if 32 ≤ port ∨ p.state = .down ∨ p.state = .off then none
    else some (p.queue.foldl State.nakPacket (s.modPort port fun p => { p with state := .down, width := 0, queue := [] })))

/-- PORT_WIDTH_LOSS: the port stays UP while it holds every reserve, and goes to MGMT otherwise. -/
def execPortWidthLoss (port width : Nat) (reservesHeld : Bool) (s : State) : Out :=
  let p := vget s.ports port Port.reset
  eventExec s (if 32 ≤ port ∨ p.state ≠ .up ∨ (width ≠ 1 ∧ width ≠ 2) ∨ p.width ≤ width then none
    else some (s.modPort port fun p => { p with width, state := if reservesHeld then .up else .mgmt }))

/-! ### Routing tables (17 R421, R425) -/

/-- The 32 bytes of a routing entry: none for V = 0. -/
def parseRoute (bs : List Byte) : Option Route :=
  let w := leAt bs 0 8
  if bitAt w 63 then
    some { direct := bitAt w 62, minport := fld w 52 5, minvia := fld w 42 10, minw := fld w 38 4,
           slots := (List.range (fld w 32 4)).map fun k => (fld (leAt bs (8 + 2 * k) 2) 0 10, fld (leAt bs (8 + 2 * k) 2) 10 4) }
  else none

/-- The 32 bytes of an entry. -/
def Route.bytes (r : Route) : List Byte :=
  bytesOf 8 (2 ^ 63 + bitOf r.direct * 2 ^ 62 + r.minport * 2 ^ 52 + r.minvia * 2 ^ 42 + r.minw * 2 ^ 38 + r.slots.length * 2 ^ 32) ++
  (let l := r.slots.flatMap fun (v, w) => bytesOf 2 (v % 1024 + w * 1024)
   l ++ List.replicate (24 - l.length) 0)

/-- The rules of R421 on the entry for module dst. -/
def State.routeOk (s : State) (dst : Nat) (bs : List Byte) : Bool :=
  let w := leAt bs 0 8
  let q := s.order
  let all := q * q + q + 1
  fld w 57 5 == 0 && fld w 36 2 == 0 && fld w 0 32 == 0 && decide (fld w 32 4 ≤ 8) && zerosAt bs 0x18 8 && decide (dst ≤ 992) &&
  zerosAt bs (8 + 2 * fld w 32 4) (16 - 2 * fld w 32 4) &&
  match parseRoute bs with
  | none => true
  | some r =>
    dst != s.moduleNo && decide (dst < all) &&
    (if r.direct then r.minvia == 0 && s.portTo dst == some r.minport
     else s.portTo r.minvia == some r.minport && linked q r.minvia dst) &&
    (List.range r.slots.length).all (fun k => fld (leAt bs (8 + 2 * k) 2) 14 2 == 0) &&
    r.slots.all fun e => e.1 != s.moduleNo && e.1 != dst && decide (e.1 < all)

/-- A routing command with an OP waits, its registers as they stood at GO. -/
def State.rtBusy (s : State) (op : Nat) : Bool := getBit s.fab.rtstat 0 && getField s.fab.rtRun.1 2 2 == op

/-- The routing command ends, with ERR. -/
def State.endRt (s : State) (err : Bool) : State :=
  { s with fab := { s.fab with rtstat := putBit s.fab.rtstat 0 false, rtctl := putBit s.fab.rtctl 1 err } }

/-- RT_WRITE_STANDBY. -/
def execRtWriteStandby (s : State) : Out :=
  eventExec s (if ¬ s.rtBusy 0 then none
    else
      let dst := getField s.fab.rtRun.1 22 10
      let bs := Mem.read s.mem s.fab.rtRun.2.toNat 32
      if ¬ s.routeOk dst bs then some (s.endRt true)
      else some (State.endRt { s with fab := { s.fab with standby := match parseRoute bs with
        | some r => Tbl.insert dst r s.fab.standby
        | none => Tbl.erase dst s.fab.standby } } false))

/-- RT_READ_ACTIVE. -/
def execRtReadActive (s : State) : Out :=
  eventExec s (if ¬ s.rtBusy 1 then none
    else
      let bs := match Tbl.find (getField s.fab.rtRun.1 22 10) s.fab.active with | some r => r.bytes | none => List.replicate 32 0
      some ((s.physWrite s.fab.rtRun.2.toNat bs).endRt (getBit s.fab.rtctl 1)))

/-! ### The swap (17 R426) -/

/-- The modules present: those an entry of either table reaches, and this one. -/
def State.present (s : State) : NSet := NSet.add s.moduleNo ((s.fab.active ++ s.fab.standby).foldl (fun t e => NSet.add e.1 t) [])

/-- A management message to every neighbour: SWAPSTART, or DRAINED, of a module. -/
def State.sendMgmt (s : State) (drained : Bool) (origin : Nat) : State :=
  { s with fab := { s.fab with sentMgmt := s.fab.sentMgmt ++ [(drained, origin)] } }

/-- Every module is DRAINED: STANDBY becomes ACTIVE, GENACT advances, and withdrawn ports go OFF. -/
def State.finishSwap (s : State) : State :=
  if ¬ getBit s.fab.rtstat 2 ∨ ¬ s.present.all fun m => NSet.mem m s.fab.draineds then s
  else
    let off := fun (p : Port) => if p.wdraw then { p with state := .off, width := 0 } else p
    { s with
      ports := s.ports.map off
      fab := { s.fab with
        active := s.fab.standby, swapStarts := [], draineds := [], sentDrained := false
        rtstat := putBit (putField s.fab.rtstat 16 8 (getField s.fab.rtstat 16 8 + 1)) 2 false } }

/-- No packet of the old generation stands in a queue, and every SWAPSTART has come. -/
def State.oldDrained (s : State) : Bool :=
  getBit s.fab.rtstat 2 && !s.fab.sentDrained && s.present.all (fun m => NSet.mem m s.fab.swapStarts) &&
  s.ports.toList.all fun p => p.queue.all fun k => k.gen != getField s.fab.rtstat 16 8

/-- OLD_GENERATION_DRAINED: the router sends DRAINED. -/
def execOldGenerationDrained (s : State) : Out :=
  let s' := (List.range 32).foldl State.transmit s
  eventExec s (if ¬ s'.oldDrained then none
    else some ((State.sendMgmt { s' with fab := { s'.fab with sentDrained := true, draineds := NSet.add s.moduleNo s'.fab.draineds } }
      true s.moduleNo).finishSwap))

/-- RT_BEGIN_SWAP: new requests go under STANDBY, and SWAPSTART is sent. -/
def execRtBeginSwap (s : State) : Out :=
  eventExec s (if ¬ s.rtBusy 2 then none
    else
      let s := s.endRt (getBit s.fab.rtctl 1)
      let s := { s with fab := { s.fab with rtstat := putBit s.fab.rtstat 2 true, swapStarts := NSet.add s.moduleNo s.fab.swapStarts } }
      some ((s.sendMgmt false s.moduleNo).postOnce .oldGenerationDrained))

/-- SWAPSTART: relayed when it is new. -/
def execSwapstart (origin : Nat) (s : State) : Out :=
  eventExec s (if NSet.mem origin s.fab.swapStarts then some s
    else some ((State.sendMgmt { s with fab := { s.fab with swapStarts := NSet.add origin s.fab.swapStarts } } false origin).postOnce
      .oldGenerationDrained))

/-- DRAINED: relayed when it is new; once every module is, the swap ends. -/
def execDrained (origin : Nat) (s : State) : Out :=
  eventExec s (if NSet.mem origin s.fab.draineds then some s
    else some ((State.sendMgmt { s with fab := { s.fab with draineds := NSet.add origin s.fab.draineds } } true origin).finishSwap))

/-- PORTSTAT_WDRAW_WRITE (17 R425). -/
def execPortstatWdrawWrite (port : Nat) (val : Bool) (s : State) : Out :=
  eventExec s (if port < 32 then some (s.devWrite .mgmt (0x200 + 8 * port) (BitVec.ofNat 64 (bitOf val))) else none)

/-- DIGEST_CLEAR (08 R225). -/
def execDigestClear (port : Nat) (s : State) : Out := eventExec s (if port < 32 then some (s.clearDigest port) else none)

/-! ### Packets (17 R422, R423, R427) -/

/-- PACKET_FORWARD: a packet that arrives here on its way to another module. One of a type that is not used is discarded and counted at
its port, up to 0xFFFF (17 R415, R425). -/
def execPacketForward (pkt : Packet) (s : State) : Out :=
  eventExec s (if 3 ≤ pkt.cls then
      (if pkt.port < 32 then some (s.modPort pkt.port fun p => { p with errcnt := min 0xFFFF (p.errcnt + 1) }) else none)
    else if pkt.dst = s.moduleNo ∨ 4 ≤ pkt.hop then none
    else
      let p := { pkt with phase := pkt.phase || pkt.via == s.moduleNo, hop := pkt.hop + 1 }
      if pkt.hop = 3 then some (s.nakPacket pkt)
      else some ((s.forward p).getD (s.nakPacket pkt)))

/-! ### Remote operations at their source (05 R134, 13 R332, R333, 17 R424, R427) -/

/-- The vector share that a remote element lies in, as the save area of a strand off its core holds it. -/
def State.writeShare (s : State) (r : RemoteOut) : State :=
  let th := s.th r.thr
  match r.vd with
  | none => s
  | some d =>
    if (s.tm th.team).state ≠ .saved ∨ th.kind ≠ .strand then s
    else
      let n := nregsOf th.sys.vcfgv
      let w := partBytes th.sys.laneshare / n
      s.physWrite (th.area + 0x3000 + (r.lane * n + d) * w) (bytesOf w (NMap.get th.v (d * 32 + r.lane)))

/-- An answer reaches outstanding element r: a scalar atomic keeps it for its thread, any other takes it at once. A record of an engine
fault that waited for it goes on (03 R77, 13 R332). -/
def State.answerRemote (s : State) (r : RemoteOut) (a : Answer) : State :=
  if r.eseq.isSome then
    { s with remotes := s.remotes.map fun (x : RemoteOut) => (if x.tagno = r.tagno then { x with answer := some a } else x) }
  else
    ((State.modTh { s with remotes := s.remotes.filter fun x => x.tagno != r.tagno } r.thr fun th => th.takeAnswer r a).writeShare r).recordMore (s.th r.thr).member

/-- The outstanding element with a tag that has no answer yet. -/
def State.remote (s : State) (tagno : Nat) : Option RemoteOut := s.remotes.find? fun r => r.tagno == tagno && r.answer.isNone

/-- The request of an outstanding element sent again. -/
def State.resend (s : State) (r : RemoteOut) : State :=
  s.emit (s.packetTo r.dst 0 (remoteBody r.dst r.forme r.elem r.width r.kind))

/-- REMOTE_RESPONSE. A reply to a request that has timed out, or has been answered, is discarded (13 R332). -/
def execRemoteResponse (resp : RemoteResp) (s : State) : Out :=
  eventExec s (match s.remote resp.tagno with
    | none => if resp.tagno < s.nextTag then some s else none
    | some r => some (match resp.answer with
      | .ok v => s.answerRemote r (.val v)
      | .forme u => s.answerRemote r (.trap (remoteTrap 0x0E u r.dst r.forme r.elem r.idx))
      | .notReady => State.post { s with remotes := s.remotes.map fun (x : RemoteOut) =>
          (if x.tagno = r.tagno then { x with retries := x.retries + 1 } else x) } .ordStoreRetry r.tagno))

/-- REMOTE_TIMEOUT: 2^24 cycles have passed without a reply. -/
def execRemoteTimeout (tagno : Nat) (s : State) : Out :=
  eventExec s ((s.remote tagno).map fun r => s.answerRemote r (.trap (remoteTrap 0x0F 0x00 r.dst r.forme r.elem r.idx)))

/-- ORD_STORE_RETRY: an ORD store that was answered NOT-READY is sent again. -/
def execOrdStoreRetry (tagno : Nat) (s : State) : Out :=
  eventExec s (match s.remote tagno with
    | some r => if r.retries = 0 then none else some (s.resend r)
    | none => none)

/-- NAK: the request is injected again under the present tables; a module they do not reach traps FABRIC. A tag of 2^40 and above
names the message of MSEND command tag - 2^40. -/
def execNak (tagno : Nat) (s : State) : Out :=
  eventExec s (if tagno < 2 ^ 40 then
    (s.remote tagno).map fun r =>
      if s.reaches r.dst then s.resend r else s.answerRemote r (.trap (remoteTrap 0x0F 0x02 r.dst r.forme r.elem r.idx))
  else match s.cmd (tagno - 2 ^ 40) with
    | some c => (match c.body with
      | .send _ _ dm dep _ _ _ _ delay _ ph =>
        if ph = 0 ∨ dm = s.moduleNo ∨ c.fault.isSome then none
        else if s.reaches dm then some (((s.modSend c.id 0 delay 0)).runSend { c with body := match c.body with
          | .send a l dm dep sep tg q f d _ _ => .send a l dm dep sep tg q f d 0 0 | b => b })
        else some ((s.modSend c.id 0 delay 0).faultCmd c { cause := 0x0F, sub := 0x02, elem := 0, addr := epWord dm dep })
      | _ => none)
    | none => none)

/-! ### Remote operations at their target (07 R183, 14 R486, 17 R424) -/

/-- The key of an ORD stream at its target: source module, source strand context and forme. -/
def ordKey (src ctx forme : Nat) : Nat := (src * 2 ^ 32 + ctx % 2 ^ 32) * 16384 + forme % 16384

/-- The ORD stores of the reorder window of die d whose turn has come, performed in order; n bounds how many. -/
def State.ordDrain (d : Nat) : Nat → State → State
  | 0, s => s
  | n + 1, s =>
    match (s.die d).ordWait.find? fun r => match r.kind with
      | .ordStore _ q c => (Tbl.find (ordKey r.src c r.forme) (s.die d).ordExpect).getD 0 % 2 ^ 32 == q % 2 ^ 32
      | _ => false with
    | none => s
    | some r =>
      let key := match r.kind with | .ordStore _ _ c => ordKey r.src c r.forme | _ => 0
      let s := s.modDie d fun x => { x with ordWait := x.ordWait.erase r,
                                            ordExpect := Tbl.insert key ((Tbl.find key x.ordExpect).getD 0 + 1) x.ordExpect }
      let q := s.performRemote r
      State.ordDrain d n (q.1.answerTo r q.2)

/-- An ORD store at die d: performed in its turn, held in the window, or answered NOT-READY beyond it, which the die counts (08
R214). -/
def State.ordArrive (s : State) (d : Nat) (r : RemoteReq) (q c : Nat) : State :=
  let e := (Tbl.find (ordKey r.src c r.forme) (s.die d).ordExpect).getD 0 % 2 ^ 32
  if (q + 2 ^ 32 - e) % 2 ^ 32 = 0 ∨ (s.die d).ordWait.length < 64 then
    State.ordDrain d 65 (s.modDie d fun x => { x with ordWait := x.ordWait ++ [r] })
  else (match Tbl.find r.forme s.formes with | some f => s.quiet f.rid (s.countDie d 0x20A 1) | none => s.countDie d 0x20A 1).answerTo r .notReady

/-- A payload read of n elements of a lent forme, from element e: the bytes go back with their marks, or a failing check faults the
sender's MSEND and the read waits there. -/
def State.payloadRead (s : State) (r : RemoteReq) (n : Nat) : State :=
  match Tbl.find r.forme s.formes with
  | none => s.answerTo r (.forme 0x00)
  | some f =>
    if ¬ s.srcPermitted f r.src then s.answerTo r (.forme 0x03)
    else if ¬ f.msg then s.answerTo r (.forme 0x02)
    else match s.lender r.forme with
      | none => let q := s.performRemote r; q.1.answerTo r q.2
      | some (c, src) =>
        if src.count < r.elem + n then s.answerTo r (.forme 0x01)
        else if r.width ≠ src.bytes then s.answerTo r (.forme 0x02)
        else State.runReads { s with payReads := s.payReads ++ [{ cmd := c.id, src := r.src, forme := r.forme, elem := r.elem, n, got := [] }] } c

/-- REMOTE_REQUEST. -/
def execRemoteRequest (req : RemoteReq) (s : State) : Out :=
  eventExec s (if req.src = s.moduleNo then none
    else match req.kind with
    | .ordStore _ q c =>
      let d := match Tbl.find req.forme s.formes with | some f => (s.region f.rid).home % 4 | none => 0
      some (s.ordArrive d req q c)
    | .payload n => some (s.payloadRead req n)
    | _ => let q := s.performRemote req
      some (q.1.answerTo req q.2))

/-! ### Messages (06 R161-R164, 17 R417) -/

/-- The receive engine's answer to a message: to this module's MSEND, or back to its source. -/
def State.replyMsg (s : State) (m : Msg) (a : MsgReply) : State :=
  if m.src = s.moduleNo then (match s.sendOf m with | some c => s.answerSend c a | none => s)
  else
    let code := match a with | .ack => [0x10, 0] | .defer => [0x11, 0] | .notReady => [0x12, 0] | .err u => [0x13, u]
    s.emit (s.packetTo m.src 1 (code ++ bytesOf 8 (epWord s.moduleNo m.dep).toNat ++ bytesOf 2 m.sep ++ bytesOf 4 m.pseq.toNat))

/-- A message at this module, and its answer. -/
def State.deliverMsg (s : State) (m : Msg) : State := let q := s.arrive m; q.1.replyMsg m q.2

/-- MESSAGE_ARRIVAL: a message of another module. -/
def execMessageArrival (msg : Msg) (s : State) : Out := eventExec s (if msg.src = s.moduleNo then none else some (s.deliverMsg msg))

/-- An MSEND whose backoff has run out. -/
def State.retryDue (s : State) (c : Cmd) : Bool :=
  match c.body with
  | .send _ _ _ _ _ _ _ _ _ due 0 => due != 0 && decide (due ≤ (s.die (s.dieOf c.thr)).sched) && c.fault.isNone
  | _ => false

/-- MESSAGE_RETRY: the backoff of an MSEND has run out and it sends again, or the NOT-READY of another module reaches it. -/
def execMessageRetry (cmd : Nat) (s : State) : Out :=
  eventExec s (match s.cmd cmd with
    | some c =>
      if s.retryDue c then some (s.runSend c)
      else (match c.body with
        | .send _ _ dm _ _ _ _ _ _ _ ph =>
          if dm = s.moduleNo ∨ (ph ≠ 1 ∧ ph ≠ 2) ∨ c.fault.isSome then none else some (s.answerSend c .notReady)
        | _ => none)
    | none => none)

/-- MESSAGE_ACCEPT_ACK: another module has accepted an eager message. -/
def execMessageAcceptAck (cmd : Nat) (s : State) : Out :=
  eventExec s (match s.cmd cmd with
    | some c => (match c.body with
      | .send _ _ dm _ _ _ _ none _ _ 1 => if dm = s.moduleNo then none else some (s.sendDone c)
      | _ => none)
    | none => none)

/-- MESSAGE_PAYLOAD_DONE: a payload of another module has come, or another module has read the payload of an MSEND. -/
def execMessagePayloadDone (cmd : Nat) (data : List Byte) (trunc poisoned : Bool) (s : State) : Out :=
  eventExec s (match s.cmd cmd with
    | some c => (match c.body with
      | .send _ _ dm _ _ _ _ (some _) _ _ 2 =>
        if dm = s.moduleNo ∨ c.fault.isSome then none else some (s.sendDone c)
      | _ => s.payloadIn c data trunc poisoned)
    | none => none)

/-- DEFER_ANSWER. -/
def execDeferAnswer (cmd : Nat) (s : State) : Out :=
  eventExec s (match s.cmd cmd with
    | some c => s.defer c
    | none => none)

end Sys2Proof.Machine
end

