-- ==== Sys2Proof/Machine/EventsHost.lean ====
section
/-! DEFINITION. The host interface: BAR2, device registers, mailbox commands, firmware, attestation, confidential pages and the
iddify debugger (08 R226-R228, 17 R429-R438). -/

namespace Sys2Proof.Machine

/-! ### BAR2 (17 R429, R436) -/

/-- The page of a physical address is marked to a confidential region. -/
def State.marked (s : State) (a : Nat) : Bool := NMap.get s.mgmt.cpmap (a / 4096) != 0

/-- What a host read of n bytes at BAR2 offset a returns: all ones for a marked page. -/
def State.hostBytes (s : State) (a n : Nat) : List Byte :=
  (List.range n).map fun k => if s.marked (a + k) then 0xFF else Mem.get s.mem (a + k)

/-- One more access refused, counted in a half of CPERR, which stops at 2^32 - 1. -/
def cperrUp (w : Word) (lo : Nat) : Word := putField w lo 32 (min (2 ^ 32 - 1) (getField w lo 32 + 1))

/-- A host access of n bytes at a lies in one page of HBM. -/
def hostSpan (a n : Nat) : Bool := decide (0 < n) && decide (a + n ≤ 0x20000000000) && decide (a % 4096 + n ≤ 4096)

/-- n bytes at a read at the home slices by an agent without an L1: their DIRTY copies are recalled (04 R95). -/
def State.homeRead (s : State) (a n : Nat) : State := (sectorsAt a n).foldl (fun s w => s.dirRecall (w * 64)) s

/-- Bytes written at the home slices by an agent without an L1; whole sectors of them lose their poison (04 R111). -/
def State.homeWrite (s : State) (a : Nat) (bs : List Byte) : State :=
  let s := (sectorsAt a bs.length).foldl (fun s w => s.dirFlush (w * 64)) s
  ((s.physWrite a bs).coverSpans [] [⟨.phys a false, bs.length⟩]).1

/-- HOST_MEMORY_READ. -/
def execHostMemoryRead (addr len : Nat) (s : State) : Out :=
  eventExec s (if ¬ hostSpan addr len ∨ s.mgmt.recovery then none
    else if s.marked addr then some { s with mgmt := { s.mgmt with cperr := cperrUp s.mgmt.cperr 0 } }
    else some (s.homeRead addr len))

/-- HOST_MEMORY_WRITE. -/
def execHostMemoryWrite (addr : Nat) (data : List Byte) (s : State) : Out :=
  eventExec s (if ¬ hostSpan addr data.length ∨ s.mgmt.recovery then none
    else if s.marked addr then some { s with mgmt := { s.mgmt with cperr := cperrUp s.mgmt.cperr 32 } }
    else if s.physKind addr ≠ .hbm then some s
    else some (s.homeWrite addr data))

/-! ### Device registers (17 R431) -/

/-- REGISTER_WRITE: in recovery only the PF's mailbox answers (01 R31). -/
def execRegisterWrite (who : RegAgent) (offset : Nat) (val : Word) (s : State) : Out :=
  eventExec s (match who with
    | .host (.vf n) => if n = 0 ∨ 256 ≤ n ∨ s.mgmt.recovery then none else some (s.vfWrite n offset val)
    | _ => some (if s.mgmt.recovery ∧ ¬ (0x2000 ≤ offset ∧ offset ≤ 0x2068) then s else s.devWrite who offset val))

/-- DBGNONCE_READ. -/
def execDbgnonceRead (s : State) : Out :=
  eventExec s (let q := s.devRead (.host .pf) 0x820; some { q.1 with tick := q.1.tick + 4 })

/-! ### Mailboxes (17 R432) -/

/-- The number of a function: 0 for the PF. -/
def fnNum : HostFn → Nat
  | .pf => 0
  | .vf n => n

/-- The command of function n ends with a result: a failed one has changed no state. -/
def State.mbDone (s : State) (n code : Nat) (res0 : Word) : State :=
  s.modMailbox n fun m => { m with
    mbstat := putField (putBit m.mbstat 0 false) 8 8 code
    res := vset m.res 0 res0 }

/-- What a mailbox command comes to: the state and MBRES0, or a RESULT of R432. -/
abbrev MbOut := Except Nat (State × Word)

/-- The command ends. -/
def State.mbEnd (s : State) (n : Nat) : MbOut → State
  | .ok (s', r) => s'.mbDone n 0 r
  | .error c => s.mbDone n c (vget (s.mailbox n).res 0 0)

/-- A command of mailbox n with a code can be carried out: it has been started. -/
def State.mbBusy (s : State) (n code : Nat) : Bool :=
  getBit (s.mailbox n).mbstat 0 && getField (s.mailbox n).mbcmd 0 8 == code

/-- n bytes at physical address a all lie in memory. -/
def State.readable (s : State) (a n : Nat) : Bool :=
  (List.range (n / 4096 + 2)).all fun k =>
    let b := min (a + k * 4096) (a + n - 1)
    s.physKind b == .hbm || s.physKind b == .near || s.physKind b == .host

/-- Bits of a service target that an action uses. -/
def svcMask (action : Nat) : Word :=
  match action with
  | 1 => 0x0007337F
  | 2 => 0x0000037F
  | 3 => 0x03F00300
  | 4 => 0x3F1F00000000
  | 5 => 0x1F000000000000
  | _ => 0

/-- The event that carries out a service action. -/
def svcEvent : Nat → EvKind
  | 1 => .laneSparing
  | 2 => .clusterRetirement
  | 3 => .sliceRetirement
  | 4 => .pseudoChannelRetirement
  | 5 => .portWithdrawal
  | _ => .firmwareUpdateAction

/-- SVCREQ: the request is queued (18 R445). -/
def State.mbSvcreq (s : State) (n : Nat) (action target status : Word) : MbOut :=
  let a := action.toNat
  if n ≠ 0 then .error 5
  else if a = 0 ∨ 6 < a ∨ target &&& ~~~(svcMask a) ≠ 0 ∨ ((a = 1 ∨ a = 2) ∧ 68 ≤ getField target 0 7) ∨
      status.toNat % 16 ≠ 0 ∨ ¬ s.readable status.toNat 16 then .error 2
  else
    let r : SvcReq := { num := s.mgmt.svcNext, action := a, target, status, state := 0, result := 0 }
    .ok ({ s with mgmt := { s.mgmt with svc := s.mgmt.svc ++ [r], svcNext := s.mgmt.svcNext + 1 } },
      BitVec.ofNat 64 s.mgmt.svcNext)

/-- SVCSTAT. -/
def State.mbSvcstat (s : State) (n : Nat) (request : Word) : MbOut :=
  if n ≠ 0 then .error 5
  else match s.mgmt.svc.find? fun r => r.num == request.toNat with
    | some r => .ok (s, BitVec.ofNat 64 r.state)
    | none => .error 2

/-- KEYLOAD (17 R435). -/
def State.mbKeyload (s : State) (n : Nat) (rid blob owner : Word) : MbOut :=
  let r := rid.toNat
  let bound : Bool := match Tbl.find n s.mgmt.vfbind with
    | some w => getBit w 31 && (s.chain r).contains (getField w 0 16)
    | none => false
  if n ≠ 0 ∧ ¬ bound then .error 5
  else if ¬ s.validRegion r ∨ ¬ s.readable blob.toNat 512 ∨ ¬ s.readable owner.toNat 516 then .error 2
  else if ¬ (s.region r).conf ∨ (Tbl.find (s.region r).keyidx s.mgmt.keys).isSome ∨ s.hasTeam r then .error 3
  else match Config.oaepDecrypt (Mem.read s.mem blob.toNat 512) with
    | none => .error 4
    | some p =>
      let ok := Mem.read s.mem owner.toNat 516
      if p.length ≠ 0x90 ∨ leAt p 0x80 2 ≠ r ∨ ¬ zerosAt p 0x82 14 ∨ Config.sha512 ok ≠ (p.drop 0x40).take 64 then .error 4
      else
        let k := (s.region r).keyidx
        .ok ({ s with mgmt := { s.mgmt with keys := Tbl.insert k (p.take 64) s.mgmt.keys, owners := Tbl.insert k ok s.mgmt.owners } }, 0)

/-- n bytes at a, both multiples of 4096, read zero from now on. -/
def State.zeroRange (s : State) (a n : Nat) : State :=
  let within := fun (w : Nat) => decide (a / 64 ≤ w) && decide (w < (a + n) / 64)
  let s := { s with mem := Mem.clear s.mem a n, poison := s.poison.filter fun w => !within w }
  let s := s.allDies fun d => { d with dir := Tbl.keep (fun w _ => !within w) d.dir }
  ((s.dies.toList.flatMap fun d => (d.monitors.map (·.sector)).filter within).eraseDups).foldl State.wakeSector s

/-- Pages p to p + n - 1 given a mark: an owner's RID + 1, or 0 for none. -/
def markPages (m : NMap) (p mark : Nat) : Nat → NMap
  | 0 => m
  | n + 1 => NMap.set (markPages m p mark n) (p + n) mark

/-- The arguments of CPASSIGN and CPRELEASE: a region, and 4 KiB pages of HBM. -/
def State.cpArgs (s : State) (rid page pages : Word) : Bool :=
  s.validRegion rid.toNat && decide (page.toNat % 4096 = 0) && decide (page.toNat + pages.toNat * 4096 ≤ 0x20000000000)

/-- CPASSIGN (17 R436). -/
def State.mbCpassign (s : State) (n : Nat) (rid page pages : Word) : MbOut :=
  if n ≠ 0 then .error 5
  else if ¬ s.cpArgs rid page pages then .error 2
  else
    let s := s.zeroRange page.toNat (pages.toNat * 4096)
    .ok ({ s with mgmt := { s.mgmt with cpmap := markPages s.mgmt.cpmap (page.toNat / 4096) (rid.toNat + 1) pages.toNat } }, 0)

/-- The cached translations of a physical range leave every TLB. -/
def State.tlbDropRange (s : State) (a n : Nat) : State :=
  let kept := fun (t : Tbl TlbEntry) => t.filter fun e => decide (e.2.pa + 2 ^ e.2.size ≤ a) || decide (a + n ≤ e.2.pa)
  let s := s.allDies fun d => { d with tlb := kept d.tlb }
  { s with clusters := s.clusters.map fun (k, c) =>
      (k, { c with utlb := c.utlb.map fun (j, t) => (j, kept t), gtlb := c.gtlb.map fun (j, t) => (j, kept t) }) }

/-- CPRELEASE (17 R436). -/
def State.mbCprelease (s : State) (n : Nat) (rid page pages : Word) : MbOut :=
  if n ≠ 0 then .error 5
  else if ¬ s.cpArgs rid page pages then .error 2
  else
    let s := (s.tlbDropRange page.toNat (pages.toNat * 4096)).zeroRange page.toNat (pages.toNat * 4096)
    .ok ({ s with mgmt := { s.mgmt with cpmap := markPages s.mgmt.cpmap (page.toNat / 4096) 0 pages.toNat } }, 0)

/-- The other bank. -/
def State.inactiveBank (s : State) : Nat := 1 - s.mgmt.bankActive

/-- The controller restarts on bank b: until it has, no mailbox takes a command and no service action goes on; each die's
supervisor cores are to reload (17 R433). -/
def State.activate (s : State) (b : Nat) : State :=
  State.post (State.allDies { s with mgmt := { s.mgmt with bankActive := b, restarting := true } } fun d => { d with reload := true })
    .mailboxCommand 256

/-- FWLOAD (17 R433). -/
def State.mbFwload (s : State) (n : Nat) (image length flags : Word) : MbOut :=
  if n ≠ 0 then .error 5
  else if flags.toNat > 1 ∨ length = 0 ∨ 2 ^ 52 < image.toNat + length.toNat ∨ ¬ s.readable image.toNat length.toNat then .error 2
  else
    let im := Mem.read s.mem image.toNat length.toNat
    let v := Config.fwVersion im
    if ¬ Config.rsaVerify im then .error 4
    else if v < s.mgmt.fusedMin then .error 3
    else
      let b := s.inactiveBank
      let s := { s with mgmt := { s.mgmt with
        banks := vset s.mgmt.banks b { image := im, valid := true }
        fusedMin := if flags = 1 then v else s.mgmt.fusedMin } }
      .ok (s.activate b, BitVec.ofNat 64 v)

/-- A command of mailbox n with a code and arguments. -/
def State.mbRun (s : State) (n code : Nat) (a b c : Word) : MbOut :=
  if s.mgmt.recovery ∧ code ≠ 0x20 then .error 3
  else match code with
  | 0x01 => s.mbSvcreq n a b c
  | 0x02 => s.mbSvcstat n a
  | 0x10 => s.mbKeyload n a b c
  | 0x11 => s.mbCpassign n a b c
  | 0x12 => s.mbCprelease n a b c
  | 0x20 => s.mbFwload n a b c
  | _ => .error (if n = 0 then 1 else 5)

/-- A mailbox command of a function, when it has been started. -/
def mbExec (fn : HostFn) (code : Nat) (a b c : Word) (s : State) : Out :=
  eventExec s (if s.mbBusy (fnNum fn) code then some (s.mbEnd (fnNum fn) (s.mbRun (fnNum fn) code a b c)) else none)

/-- SVCREQ. -/
def execSvcreq (fn : HostFn) (action target statusAddr : Word) (s : State) : Out := mbExec fn 0x01 action target statusAddr s

/-- SVCSTAT. -/
def execSvcstat (fn : HostFn) (request : Word) (s : State) : Out := mbExec fn 0x02 request 0 0 s

/-- KEYLOAD. -/
def execKeyload (fn : HostFn) (rid blob ownerKey : Word) (s : State) : Out := mbExec fn 0x10 rid blob ownerKey s

/-- CPASSIGN. -/
def execCpassign (fn : HostFn) (rid page pages : Word) (s : State) : Out := mbExec fn 0x11 rid page pages s

/-- CPRELEASE. -/
def execCprelease (fn : HostFn) (rid page pages : Word) (s : State) : Out := mbExec fn 0x12 rid page pages s

/-- FWLOAD. -/
def execFwload (fn : HostFn) (image length flags : Word) (s : State) : Out := mbExec fn 0x20 image length flags s

/-- UNKNOWN_COMMAND_CODE. -/
def execUnknownCommandCode (fn : HostFn) (code : Nat) (s : State) : Out :=
  if [0x01, 0x02, 0x10, 0x11, 0x12, 0x20].contains code then eventExec s none else mbExec fn code 0 0 0 s

/-- The mailbox command that function n has started, as its registers hold it; n = 256 ends the restart of the management
controller. -/
def State.mailboxStep (s : State) (n : Nat) : Option State :=
  if n = 256 then (if s.mgmt.restarting then some { s with mgmt := { s.mgmt with restarting := false } } else none)
  else
    let m := s.mailbox n
    if getBit m.mbstat 0 then
      some (s.mbEnd n (s.mbRun n (getField m.mbcmd 0 8) (vget m.args 0 0) (vget m.args 1 0) (vget m.args 2 0)))
    else none

/-- A die whose supervisor cores have still to reload, and which holds no trap in service (17 R433 step 4). -/
def State.dueReload (s : State) : Option Nat :=
  (List.range 4).find? fun d => (s.die d).reload && !s.mgmt.restarting &&
    (List.range s.members.length).all fun m => (s.mb m).die != d || !s.memberStopped m

/-- The supervisor cores of die d reload. -/
def State.reloadDie (s : State) (d : Nat) : State :=
  let fresh := fun (k : Nat) (th : Thread) => if th.kind = .supervisor ∧ th.member = d then Thread.supervisor d (k % 4) else th
  State.modDie { s with threads := s.threads.mapIdx fresh } d fun x => { x with reload := false }

/-! ### Attestation (17 R434) -/

/-- A response of the SPDM responder. -/
def State.spdmAnswer (s : State) (bs : List Byte) : State := { s with mgmt := { s.mgmt with spdm := s.mgmt.spdm ++ [bs] } }

/-- An SPDM request of the host: a response is given unless the module is in recovery. -/
def spdmExec (s : State) (bs : List Byte) : Out := eventExec s (if s.mgmt.recovery then none else some (s.spdmAnswer bs))

/-- GET_VERSION. -/
def execGetVersion (s : State) : Out := spdmExec s (Config.spdmHeader 0x84 [])

/-- GET_CAPABILITIES. -/
def execGetCapabilities (s : State) : Out := spdmExec s (Config.spdmHeader 0xE1 [])

/-- NEGOTIATE_ALGORITHMS. -/
def execNegotiateAlgorithms (offer : List Byte) (s : State) : Out := spdmExec s (Config.spdmHeader 0xE3 offer)

/-- GET_DIGESTS: the SHA-512 of the certificate chain. -/
def execGetDigests (s : State) : Out := spdmExec s (Config.spdmHeader 0x81 [] ++ Config.sha512 (Config.certChain 0))

/-- GET_CERTIFICATE: a part of a chain. -/
def execGetCertificate (slot offset length : Nat) (s : State) : Out :=
  spdmExec s (Config.spdmHeader 0x82 (bytesOf 4 slot) ++ ((Config.certChain slot).drop offset).take length)

/-- A response signed by the device identity key. -/
def signed (bs : List Byte) : List Byte := bs ++ Config.pssSign bs

/-- CHALLENGE. -/
def execChallenge (nonce : List Byte) (s : State) : Out :=
  spdmExec s (signed (Config.spdmHeader 0x83 nonce ++ Config.sha512 (Config.certChain 0)))

/-- The service record as bytes: spares in use and retired units (18 R444-R448), then the numbers of the controller's own
record. -/
def State.serviceRecord (s : State) : List Byte :=
  (s.clusters.flatMap fun (k, c) =>
    (if c.retired then bytesOf 8 (1 * 2 ^ 56 + k) else []) ++
    (match c.redirect with | some j => bytesOf 8 (2 * 2 ^ 56 + k * 2 ^ 16 + j) | none => []) ++
    (if c.retiredLanes = 0 then [] else bytesOf 8 (3 * 2 ^ 56 + k * 2 ^ 32 + c.retiredLanes.toNat))) ++
  ((List.range 4).flatMap fun d => (s.die d).remap.flatMap fun sl => bytesOf 8 (4 * 2 ^ 56 + d * 64 + sl)) ++
  (s.mgmt.pcRetired.flatMap fun pc => bytesOf 8 (5 * 2 ^ 56 + pc)) ++
  (s.mgmt.record.flatMap fun n => bytesOf 8 (6 * 2 ^ 56 + n % 2 ^ 56))

/-- The fused record: for each physical cluster of each die, 1 where it is enabled at shipment and 2 where it is a spare; then what the
spec leaves to it (01 R21). -/
def fusedRecord : List Byte :=
  ((List.range 4).flatMap fun _ => (List.range 68).map fun c => if (Cluster.reset c).enabled then 1#8 else 2#8) ++ Config.fusedRecord

/-- The bytes of one measurement; none for an index without one. -/
def State.measurement (s : State) (k : Nat) : Option (List Byte) :=
  match k with
  | 1 => some (Config.sha512 (vget s.mgmt.banks s.mgmt.bankActive { image := [], valid := false }).image)
  | 2 => some (Config.sha512 (vget s.mgmt.banks s.inactiveBank { image := [], valid := false }).image)
  | 3 => some fusedRecord
  | 4 => some s.serviceRecord
  | 5 => some (bytesOf 2 s.moduleNo ++ bytesOf 1 (getField s.fab.fabcfg 16 5) ++
      Config.sha512 (s.fab.active.flatMap fun e => bytesOf 2 e.1 ++ e.2.bytes))
  | _ => none

/-- GET_MEASUREMENTS. -/
def execGetMeasurements (index : Nat) (nonce : List Byte) (s : State) : Out :=
  spdmExec s (match s.measurement index with
    | some m => signed (Config.spdmHeader 0xE0 (bytesOf 1 index ++ nonce) ++ m)
    | none => signed (Config.spdmHeader 0xE0 (bytesOf 1 index ++ nonce)))

/-! ### iddify (08 R227, R228, 17 R438) -/

/-- STATUS of thread t changed by f, in its save area too while it is off its core. -/
def State.modStatus (s : State) (t : Nat) (f : Word → Word) : State :=
  let s := s.modTh t fun th => { th with sys := { th.sys with status := f th.sys.status } }
  if (s.tm (s.th t).team).state = .saved then
    s.physWrite ((s.th t).area + if (s.th t).kind = .control then 0x100 else 0x300) (bytesOf 8 (s.th t).sys.status.toNat)
  else s

/-- iddify is attached to team k: DBG is set in every thread. -/
def State.attach (s : State) (k : Nat) : State :=
  (s.teamThreads k).foldl (fun s t => s.modStatus t fun w => putBit w stDBG true) (s.modTm k fun tm => { tm with dbg := true })

/-- Team k has not ended. -/
def State.liveTeam (s : State) (k : Nat) : Bool := decide (k < s.teams.length) && (s.tm k).state != .ended

/-- IDDIFY_ATTACH. -/
def execIddifyAttach (team : Nat) (s : State) : Out :=
  eventExec s (if s.liveTeam team ∧ ¬ (s.region (s.tm team).rid).conf then some (s.attach team) else none)

/-- CONFIDENTIAL_ATTACH: the owner's signature over RID and the nonce, which serves one attach. -/
def execConfidentialAttach (team : Nat) (signature : List Byte) (s : State) : Out :=
  let rid := (s.tm team).rid
  eventExec s (if ¬ s.liveTeam team ∨ ¬ (s.region rid).conf then none
    else match Tbl.find (s.region rid).keyidx s.mgmt.owners with
      | none => some s
      | some key =>
        if s.mgmt.nonceUsed ∨ ¬ Config.pssVerify key (bytesOf 2 rid ++ wordsBytes s.mgmt.nonce.toList) signature then some s
        else some (State.attach { s with mgmt := { s.mgmt with nonceUsed := true } } team))

/-- DEBUG_HALT: every thread stops as a forced save stops it, and nothing is saved. A strand whose lanes still wait for remote elements
keeps its convoys where they stand (13 R332). -/
def execDebugHalt (team : Nat) (s : State) : Out :=
  eventExec s (if s.liveTeam team ∧ (s.tm team).dbg ∧ ¬ (s.tm team).halted ∧ (s.tm team).state ≠ .saved then
    let ts := s.teamThreads team
    let s := (ts.filter fun t => (s.th t).kind == .strand && !(s.th t).inh && (s.th t).run != .done).foldl State.drainStop s
    some (((ts.filter fun t => !s.awaitsRemote t).foldl State.stopThread s).modTm team fun tm => { tm with halted := true })
  else none)

/-- DEBUG_RESUME. -/
def execDebugResume (team : Nat) (s : State) : Out :=
  eventExec s (if s.liveTeam team ∧ (s.tm team).halted then
    some ((s.teamThreads team).foldl State.kick (s.modTm team fun tm => { tm with halted := false }))
  else none)

/-- CONVOY_STEP: the thread goes on for one convoy or control word, and then traps STEP. -/
def execConvoyStep (thr : Nat) (s : State) : Out :=
  let th := s.th thr
  let tm := s.tm th.team
  eventExec s (if ¬ s.liveTeam th.team ∨ ¬ tm.dbg ∨ tm.state = .saved ∨ th.kind = .supervisor ∨ th.stepReq ∨
      th.run = .done ∨ th.run = .endedStopped ∨ ¬ th.active then none
    else some (s.modTh thr fun th =>
      let th := if th.run = .stopped then th.resumeStopped else th
      { th with stepReq := true }))

/-- Lane j runs on to convoy q. A rendezvous convoy is entered only once no lane behind it can be missing. -/
def State.alignLane (q : BitVec 32) (t j : Nat) : Nat → State → State
  | 0, s => s
  | n + 1, s =>
    let th := s.th t
    let c := vget th.cp j 0
    if ¬ seqLt c q then s
    else match th.window.find? (·.seq == c) with
      | none => s
      | some w =>
        let all := th.laneList.all fun k => seqLt w.seq (vget th.cp k 0) || (vget th.cp k 0 == w.seq && (Tbl.find k th.laneFault).isNone)
        if w.rdv ∧ ¬ all then s
        else
          let s' := s.laneGo t j
          if vget (s'.th t).cp j 0 = c then s' else State.alignLane q t j n s'

/-- Rounds of the lanes that stand before convoy q. -/
def State.alignRounds (q : BitVec 32) (t : Nat) : Nat → State → State
  | 0, s => s
  | n + 1, s =>
    let s := (s.th t).laneList.foldl (fun s j => State.alignLane q t j (s.th t).window.length s) s
    State.alignRounds q t n (s.deliverAll t)

/-- The trap block after a step to align: the lanes' positions, and the faults found. -/
def Thread.alignBlock (th : Thread) : Thread :=
  { th with
    tbCp := Vector.ofFn fun j : Fin 32 => if j.val < th.lanes then vget th.cp j.val 0 else 0
    tbCause := Vector.ofFn fun j : Fin 32 => match Tbl.find j.val th.laneFault with
      | some lf => lf.trap.cause | none => vget th.tbCause j.val 0
    tbElem := Vector.ofFn fun j : Fin 32 => match Tbl.find j.val th.laneFault with
      | some lf => BitVec.ofNat 32 lf.trap.elem | none => vget th.tbElem j.val 0 }

/-- STEP_TO_ALIGN. -/
def execStepToAlign (thr : Nat) (s : State) : Out :=
  let th := s.th thr
  eventExec s (if th.kind = .strand ∧ th.active ∧ th.run = .stopped ∧ (s.tm th.team).dbg then
    some ((State.alignRounds (th.sys.trapseq.setWidth 32) thr (th.window.length + 2) s).modTh thr fun th => th.alignBlock.rewind)
  else none)

end Sys2Proof.Machine
end

