-- ==== Sys2Proof/Machine/EventsPower.lean ====
section
/-! DEFINITION. Module reset, power capping, monitors, error trends and service actions (01 R31, 04 R112, 18 R439-R448). -/

namespace Sys2Proof.Machine

/-! ### Power (18 R439-R441) -/

/-- CUR, MINSTEP, MAXSTEP and DIEW of die d. -/
def State.curStep (s : State) (d : Nat) : Nat := getField (s.die d).diepwr 16 5
/-- MINSTEP of die d. -/
def State.minStep (s : State) (d : Nat) : Nat := getField (s.die d).diepwr 0 5
/-- MAXSTEP of die d. -/
def State.maxStep (s : State) (d : Nat) : Nat := getField (s.die d).diepwr 8 5

/-- A clock step of die d: no cycle is lost or counted twice (18 R439). -/
def State.setStep (s : State) (d n : Nat) : State := s.modDie d fun x => { x with diepwr := putField x.diepwr 16 5 n }

/-- The die with the greatest f among those of a list, the lowest on a tie. -/
def greatest (f : Nat → Nat) (l : List Nat) : Option Nat :=
  l.foldl (fun o d => match o with | none => some d | some e => if f e < f d then some d else some e) none

/-- What one window of the capping loop does to the steps `cur` of the dies (18 R441): the new steps, whether CAPPED is set,
and the windows each die has had under its budget. -/
def capLoop (capw : Nat) (expert : Bool) (diew lo hi : Nat → Nat) (p : Nat) (pd cur runs : Nat → Nat) :
    (Nat → Nat) × Bool × (Nat → Nat) :=
  let above := fun d => if expert then decide (diew d < pd d) || decide (capw < p) else decide (capw < p)
  let under := fun d => if expert then decide (pd d + 25 < diew d) && decide (p + 100 < capw) else decide (p + 100 < capw)
  let runs' := fun d => if under d then runs d + 1 else 0
  let clamp := fun (f : Nat → Nat) d => max (lo d) (min (hi d) (f d))
  let dies := List.range 4
  if dies.any above then
    match greatest pd (dies.filter fun d => above d && decide (cur d < hi d)) with
    | some x => (clamp fun d => if d = x then cur d + 1 else cur d, true, runs')
    | none => (clamp cur, false, runs')
  else if dies.all fun d => decide (10 ≤ runs' d) then
    match greatest cur (dies.filter fun d => decide (lo d < cur d)) with
    | some x => (clamp fun d => if d = x then cur d - 1 else cur d, false, fun _ => 0)
    | none => (clamp cur, false, fun _ => 0)
  else (clamp cur, false, runs')

/-- The controller's energy estimate of each confidential region on each die grows by a free amount (17 R437). -/
def State.addEnergy (s : State) : State :=
  let keys := (s.regions.filter fun e => (s.region e.1).conf).flatMap fun e => (List.range 4).map fun d => e.1 * 4 + d
  let add := fun (t : Tbl Nat) ((k, j) : Nat × Nat) => Tbl.insert k ((Tbl.find k t).getD 0 + Config.freeNat (s.tick + j)) t
  { s with mgmt := { s.mgmt with energy := keys.zipIdx.foldl add s.mgmt.energy }, tick := s.tick + keys.length }

/-- CAPPING_WINDOW: power in watts of the module and of each die. A die above its first thermal limit rises in the same
window, and the higher step stands; a thermal stop holds every die at step 16 (18 R441, R442). -/
def execCappingWindow (power : Nat) (diePower : List Nat) (s : State) : Out :=
  eventExec s (
    let heat := fun d => vget s.mgmt.thermal d 0
    let base := fun d => if heat d = 1 then s.curStep d - 1 else s.curStep d
    let r := capLoop (getField s.mgmt.pwrcap 0 13) (getBit s.mgmt.pwrcap 31) (fun d => getField (s.die d).diepwr 32 16) s.minStep s.maxStep
      power (fun d => diePower.getD d 0) base (fun d => vget s.mgmt.underRuns d 0)
    let hot := fun d => if heat d = 1 then s.curStep d else if heat d = 2 then min 16 (s.curStep d + 1) else 0
    let next := fun d => if s.mgmt.thermalStop then 16 else max (r.1 d) (hot d)
    let therm := (List.range 4).any fun d => heat d == 2 && decide (s.curStep d < 16)
    let st := putField s.mgmt.pwrstat 32 32 power
    let st := if r.2.1 then putBit st 0 true else st
    let st := if therm then putBit st 1 true else st
    let s := (List.range 4).foldl (fun s d => s.setStep d (next d)) s
    let mg := { s.mgmt with
      pwrstat := st
      underRuns := Vector.ofFn fun d : Fin 4 => r.2.2 d.val
      thermal := s.mgmt.thermal.map fun h => if h = 0 then 0 else 2 }
    some (State.addEnergy { s with mgmt := mg }))

/-! ### Monitors (18 R442, R443) -/

/-- THERMAL_LIMIT: a die reaches its first limits, or leaves them with every sensor 5 °C below. -/
def execThermalLimit (die : Nat) (reached : Bool) (s : State) : Out :=
  eventExec s (if 4 ≤ die ∨ s.mgmt.restarting then none
    else if ¬ reached then some { s with mgmt := { s.mgmt with thermal := vset s.mgmt.thermal die 0 } }
    else if vget s.mgmt.thermal die 0 ≠ 0 then some s
    else
      let mg := { s.mgmt with
        thermal := vset s.mgmt.thermal die 1
        pwrstat := if s.curStep die < 16 then putBit s.mgmt.pwrstat 1 true else s.mgmt.pwrstat }
      some (State.setStep { s with mgmt := mg } die (min 16 (s.curStep die + 1))))

/-- THERMAL_STOP. -/
def execThermalStop (s : State) : Out :=
  eventExec s (if s.mgmt.restarting then none
    else
      let raised := (List.range 4).any fun d => decide (s.curStep d < 16)
      let mg := { s.mgmt with
        thermalStop := true
        pwrstat := if raised then putBit s.mgmt.pwrstat 1 true else s.mgmt.pwrstat }
      some ((List.range 4).foldl (fun s d => s.setStep d 16) { s with mgmt := mg }))

/-- THERMAL_STOP_END. -/
def execThermalStopEnd (s : State) : Out :=
  eventExec s (if s.mgmt.thermalStop ∧ ¬ s.mgmt.restarting then
    some ((List.range 4).foldl (fun s d => s.postOnce .schedulingPass d) { s with mgmt := { s.mgmt with thermalStop := false } })
  else none)

/-- What outlives a power-off or a reset on a cluster: its place among the enabled, spare and retired ones (01 R31). -/
def Cluster.kept (k : Nat) (c : Cluster) : Cluster :=
  { Cluster.reset k with
    enabled := c.enabled, spare := c.spare, retired := c.retired, redirect := c.redirect, retiredLanes := c.retiredLanes
    spareUsed := c.spareUsed }

/-- The module after a power-on with every die present: the reset values, with what the fused record, the service record and
the firmware banks keep. Host memory is the host's, and the model's own counter goes on. -/
def State.rebooted (s : State) : State :=
  let mg := { Mgmt.reset with
    banks := s.mgmt.banks, bankActive := s.mgmt.bankActive, fusedMin := s.mgmt.fusedMin
    record := s.mgmt.record, pcRetired := s.mgmt.pcRetired }
  { State.reset with
    inbox := s.inbox.filter fun e => match e with | .ext _ => true | _ => false
    sched := s.sched, tick := s.tick
    mem := s.mem.filter fun c => decide (hostBase ≤ c.1)
    clusters := s.clusters.map fun (k, c) => (k, c.kept (k % 128))
    dies := s.dies.map fun d => { Die.reset with remap := d.remap }
    mgmt := mg }

/-- THERMAL_POWER_OFF: every context is lost, and the service record names the sensor. -/
def execThermalPowerOff (sensor : Nat) (s : State) : Out :=
  eventExec s (if s.mgmt.restarting then none
    else
      let s := s.rebooted
      some { s with threads := [], mgmt := { s.mgmt with powered := false, record := s.mgmt.record ++ [sensor] } })

/-- DROOP_STRETCH. -/
def execDroopStretch (die cluster cycles : Nat) (s : State) : Out :=
  eventExec s (if 4 ≤ die ∨ 68 ≤ cluster then none
    else some ((s.modClu (cluKey die cluster) fun c => { c with stretches := c.stretches + cycles }).countDie die 0x210 cycles))

/-! ### Error trends (04 R112, 18 R444) -/

/-- One more corrected error of a unit; how many have left the 24-hour window since is free. At its threshold an alert names
the unit. -/
def State.correctedError (s : State) (kind unit : Nat) : State :=
  let k := unitKey kind unit
  let n := (Tbl.find k s.mgmt.corrected).getD 0 - Config.freeNat s.tick + 1
  let mg := { s.mgmt with
    corrected := Tbl.insert k n s.mgmt.corrected
    alerts := if n = s.mgmt.thresholds.getD kind 1 then s.mgmt.alerts ++ [k] else s.mgmt.alerts }
  { s with mgmt := mg, tick := s.tick + 1 }

/-- The die of a unit of R444. -/
def unitDie (kind unit : Nat) : Nat :=
  match kind with
  | 0 => unit / 512
  | 1 => unit / 64
  | 2 => unit / 4096
  | _ => unit / 128

/-- An uncorrectable error marks the sector with a coverage key, or a row of an accumulator tile (04 R111, 08 R214). -/
def State.strike (s : State) (w : Nat) : State :=
  if w < 2 ^ 54 then
    match NMap.get s.mgmt.cpmap (w / 64) with
    | 0 => s.setPoison w true
    | rid + 1 => s.quiet rid (s.setPoison w true)
  else s.quiet (s.tm (s.mb (w / 2 ^ 54 - 1)).team).rid (s.setPoison w true)

/-- A slot holds partials and its arrived mask only until it is FULL. -/
def State.strikes (s : State) (u : Upset) : Bool :=
  match u with
  | .xreg t r => decide (t < s.threads.length) && decide (r < 32) && (decide (0 < r) || (s.th t).kind == .control)
  | .vreg t r j => (s.th t).kind == .strand && decide (r < nregsOf (s.th t).sys.vcfgv) && decide (j < (s.th t).lanes)
  | .galley t j q => decide (j < (s.th t).lanes) && (s.th t).window.any fun w => w.seq == q && seqLe (vget (s.th t).cp j 0) q
  | .slot t k => (vget (s.th t).slots k Slot.reset).state == .part
  | .table d a _ => decide (d < 4) && decide (a < 6)

/-- What happens to the module from outside its events: a corrected error is counted, for the die and for its unit (04 R110, 18 R444); an
uncorrectable one marks what it strikes (04 R111); system software sets a threshold from 1 to 65,535 (18 R444); iddify sets or clears a
data watchpoint, one of at most 16 of its team, whole sectors of up to 4 KiB (08 R227). Anything else has no effect. -/
def State.befall (s : State) : Outside → State
  | .corrected kind unit => if kind < 4 ∧ unitDie kind unit < 4 then (s.countDie (unitDie kind unit) 0x20E 1).correctedError kind unit else s
  | .upset u => if s.strikes u ∧ ¬ s.struck u then { s with upsets := s.upsets ++ [u] } else s
  | .sectorError a => if s.physKind a = .hbm ∨ s.physKind a = .near then s.strike (a / 64) else s
  | .tileError m off => if off < (s.mb m).tilesz * 0x40000 then s.strike ((m + 1) * 2 ^ 54 + off / 64) else s
  | .accError m t i =>
    if (s.mb m).placed ∧ t < 16 ∧ i < 128 then
      let n := s.modMb m fun mb => mb.markRow t i true
      if (s.mb m).rowPoisoned t i then n else s.quiet (s.tm (s.mb m).team).rid (n.countDie (s.mb m).die 0x20F 1)
    else s
  | .threshold kind n =>
    if kind < 4 ∧ 1 ≤ n ∧ n ≤ 65535 then { s with mgmt := { s.mgmt with thresholds := s.mgmt.thresholds.set kind n } } else s
  | .watch k lo n mode =>
    if s.liveTeam k ∧ (s.tm k).dbg ∧ (s.mgmt.watchpoints.filter (·.1 == k)).length < 16 ∧ lo % 64 = 0 ∧ n % 64 = 0 ∧ 0 < n ∧ n ≤ 4096 ∧
        0 < mode ∧ mode < 4 then
      { s with mgmt := { s.mgmt with watchpoints := s.mgmt.watchpoints ++ [(k, lo, n, mode)] } }
    else s
  | .unwatch k lo => { s with mgmt := { s.mgmt with watchpoints := s.mgmt.watchpoints.filter fun w => !(w.1 == k && w.2.1 == lo) } }

/-- The unit whose error a scrub of sector w finds: a pseudo-channel, or the home slice of a near-store sector. -/
def State.scrubUnit (s : State) (w d sl : Nat) : Nat × Nat :=
  if s.physKind (w * 64) = .near then (1, d * 64 + sl) else (0, channelOf (w * 64))

/-- A sector is DIRTY in some L1. -/
def State.dirtyIn (s : State) (d w : Nat) : Bool := match Tbl.find w (s.die d).dir with | some (.dirty _) => true | _ => false

/-- PATROL_SCRUB of a sector, numbered by its address / 64: a DIRTY sector is skipped; a correction changes no value, and
nothing clears poison. -/
def execPatrolScrub (sector : Nat) (outcome : ScrubOutcome) (s : State) : Out :=
  eventExec s (match s.homeOf (sector * 64) with
    | none => none
    | some (d, sl) =>
      if s.physKind (sector * 64) = .absent then none
      else if s.dirtyIn d sector then some s
      else match outcome with
        | .clean => some s
        | .corrected => some ((s.countDie d 0x20E 1).correctedError (s.scrubUnit sector d sl).1 (s.scrubUnit sector d sl).2)
        | .uncorrectable =>
          let mg := { s.mgmt with alerts := s.mgmt.alerts ++ [unitKey 4 sector] }
          some (State.countDie { s with poison := NSet.add sector s.poison, mgmt := mg } d 0x20F
            (if NSet.mem sector s.poison then 0 else 1)))

/-! ### Service actions (18 R445-R448) -/

/-- The queue a request stands in: that of its die; 4 for a firmware update. -/
def SvcReq.queue (r : SvcReq) : Nat :=
  match r.action with
  | 4 => getField r.target 32 5 / 8
  | 5 => getField r.target 48 5 / 8
  | 6 => 4
  | _ => getField r.target 8 2

/-- The oldest request of a queue that has not ended. -/
def State.svcHead (s : State) (q : Nat) : Option SvcReq := s.mgmt.svc.find? fun r => r.state != 2 && r.queue == q

/-- The request with number n, when it is the next of its queue and asks for an action; none while the controller restarts. -/
def State.svcTurn (s : State) (n action : Nat) : Option SvcReq :=
  match s.mgmt.svc.find? fun r => r.num == n with
  | some r => if r.action = action ∧ s.svcHead r.queue = some r ∧ ¬ s.mgmt.restarting then some r else none
  | none => none

/-- Request n changed by f. -/
def State.modSvc (s : State) (n : Nat) (f : SvcReq → SvcReq) : State :=
  { s with mgmt := { s.mgmt with svc := s.mgmt.svc.map fun r => if r.num == n then f r else r } }

/-- An action ends with a result: its status record is written (17 R432). -/
def State.svcEnd (s : State) (r : SvcReq) (result ms : Nat) : State :=
  let bs := bytesOf 1 r.action ++ bytesOf 1 result ++ bytesOf 2 0 ++ bytesOf 4 ms ++ bytesOf 8 r.target.toNat
  (s.homeWrite r.status.toNat bs).modSvc r.num fun r => { r with state := 2, result }

/-- The teams with a member placed on cluster k. -/
def State.teamsOn (s : State) (k : Nat) : List Nat :=
  ((s.members.filter fun m => m.placed && cluKey m.die m.cluster == k).map (·.team)).eraseDups

/-- A scheduling pass of every die. -/
def State.passAll (s : State) : State := (List.range 4).foldl (fun s d => s.postOnce .schedulingPass d) s

/-- An action on cluster k: its teams are pre-empted first, and `f` ends it once none is placed there. -/
def State.onCluster (s : State) (r : SvcReq) (f : State → State) : State :=
  let k := svcCluster r.target
  let s := s.modSvc r.num fun r => { r with state := 1 }
  let s := (s.teamsOn k).foldl State.requestPreempt s
  if s.teamsOn k = [] then (f s).passAll else s

/-- Cluster k is retired: a spare of its die takes its number, or, with none left, the die's enabled count falls and every team
that names it in a pin list ends (18 R446). The spare, if there was one. -/
def State.retire (s : State) (k : Nat) : State × Bool :=
  match (List.range 68).find? fun c => (s.clu (cluKey (k / 128) c)).spare && !(s.clu (cluKey (k / 128) c)).retired with
  | some c =>
    let j := cluKey (k / 128) c
    ((s.modClu k fun x => { x with enabled := false, retired := true, redirect := some j }).modClu j fun x =>
      { x with enabled := true, spare := false }, true)
  | none =>
    let pinned := fun (t : Nat) => (s.tm t).state != .ended && (s.tm t).place == 2 &&
      (s.tm t).pins.any fun w => let p := s.pinOf w; cluKey p.1 p.2.1 == k
    let s' := s.modClu k fun x => { x with enabled := false, retired := true }
    (((List.range s.teams.length).filter pinned).foldl (fun s t => s.cutTeam t 0x11) s', false)

/-- LANE_SPARING (18 R445): with no spare left in the group the controller retires the cluster (R446). -/
def execLaneSparing (request durationMs : Nat) (s : State) : Out :=
  eventExec s ((s.svcTurn request 1).map fun r =>
    let k := svcCluster r.target
    let g := getField r.target 12 2
    if ¬ (s.clu k).enabled then s.svcEnd r 1 durationMs
    else s.onCluster r fun s =>
      if (s.clu k).spareUsed.getLsbD g then (s.retire k).1.svcEnd r 2 durationMs
      else (s.modClu k fun c => { c with
          spareUsed := c.spareUsed ||| (1#4 <<< g)
          retiredLanes := c.retiredLanes ||| (1#32 <<< (g * 8 + getField r.target 16 3)) }).svcEnd r 0 durationMs)

/-- CLUSTER_RETIREMENT (18 R446). -/
def execClusterRetirement (request durationMs : Nat) (s : State) : Out :=
  eventExec s ((s.svcTurn request 2).map fun r =>
    let k := svcCluster r.target
    if ¬ (s.clu k).enabled then s.svcEnd r 1 durationMs
    else s.onCluster r fun s => let q := s.retire k; q.1.svcEnd r (if q.2 then 0 else 2) durationMs)

/-- Slice sl of die d goes to its partner: every copy is recalled or invalidated, its monitors end, and the remap table names
the partner (18 R447). Its near-store bytes keep their addresses. -/
def State.moveSlice (s : State) (d sl : Nat) : State :=
  let here := fun (w : Nat) => s.homeOf (w * 64) == some (d, sl)
  let dirty := ((s.die d).dir.filter fun e => here e.1 && match e.2 with | .dirty _ => true | _ => false).length
  let mons := (s.die d).monitors.filter fun m => here m.sector
  let s := (s.modDie d fun x => { x with
    dir := x.dir.filter fun e => !here e.1
    monitors := x.monitors.filter fun m => !here m.sector }).countDie d 0x202 dirty
  (mons.foldl (fun s m => s.endMonitor m .evict) s).modDie d fun x => { x with remap := NSet.add sl x.remap }

/-- SLICE_RETIREMENT (18 R447). -/
def execSliceRetirement (request durationMs : Nat) (s : State) : Out :=
  eventExec s ((s.svcTurn request 3).map fun r =>
    let d := getField r.target 8 2
    let sl := getField r.target 20 6
    if NSet.mem sl (s.die d).remap ∨ NSet.mem (sl ^^^ 32) (s.die d).remap ∨ 24 < 2 * (s.die d).ns then s.svcEnd r 1 durationMs
    else (s.moveSlice d sl).svcEnd r 0 durationMs)

/-- A leaf of a level at physical address pa maps a page of pseudo-channel pc: a 2 MiB leaf reaches every channel of its stack,
and a 1 GiB leaf every stack (04 R98). -/
def leafMaps (pc level pa : Nat) : Bool :=
  decide (pa < 0x20000000000) &&
  (match level with
   | 0 => channelOf pa == pc
   | 1 => stackOf pa == pc / 64
   | 2 => true
   | _ => false)

/-- A table of a level holds, in it or below it, a leaf that maps a page of pseudo-channel pc. -/
def State.tableMaps (s : State) (pc : Nat) : Nat → Nat → Bool
  | level, table =>
    s.physKind table == .hbm && (List.range 512).any fun k =>
      let e := Mem.readNat s.mem (table + 8 * k) 8
      bitAt e 0 && (if bitAt e 1 then leafMaps pc level (fld e 12 40 * 4096) else
        match level with
        | 0 => false
        | n + 1 => State.tableMaps s pc n (fld e 12 40 * 4096))

/-- PSEUDO_CHANNEL_RETIREMENT (18 R448). -/
def execPseudoChannelRetirement (request durationMs : Nat) (s : State) : Out :=
  eventExec s ((s.svcTurn request 4).map fun r =>
    let pc := getField r.target 32 5 * 64 + getField r.target 40 6
    if s.regions.any fun e => s.tableMaps pc 3 (s.region e.1).root then s.svcEnd r 1 durationMs
    else State.svcEnd { s with mgmt := { s.mgmt with pcRetired := NSet.add pc s.mgmt.pcRetired } } r 0 durationMs)

/-- PORT_WITHDRAWAL (18 R445). -/
def execPortWithdrawal (request durationMs : Nat) (s : State) : Out :=
  eventExec s ((s.svcTurn request 5).map fun r =>
    (s.modPort (getField r.target 48 5) fun p => { p with wdraw := true }).svcEnd r 0 durationMs)

/-- FIRMWARE_UPDATE_ACTION (17 R433, 18 R445): the inactive bank is verified and activated. -/
def execFirmwareUpdateAction (request durationMs : Nat) (s : State) : Out :=
  eventExec s ((s.svcTurn request 6).map fun r =>
    let b := vget s.mgmt.banks s.inactiveBank { image := [], valid := false }
    if b.valid ∧ Config.rsaVerify b.image ∧ s.mgmt.fusedMin ≤ Config.fwVersion b.image then
      (s.svcEnd r 0 durationMs).activate s.inactiveBank
    else s.svcEnd r 1 durationMs)

/-- A service action of a queue can go on: it has not begun, or its cluster is empty. -/
def State.svcReady (s : State) (q : Nat) : Option SvcReq :=
  match s.svcHead q with
  | some r => if ¬ s.mgmt.restarting ∧ (r.state = 0 ∨ s.teamsOn (svcCluster r.target) = []) then some r else none
  | none => none

/-- The oldest request that can go on. -/
def State.dueService (s : State) : Option SvcReq := (List.range 5).findSome? s.svcReady

/-! ### Module reset (01 R31) -/

/-- A die with a usable cluster, that the tests did not fail. -/
def State.usable (s : State) (dead : BitVec 4) (d : Nat) : Bool :=
  !dead.getLsbD d && (List.range 68).any fun c => (s.clu (cluKey d c)).enabled

/-- MODULE_RESET: which banks verify, which dies the tests hold off, and which pseudo-channels (stack, channel) fail theirs.
With no good bank the module stays in recovery, its dies without power. -/
def execModuleReset (bank0Ok bank1Ok : Bool) (deadDies : BitVec 4) (badChannels : List (Nat × Nat)) (s : State) : Out :=
  let okOf := fun (b : Nat) => if b = 0 then bank0Ok else bank1Ok
  let b := if okOf s.mgmt.bankActive then s.mgmt.bankActive else if okOf s.inactiveBank then s.inactiveBank else s.mgmt.bankActive
  let stuck := !bank0Ok && !bank1Ok
  let s := s.rebooted
  let on := fun d => !stuck && s.usable deadDies d
  let bad := badChannels.map fun (st, c) => st % 32 * 64 + c % 64
  let mg := { s.mgmt with
    recovery := stuck, bankActive := b
    banks := Vector.ofFn fun j : Fin 2 => { vget s.mgmt.banks j.val { image := [], valid := false } with valid := okOf j.val }
    pcRetired := bad.foldl (fun t k => NSet.add k t) s.mgmt.pcRetired
    alerts := bad.map (unitKey 0) }
  .next { s with
    mgmt := mg
    dies := Vector.ofFn fun d : Fin 4 => { s.die d.val with off := !on d.val }
    threads := s.threads.map fun th => { th with active := on th.member }
    ports := Vector.ofFn fun n : Fin 32 => if on (n.val / 8) then Port.reset else { Port.reset with state := .off } }

end Sys2Proof.Machine
end

