-- ==== Sys2Proof/Machine/Vector.lean ====
section
/-! DEFINITION. The vector instructions (12 R307-R325, 13 R326-R346, 14 R362): each is broadcast to its lanes, where
`laneSem` (Lanes.lean) gives its effect in a lane and `rdvSem` what a rendezvous delivers. -/

namespace Sys2Proof.Machine

/-- VADD (R307): Vector integer add. -/
def execVadd (k : VCtl) (t : ITy) (vd va vb : VReg) (s : State) : Out :=
  vectorExec (.vadd k t vd va vb) s
/-- VSUB (R307): Vector integer subtract. -/
def execVsub (k : VCtl) (t : ITy) (vd va vb : VReg) (s : State) : Out :=
  vectorExec (.vsub k t vd va vb) s
/-- VMUL (R307): Vector integer multiply. -/
def execVmul (k : VCtl) (t : ITy) (vd va vb : VReg) (s : State) : Out :=
  vectorExec (.vmul k t vd va vb) s
/-- VMULH (R307): Vector integer multiply high. -/
def execVmulh (k : VCtl) (t : ITy) (vd va vb : VReg) (s : State) : Out :=
  vectorExec (.vmulh k t vd va vb) s
/-- VMADD (R309): Vector integer multiply-add with the addend in vc. -/
def execVmadd (k : VCtl) (t : ITy) (vd va vb : VReg) (s : State) : Out :=
  vectorExec (.vmadd k t vd va vb) s
/-- VMIN (R307): Vector integer minimum. -/
def execVmin (k : VCtl) (t : ITy) (vd va vb : VReg) (s : State) : Out :=
  vectorExec (.vmin k t vd va vb) s
/-- VMAX (R307): Vector integer maximum. -/
def execVmax (k : VCtl) (t : ITy) (vd va vb : VReg) (s : State) : Out :=
  vectorExec (.vmax k t vd va vb) s
/-- VAND (R308): Vector bitwise AND. -/
def execVand (k : VCtl) (vd va vb : VReg) (s : State) : Out :=
  vectorExec (.vand k vd va vb) s
/-- VOR (R308): Vector bitwise OR. -/
def execVor (k : VCtl) (vd va vb : VReg) (s : State) : Out :=
  vectorExec (.vor k vd va vb) s
/-- VXOR (R308): Vector bitwise XOR. -/
def execVxor (k : VCtl) (vd va vb : VReg) (s : State) : Out :=
  vectorExec (.vxor k vd va vb) s
/-- VSHL (R308): Vector shift left, optionally saturating. -/
def execVshl (k : VCtl) (vd va vb : VReg) (s : State) : Out :=
  vectorExec (.vshl k vd va vb) s
/-- VSHA (R308): Vector arithmetic shift right. -/
def execVsha (k : VCtl) (vd va vb : VReg) (s : State) : Out :=
  vectorExec (.vsha k vd va vb) s
/-- VSHR (R308): Vector logical shift right. -/
def execVshr (k : VCtl) (vd va vb : VReg) (s : State) : Out :=
  vectorExec (.vshr k vd va vb) s
/-- VSADD (R307): Vector saturating add. -/
def execVsadd (k : VCtl) (t : ITy) (vd va vb : VReg) (s : State) : Out :=
  vectorExec (.vsadd k t vd va vb) s
/-- VSSUB (R307): Vector saturating subtract. -/
def execVssub (k : VCtl) (t : ITy) (vd va vb : VReg) (s : State) : Out :=
  vectorExec (.vssub k t vd va vb) s
/-- VAVG (R307): Vector rounding average. -/
def execVavg (k : VCtl) (t : ITy) (vd va vb : VReg) (s : State) : Out :=
  vectorExec (.vavg k t vd va vb) s
/-- VABS (R307): Vector integer absolute value. -/
def execVabs (k : VCtl) (vd va : VReg) (s : State) : Out :=
  vectorExec (.vabs k vd va) s
/-- VNEG (R307): Vector integer negate. -/
def execVneg (k : VCtl) (t : ITy) (vd va : VReg) (s : State) : Out :=
  vectorExec (.vneg k t vd va) s
/-- VFADD (R310): Vector floating add. -/
def execVfadd (k : VCtl) (f : FTy) (vd va vb : VReg) (s : State) : Out :=
  vectorExec (.vfadd k f vd va vb) s
/-- VFSUB (R310): Vector floating subtract. -/
def execVfsub (k : VCtl) (f : FTy) (vd va vb : VReg) (s : State) : Out :=
  vectorExec (.vfsub k f vd va vb) s
/-- VFMUL (R310): Vector floating multiply. -/
def execVfmul (k : VCtl) (f : FTy) (vd va vb : VReg) (s : State) : Out :=
  vectorExec (.vfmul k f vd va vb) s
/-- VFDIV (R310): Vector floating divide. -/
def execVfdiv (k : VCtl) (f : FTy) (vd va vb : VReg) (s : State) : Out :=
  vectorExec (.vfdiv k f vd va vb) s
/-- VFFMA (R311): Vector fused multiply-add. -/
def execVffma (k : VCtl) (f : FTy) (vd va vb : VReg) (s : State) : Out :=
  vectorExec (.vffma k f vd va vb) s
/-- VFFMS (R311): Vector fused multiply-subtract. -/
def execVffms (k : VCtl) (f : FTy) (vd va vb : VReg) (s : State) : Out :=
  vectorExec (.vffms k f vd va vb) s
/-- VFNMA (R311): Vector negated fused multiply-add. -/
def execVfnma (k : VCtl) (f : FTy) (vd va vb : VReg) (s : State) : Out :=
  vectorExec (.vfnma k f vd va vb) s
/-- VFMIN (R310): Vector floating minimum. -/
def execVfmin (k : VCtl) (f : FTy) (vd va vb : VReg) (s : State) : Out :=
  vectorExec (.vfmin k f vd va vb) s
/-- VFMAX (R310): Vector floating maximum. -/
def execVfmax (k : VCtl) (f : FTy) (vd va vb : VReg) (s : State) : Out :=
  vectorExec (.vfmax k f vd va vb) s
/-- VFSQRT (R312): Vector square root. -/
def execVfsqrt (k : VCtl) (f : FTy) (vd va : VReg) (s : State) : Out :=
  vectorExec (.vfsqrt k f vd va) s
/-- VFABS (R312): Vector sign clear. -/
def execVfabs (k : VCtl) (f : FTy) (vd va : VReg) (s : State) : Out :=
  vectorExec (.vfabs k f vd va) s
/-- VFNEG (R312): Vector sign invert. -/
def execVfneg (k : VCtl) (f : FTy) (vd va : VReg) (s : State) : Out :=
  vectorExec (.vfneg k f vd va) s
/-- VFCLASS (R312): Vector class mask. -/
def execVfclass (k : VCtl) (f : FTy) (vd va : VReg) (s : State) : Out :=
  vectorExec (.vfclass k f vd va) s
/-- VFRCP (R312): Vector reciprocal. -/
def execVfrcp (k : VCtl) (f : FTy) (vd va : VReg) (s : State) : Out :=
  vectorExec (.vfrcp k f vd va) s
/-- VFRSQ (R312): Vector reciprocal square root. -/
def execVfrsq (k : VCtl) (f : FTy) (vd va : VReg) (s : State) : Out :=
  vectorExec (.vfrsq k f vd va) s
/-- VFEXP2 (R248): Vector base-2 exponential. -/
def execVfexp2 (k : VCtl) (f : FTy) (vd va : VReg) (s : State) : Out :=
  vectorExec (.vfexp2 k f vd va) s
/-- VFLOG2 (R248): Vector base-2 logarithm. -/
def execVflog2 (k : VCtl) (f : FTy) (vd va : VReg) (s : State) : Out :=
  vectorExec (.vflog2 k f vd va) s
/-- VFSINPI (R249): Vector sin(pi x). -/
def execVfsinpi (k : VCtl) (f : FTy) (vd va : VReg) (s : State) : Out :=
  vectorExec (.vfsinpi k f vd va) s
/-- VFCOSPI (R249): Vector cos(pi x). -/
def execVfcospi (k : VCtl) (f : FTy) (vd va : VReg) (s : State) : Out :=
  vectorExec (.vfcospi k f vd va) s
/-- VCMP (R313): Vector integer compare into a mask. -/
def execVcmp (k : VCtl) (c : ICond) (t : ITy) (vd va vb : VReg) (s : State) : Out :=
  vectorExec (.vcmp k c t vd va vb) s
/-- VFCMP (R313): Vector floating compare into a mask. -/
def execVfcmp (k : VCtl) (c : FCond) (f : FTy) (vd va vb : VReg) (s : State) : Out :=
  vectorExec (.vfcmp k c f vd va vb) s
/-- MAND (R314): Mask AND. -/
def execMand (k : VCtl) (vd va vb : VReg) (s : State) : Out :=
  vectorExec (.mand k vd va vb) s
/-- MOR (R314): Mask OR. -/
def execMor (k : VCtl) (vd va vb : VReg) (s : State) : Out :=
  vectorExec (.mor k vd va vb) s
/-- MXOR (R314): Mask XOR. -/
def execMxor (k : VCtl) (vd va vb : VReg) (s : State) : Out :=
  vectorExec (.mxor k vd va vb) s
/-- MANDN (R314): Mask AND NOT. -/
def execMandn (k : VCtl) (vd va vb : VReg) (s : State) : Out :=
  vectorExec (.mandn k vd va vb) s
/-- MPOPC (R315): Rendezvous count of set mask bits into xd. -/
def execMpopc (k : VCtl) (xd : XReg) (va : VReg) (s : State) : Out :=
  vectorExec (.mpopc k xd va) s
/-- MFIRST (R315): Rendezvous lowest set mask index into xd. -/
def execMfirst (k : VCtl) (xd : XReg) (va : VReg) (s : State) : Out :=
  vectorExec (.mfirst k xd va) s
/-- VMERGE (R316): Vector select under a mask. -/
def execVmerge (k : VCtl) (t : ElTy) (vd va vb : VReg) (s : State) : Out :=
  vectorExec (.vmerge k t vd va vb) s
/-- VCVT (R318): Vector conversion between types. -/
def execVcvt (k : VCtl) (dt st : ElTy) (vd va : VReg) (s : State) : Out :=
  vectorExec (.vcvt k dt st vd va) s
/-- VCVTE (R321): Vector conversion by error-feedback rounding, as a rendezvous. -/
def execVcvte (k : VCtl) (dt st : ElTy) (vd va : VReg) (s : State) : Out :=
  vectorExec (.vcvte k dt st vd va) s
/-- VWIDEN (R319): Exact widening conversion. -/
def execVwiden (k : VCtl) (dt st : ElTy) (vd va : VReg) (s : State) : Out :=
  vectorExec (.vwiden k dt st vd va) s
/-- VNARROW (R320): Narrowing conversion to half the width. -/
def execVnarrow (k : VCtl) (dt st : ElTy) (vd va : VReg) (s : State) : Out :=
  vectorExec (.vnarrow k dt st vd va) s
/-- VPACK (R322): Packs F32 blocks into BFP mantissas and exponents. -/
def execVpack (k : VCtl) (m : BitVec 3) (l : BlkLen) (vd va : VReg) (s : State) : Out :=
  vectorExec (.vpack k m l vd va) s
/-- VUNPACK (R323): Unpacks BFP blocks to F32. -/
def execVunpack (k : VCtl) (m : BitVec 3) (l : BlkLen) (vd va : VReg) (s : State) : Out :=
  vectorExec (.vunpack k m l vd va) s
/-- VSCALE (R324): Scales by a power of two. -/
def execVscale (k : VCtl) (f : FTy) (vd va vb : VReg) (s : State) : Out :=
  vectorExec (.vscale k f vd va vb) s
/-- VSCACC (R325): Adds a scaled integer partial to an accumulator. -/
def execVscacc (k : VCtl) (f : FTy) (vd va vb : VReg) (s : State) : Out :=
  vectorExec (.vscacc k f vd va vb) s
/-- VLD (R326): Unit-stride vector load. -/
def execVld (k : VCtl) (off : BitVec 5) (xa : XReg) (vd : VReg) (s : State) : Out :=
  vectorExec (.vld k off xa vd) s
/-- VLDS (R326): Strided vector load. -/
def execVlds (k : VCtl) (xb xa : XReg) (vd : VReg) (s : State) : Out :=
  vectorExec (.vlds k xb xa vd) s
/-- VLDX (R326): Indexed vector load. -/
def execVldx (k : VCtl) (vb : VReg) (xa : XReg) (vd : VReg) (s : State) : Out :=
  vectorExec (.vldx k vb xa vd) s
/-- VLDO (R326): Ordered indexed vector load. -/
def execVldo (k : VCtl) (vb : VReg) (xa : XReg) (vd : VReg) (s : State) : Out :=
  vectorExec (.vldo k vb xa vd) s
/-- VPRF (R330): Unit-stride prefetch hint. -/
def execVprf (k : VCtl) (off : BitVec 5) (xa : XReg) (s : State) : Out :=
  vectorExec (.vprf k off xa) s
/-- VPRF_STRIDED (R330): Strided prefetch hint. -/
def execVprfStrided (k : VCtl) (xb xa : XReg) (s : State) : Out :=
  vectorExec (.vprfStrided k xb xa) s
/-- VLDA (R329): Vector acquire load. -/
def execVlda (k : VCtl) (sc : Scope) (off : BitVec 5) (xa : XReg) (vd : VReg) (s : State) : Out :=
  vectorExec (.vlda k sc off xa vd) s
/-- VST (R326): Unit-stride vector store. -/
def execVst (k : VCtl) (off : BitVec 5) (xa : XReg) (vs : VReg) (s : State) : Out :=
  vectorExec (.vst k off xa vs) s
/-- VSTS (R326): Strided vector store. -/
def execVsts (k : VCtl) (xb xa : XReg) (vs : VReg) (s : State) : Out :=
  vectorExec (.vsts k xb xa vs) s
/-- VSTX (R326): Indexed vector store. -/
def execVstx (k : VCtl) (vb : VReg) (xa : XReg) (vs : VReg) (s : State) : Out :=
  vectorExec (.vstx k vb xa vs) s
/-- VSTXO (R118): Ordered indexed vector store. -/
def execVstxo (k : VCtl) (vb : VReg) (xa : XReg) (vs : VReg) (s : State) : Out :=
  vectorExec (.vstxo k vb xa vs) s
/-- VSTL (R329): Vector release store. -/
def execVstl (k : VCtl) (sc : Scope) (off : BitVec 5) (xa : XReg) (vs : VReg) (s : State) : Out :=
  vectorExec (.vstl k sc off xa vs) s
/-- VRLD (R332): Remote vector load from a forme. -/
def execVrld (k : VCtl) (vb : VReg) (xa : XReg) (vd : VReg) (s : State) : Out :=
  vectorExec (.vrld k vb xa vd) s
/-- VRST (R333): Remote vector store to a forme. -/
def execVrst (k : VCtl) (vb : VReg) (xa : XReg) (vd : VReg) (s : State) : Out :=
  vectorExec (.vrst k vb xa vd) s
/-- VRST_ORD (R333): Remote vector store with ORD. -/
def execVrstOrd (k : VCtl) (vb : VReg) (xa : XReg) (vd : VReg) (s : State) : Out :=
  vectorExec (.vrstOrd k vb xa vd) s
/-- VFGATH (R331): Fabric-spanning gather through a distribution entry. -/
def execVfgath (k : VCtl) (vb : VReg) (xa : XReg) (vd : VReg) (s : State) : Out :=
  vectorExec (.vfgath k vb xa vd) s
/-- VFSCAT (R333): Fabric-spanning scatter through a distribution entry. -/
def execVfscat (k : VCtl) (vb : VReg) (xa : XReg) (vd : VReg) (s : State) : Out :=
  vectorExec (.vfscat k vb xa vd) s
/-- TLD (R335): Loads from the lane's tile-store slice. -/
def execTld (k : VCtl) (off : BitVec 5) (xa : XReg) (vd : VReg) (s : State) : Out :=
  vectorExec (.tld k off xa vd) s
/-- TST (R335): Stores to the lane's tile-store slice. -/
def execTst (k : VCtl) (off : BitVec 5) (xa : XReg) (vd : VReg) (s : State) : Out :=
  vectorExec (.tst k off xa vd) s
/-- TROT (R336): Copies slice elements to the next member of the team. -/
def execTrot (k : VCtl) (xb xa : XReg) (s : State) : Out :=
  vectorExec (.trot k xb xa) s
/-- TFILL (R335): Fills slice elements from xb. -/
def execTfill (k : VCtl) (off : BitVec 5) (xa xb : XReg) (s : State) : Out :=
  vectorExec (.tfill k off xa xb) s
/-- VPERM (R340): Rendezvous permute by an index vector. -/
def execVperm (k : VCtl) (vd va vb : VReg) (s : State) : Out :=
  vectorExec (.vperm k vd va vb) s
/-- VSLUP (R340): Rendezvous slide up. -/
def execVslup (k : VCtl) (vd va : VReg) (xb : XReg) (s : State) : Out :=
  vectorExec (.vslup k vd va xb) s
/-- VSLDN (R340): Rendezvous slide down. -/
def execVsldn (k : VCtl) (vd va : VReg) (xb : XReg) (s : State) : Out :=
  vectorExec (.vsldn k vd va xb) s
/-- VBCAST (R340): Broadcasts a scalar to every element. -/
def execVbcast (k : VCtl) (vd : VReg) (xb : XReg) (s : State) : Out :=
  vectorExec (.vbcast k vd xb) s
/-- VEXTR (R340): Rendezvous extracting one element into xd. -/
def execVextr (k : VCtl) (xd : XReg) (va : VReg) (xb : XReg) (s : State) : Out :=
  vectorExec (.vextr k xd va xb) s
/-- VINS (R340): Inserts a scalar at one element. -/
def execVins (k : VCtl) (vd : VReg) (xa xb : XReg) (s : State) : Out :=
  vectorExec (.vins k vd xa xb) s
/-- VIDX (R340): Writes the element index into each element. -/
def execVidx (k : VCtl) (vd : VReg) (s : State) : Out :=
  vectorExec (.vidx k vd) s
/-- VRED (R341): Rendezvous integer reduction into xd. -/
def execVred (k : VCtl) (op : RedOp) (t : ITy) (xd : XReg) (va : VReg) (s : State) : Out :=
  vectorExec (.vred k op t xd va) s
/-- VFRED (R342): Rendezvous floating reduction in a fixed tree. -/
def execVfred (k : VCtl) (op : FRedOp) (f : FTy) (xd : XReg) (va : VReg) (s : State) : Out :=
  vectorExec (.vfred k op f xd va) s
/-- VSCAN (R343): Rendezvous inclusive scan. -/
def execVscan (k : VCtl) (op : ScanOp) (vd va : VReg) (s : State) : Out :=
  vectorExec (.vscan k op vd va) s
/-- VCOMP (R344): Compresses the active elements. -/
def execVcomp (k : VCtl) (vd va : VReg) (s : State) : Out :=
  vectorExec (.vcomp k vd va) s
/-- VEXPD (R344): Expands elements into the active positions. -/
def execVexpd (k : VCtl) (vd va : VReg) (s : State) : Out :=
  vectorExec (.vexpd k vd va) s
/-- VNZIDX (R344): Lists the indices of nonzero active elements. -/
def execVnzidx (k : VCtl) (t : ElTy) (vd va : VReg) (s : State) : Out :=
  vectorExec (.vnzidx k t vd va) s
/-- VTOPK (R345): Rendezvous top-k selection of values and indices. -/
def execVtopk (e : ECtl) (nonzero : Bool) (t : ElTy) (vd vq va : VReg) (xd : XReg) (count : BitVec 32) (s : State) : Out :=
  vectorExec (.vtopk e nonzero t vd vq va xd count) s
/-- VISECT (R346): Rendezvous intersection of two sorted chunks. -/
def execVisect (e : ECtl) (t : ITy) (vd va vb : VReg) (xs xn : XReg) (s : State) : Out :=
  vectorExec (.visect e t vd va vb xs xn) s
/-- VAMO (R362): Vector of far atomics. -/
def execVamo (e : ECtl) (op : AmoOp) (t : ITy) (sc : Scope) (q : AmoCtl) (vd : VReg) (xa : XReg) (vb vq : VReg) (s : State) : Out :=
  vectorExec (.vamo e op t sc q vd xa vb vq) s
/-- VAMOCAS (R362): Vector of far compare-and-swaps. -/
def execVamocas (e : ECtl) (t : ITy) (sc : Scope) (q : AmoCtl) (vd vb va vq : VReg) (s : State) : Out :=
  vectorExec (.vamocas e t sc q vd vb va vq) s

end Sys2Proof.Machine
end

