-- ==== Sys2Proof/Machine/Dispatch.lean ====
section
/-! DEFINITION. Dispatch: one arm for each constructor of `Instr`, each one call of that instruction's meaning. -/

namespace Sys2Proof.Machine

/-- What an instruction or event does to the module. -/
def exec (i : Instr) (s : State) : Host.Outcome State Fault Refusal :=
  match i with
  | .add xd xa xb => Sys2Proof.Machine.execAdd xd xa xb s
  | .sub xd xa xb => Sys2Proof.Machine.execSub xd xa xb s
  | .mul xd xa xb => Sys2Proof.Machine.execMul xd xa xb s
  | .mulh xd xa xb => Sys2Proof.Machine.execMulh xd xa xb s
  | .mulhn xd xa xb => Sys2Proof.Machine.execMulhn xd xa xb s
  | .div xd xa xb => Sys2Proof.Machine.execDiv xd xa xb s
  | .divn xd xa xb => Sys2Proof.Machine.execDivn xd xa xb s
  | .rem xd xa xb => Sys2Proof.Machine.execRem xd xa xb s
  | .remn xd xa xb => Sys2Proof.Machine.execRemn xd xa xb s
  | .and xd xa xb => Sys2Proof.Machine.execAnd xd xa xb s
  | .or xd xa xb => Sys2Proof.Machine.execOr xd xa xb s
  | .xor xd xa xb => Sys2Proof.Machine.execXor xd xa xb s
  | .shl xd xa xb => Sys2Proof.Machine.execShl xd xa xb s
  | .shr xd xa xb => Sys2Proof.Machine.execShr xd xa xb s
  | .sha xd xa xb => Sys2Proof.Machine.execSha xd xa xb s
  | .slt xd xa xb => Sys2Proof.Machine.execSlt xd xa xb s
  | .sltn xd xa xb => Sys2Proof.Machine.execSltn xd xa xb s
  | .min xd xa xb => Sys2Proof.Machine.execMin xd xa xb s
  | .max xd xa xb => Sys2Proof.Machine.execMax xd xa xb s
  | .minn xd xa xb => Sys2Proof.Machine.execMinn xd xa xb s
  | .maxn xd xa xb => Sys2Proof.Machine.execMaxn xd xa xb s
  | .clz xd xa => Sys2Proof.Machine.execClz xd xa s
  | .ctz xd xa => Sys2Proof.Machine.execCtz xd xa s
  | .popc xd xa => Sys2Proof.Machine.execPopc xd xa s
  | .leaIndexed xd xa xb => Sys2Proof.Machine.execLeaIndexed xd xa xb s
  | .addi xd xa imm => Sys2Proof.Machine.execAddi xd xa imm s
  | .andi xd xa imm => Sys2Proof.Machine.execAndi xd xa imm s
  | .ori xd xa imm => Sys2Proof.Machine.execOri xd xa imm s
  | .xori xd xa imm => Sys2Proof.Machine.execXori xd xa imm s
  | .shli xd xa sh => Sys2Proof.Machine.execShli xd xa sh s
  | .shri xd xa sh => Sys2Proof.Machine.execShri xd xa sh s
  | .shai xd xa sh => Sys2Proof.Machine.execShai xd xa sh s
  | .slti xd xa imm => Sys2Proof.Machine.execSlti xd xa imm s
  | .sltni xd xa imm => Sys2Proof.Machine.execSltni xd xa imm s
  | .lea xd xa imm => Sys2Proof.Machine.execLea xd xa imm s
  | .ld ti xd xa off => Sys2Proof.Machine.execLd ti xd xa off s
  | .st ti xd xa off => Sys2Proof.Machine.execSt ti xd xa off s
  | .ldIndexed ti xd xa xb => Sys2Proof.Machine.execLdIndexed ti xd xa xb s
  | .stIndexed ti xd xa xb => Sys2Proof.Machine.execStIndexed ti xd xa xb s
  | .lda ti sc xd xa => Sys2Proof.Machine.execLda ti sc xd xa s
  | .stl ti sc xd xa => Sys2Proof.Machine.execStl ti sc xd xa s
  | .fadd f xd xa xb => Sys2Proof.Machine.execFadd f xd xa xb s
  | .fsub f xd xa xb => Sys2Proof.Machine.execFsub f xd xa xb s
  | .fmul f xd xa xb => Sys2Proof.Machine.execFmul f xd xa xb s
  | .fdiv f xd xa xb => Sys2Proof.Machine.execFdiv f xd xa xb s
  | .fmin f xd xa xb => Sys2Proof.Machine.execFmin f xd xa xb s
  | .fmax f xd xa xb => Sys2Proof.Machine.execFmax f xd xa xb s
  | .fsqrt f xd xa => Sys2Proof.Machine.execFsqrt f xd xa s
  | .fclass f xd xa => Sys2Proof.Machine.execFclass f xd xa s
  | .ffma f xd xa xb => Sys2Proof.Machine.execFfma f xd xa xb s
  | .fcmp c f xd xa xb => Sys2Proof.Machine.execFcmp c f xd xa xb s
  | .fcvt dt st xd xa => Sys2Proof.Machine.execFcvt dt st xd xa s
  | .beq xa xb disp => Sys2Proof.Machine.execBeq xa xb disp s
  | .bne xa xb disp => Sys2Proof.Machine.execBne xa xb disp s
  | .blt xa xb disp => Sys2Proof.Machine.execBlt xa xb disp s
  | .bge xa xb disp => Sys2Proof.Machine.execBge xa xb disp s
  | .bltn xa xb disp => Sys2Proof.Machine.execBltn xa xb disp s
  | .bgen xa xb disp => Sys2Proof.Machine.execBgen xa xb disp s
  | .jal xd imm => Sys2Proof.Machine.execJal xd imm s
  | .jalr xd xa imm => Sys2Proof.Machine.execJalr xd xa imm s
  | .csrr xd num => Sys2Proof.Machine.execCsrr xd num s
  | .csrw xd num => Sys2Proof.Machine.execCsrw xd num s
  | .csrs xd num => Sys2Proof.Machine.execCsrs xd num s
  | .csrc xd num => Sys2Proof.Machine.execCsrc xd num s
  | .trap code => Sys2Proof.Machine.execTrap code s
  | .eret => Sys2Proof.Machine.execEret s
  | .done => Sys2Proof.Machine.execDone s
  | .nop => Sys2Proof.Machine.execNop s
  | .vcfg xd sew nregs => Sys2Proof.Machine.execVcfg xd sew nregs s
  | .setvl xd xa => Sys2Proof.Machine.execSetvl xd xa s
  | .setvli xd imm => Sys2Proof.Machine.execSetvli xd imm s
  | .lit xd lit => Sys2Proof.Machine.execLit xd lit s
  | .safept map => Sys2Proof.Machine.execSafept map s
  | .vadd k t vd va vb => Sys2Proof.Machine.execVadd k t vd va vb s
  | .vsub k t vd va vb => Sys2Proof.Machine.execVsub k t vd va vb s
  | .vmul k t vd va vb => Sys2Proof.Machine.execVmul k t vd va vb s
  | .vmulh k t vd va vb => Sys2Proof.Machine.execVmulh k t vd va vb s
  | .vmadd k t vd va vb => Sys2Proof.Machine.execVmadd k t vd va vb s
  | .vmin k t vd va vb => Sys2Proof.Machine.execVmin k t vd va vb s
  | .vmax k t vd va vb => Sys2Proof.Machine.execVmax k t vd va vb s
  | .vand k vd va vb => Sys2Proof.Machine.execVand k vd va vb s
  | .vor k vd va vb => Sys2Proof.Machine.execVor k vd va vb s
  | .vxor k vd va vb => Sys2Proof.Machine.execVxor k vd va vb s
  | .vshl k vd va vb => Sys2Proof.Machine.execVshl k vd va vb s
  | .vsha k vd va vb => Sys2Proof.Machine.execVsha k vd va vb s
  | .vshr k vd va vb => Sys2Proof.Machine.execVshr k vd va vb s
  | .vsadd k t vd va vb => Sys2Proof.Machine.execVsadd k t vd va vb s
  | .vssub k t vd va vb => Sys2Proof.Machine.execVssub k t vd va vb s
  | .vavg k t vd va vb => Sys2Proof.Machine.execVavg k t vd va vb s
  | .vabs k vd va => Sys2Proof.Machine.execVabs k vd va s
  | .vneg k t vd va => Sys2Proof.Machine.execVneg k t vd va s
  | .vfadd k f vd va vb => Sys2Proof.Machine.execVfadd k f vd va vb s
  | .vfsub k f vd va vb => Sys2Proof.Machine.execVfsub k f vd va vb s
  | .vfmul k f vd va vb => Sys2Proof.Machine.execVfmul k f vd va vb s
  | .vfdiv k f vd va vb => Sys2Proof.Machine.execVfdiv k f vd va vb s
  | .vffma k f vd va vb => Sys2Proof.Machine.execVffma k f vd va vb s
  | .vffms k f vd va vb => Sys2Proof.Machine.execVffms k f vd va vb s
  | .vfnma k f vd va vb => Sys2Proof.Machine.execVfnma k f vd va vb s
  | .vfmin k f vd va vb => Sys2Proof.Machine.execVfmin k f vd va vb s
  | .vfmax k f vd va vb => Sys2Proof.Machine.execVfmax k f vd va vb s
  | .vfsqrt k f vd va => Sys2Proof.Machine.execVfsqrt k f vd va s
  | .vfabs k f vd va => Sys2Proof.Machine.execVfabs k f vd va s
  | .vfneg k f vd va => Sys2Proof.Machine.execVfneg k f vd va s
  | .vfclass k f vd va => Sys2Proof.Machine.execVfclass k f vd va s
  | .vfrcp k f vd va => Sys2Proof.Machine.execVfrcp k f vd va s
  | .vfrsq k f vd va => Sys2Proof.Machine.execVfrsq k f vd va s
  | .vfexp2 k f vd va => Sys2Proof.Machine.execVfexp2 k f vd va s
  | .vflog2 k f vd va => Sys2Proof.Machine.execVflog2 k f vd va s
  | .vfsinpi k f vd va => Sys2Proof.Machine.execVfsinpi k f vd va s
  | .vfcospi k f vd va => Sys2Proof.Machine.execVfcospi k f vd va s
  | .vcmp k c t vd va vb => Sys2Proof.Machine.execVcmp k c t vd va vb s
  | .vfcmp k c f vd va vb => Sys2Proof.Machine.execVfcmp k c f vd va vb s
  | .mand k vd va vb => Sys2Proof.Machine.execMand k vd va vb s
  | .mor k vd va vb => Sys2Proof.Machine.execMor k vd va vb s
  | .mxor k vd va vb => Sys2Proof.Machine.execMxor k vd va vb s
  | .mandn k vd va vb => Sys2Proof.Machine.execMandn k vd va vb s
  | .mpopc k xd va => Sys2Proof.Machine.execMpopc k xd va s
  | .mfirst k xd va => Sys2Proof.Machine.execMfirst k xd va s
  | .vmerge k t vd va vb => Sys2Proof.Machine.execVmerge k t vd va vb s
  | .vcvt k dt st vd va => Sys2Proof.Machine.execVcvt k dt st vd va s
  | .vcvte k dt st vd va => Sys2Proof.Machine.execVcvte k dt st vd va s
  | .vwiden k dt st vd va => Sys2Proof.Machine.execVwiden k dt st vd va s
  | .vnarrow k dt st vd va => Sys2Proof.Machine.execVnarrow k dt st vd va s
  | .vpack k m l vd va => Sys2Proof.Machine.execVpack k m l vd va s
  | .vunpack k m l vd va => Sys2Proof.Machine.execVunpack k m l vd va s
  | .vscale k f vd va vb => Sys2Proof.Machine.execVscale k f vd va vb s
  | .vscacc k f vd va vb => Sys2Proof.Machine.execVscacc k f vd va vb s
  | .vld k off xa vd => Sys2Proof.Machine.execVld k off xa vd s
  | .vlds k xb xa vd => Sys2Proof.Machine.execVlds k xb xa vd s
  | .vldx k vb xa vd => Sys2Proof.Machine.execVldx k vb xa vd s
  | .vldo k vb xa vd => Sys2Proof.Machine.execVldo k vb xa vd s
  | .vprf k off xa => Sys2Proof.Machine.execVprf k off xa s
  | .vprfStrided k xb xa => Sys2Proof.Machine.execVprfStrided k xb xa s
  | .vlda k sc off xa vd => Sys2Proof.Machine.execVlda k sc off xa vd s
  | .vst k off xa vs => Sys2Proof.Machine.execVst k off xa vs s
  | .vsts k xb xa vs => Sys2Proof.Machine.execVsts k xb xa vs s
  | .vstx k vb xa vs => Sys2Proof.Machine.execVstx k vb xa vs s
  | .vstxo k vb xa vs => Sys2Proof.Machine.execVstxo k vb xa vs s
  | .vstl k sc off xa vs => Sys2Proof.Machine.execVstl k sc off xa vs s
  | .vrld k vb xa vd => Sys2Proof.Machine.execVrld k vb xa vd s
  | .vrst k vb xa vd => Sys2Proof.Machine.execVrst k vb xa vd s
  | .vrstOrd k vb xa vd => Sys2Proof.Machine.execVrstOrd k vb xa vd s
  | .vfgath k vb xa vd => Sys2Proof.Machine.execVfgath k vb xa vd s
  | .vfscat k vb xa vd => Sys2Proof.Machine.execVfscat k vb xa vd s
  | .tld k off xa vd => Sys2Proof.Machine.execTld k off xa vd s
  | .tst k off xa vd => Sys2Proof.Machine.execTst k off xa vd s
  | .trot k xb xa => Sys2Proof.Machine.execTrot k xb xa s
  | .tfill k off xa xb => Sys2Proof.Machine.execTfill k off xa xb s
  | .vperm k vd va vb => Sys2Proof.Machine.execVperm k vd va vb s
  | .vslup k vd va xb => Sys2Proof.Machine.execVslup k vd va xb s
  | .vsldn k vd va xb => Sys2Proof.Machine.execVsldn k vd va xb s
  | .vbcast k vd xb => Sys2Proof.Machine.execVbcast k vd xb s
  | .vextr k xd va xb => Sys2Proof.Machine.execVextr k xd va xb s
  | .vins k vd xa xb => Sys2Proof.Machine.execVins k vd xa xb s
  | .vidx k vd => Sys2Proof.Machine.execVidx k vd s
  | .vred k op t xd va => Sys2Proof.Machine.execVred k op t xd va s
  | .vfred k op f xd va => Sys2Proof.Machine.execVfred k op f xd va s
  | .vscan k op vd va => Sys2Proof.Machine.execVscan k op vd va s
  | .vcomp k vd va => Sys2Proof.Machine.execVcomp k vd va s
  | .vexpd k vd va => Sys2Proof.Machine.execVexpd k vd va s
  | .vnzidx k t vd va => Sys2Proof.Machine.execVnzidx k t vd va s
  | .vtopk e nonzero t vd vq va xd count => Sys2Proof.Machine.execVtopk e nonzero t vd vq va xd count s
  | .visect e t vd va vb xs xn => Sys2Proof.Machine.execVisect e t vd va vb xs xn s
  | .semtas sem => Sys2Proof.Machine.execSemtas sem s
  | .semtry xd sem => Sys2Proof.Machine.execSemtry xd sem s
  | .semset sem => Sys2Proof.Machine.execSemset sem s
  | .semclr sem => Sys2Proof.Machine.execSemclr sem s
  | .boxr xd box => Sys2Proof.Machine.execBoxr xd box s
  | .boxw box xa => Sys2Proof.Machine.execBoxw box xa s
  | .bar sc => Sys2Proof.Machine.execBar sc s
  | .fence sc kind => Sys2Proof.Machine.execFence sc kind s
  | .capstart => Sys2Proof.Machine.execCapstart s
  | .capstop xa => Sys2Proof.Machine.execCapstop xa s
  | .sample xa => Sys2Proof.Machine.execSample xa s
  | .xcopy sc xd a xb chan sem semv vlcap => Sys2Proof.Machine.execXcopy sc xd a xb chan sem semv vlcap s
  | .xchain a chan => Sys2Proof.Machine.execXchain a chan s
  | .xstat sc xd src => Sys2Proof.Machine.execXstat sc xd src s
  | .xwait sc a mode => Sys2Proof.Machine.execXwait sc a mode s
  | .bin sc a => Sys2Proof.Machine.execBin sc a s
  | .walk sc a xb => Sys2Proof.Machine.execWalk sc a xb s
  | .stchk xd a xb xq => Sys2Proof.Machine.execStchk xd a xb xq s
  | .stkeep a xb xq => Sys2Proof.Machine.execStkeep a xb xq s
  | .stdrop xq mode => Sys2Proof.Machine.execStdrop xq mode s
  | .msend a xb xq ep => Sys2Proof.Machine.execMsend a xb xq ep s
  | .mpost a => Sys2Proof.Machine.execMpost a s
  | .mprobe xd a => Sys2Proof.Machine.execMprobe xd a s
  | .mtest xd a ep => Sys2Proof.Machine.execMtest xd a ep s
  | .mcancel xd a ep => Sys2Proof.Machine.execMcancel xd a ep s
  | .mwait xd a xb size trapTo timeout => Sys2Proof.Machine.execMwait xd a xb size trapTo timeout s
  | .vwait e t zeroCond trapTo xd vq xa vb timeout => Sys2Proof.Machine.execVwait e t zeroCond trapTo xd vq xa vb timeout s
  | .wmpub sc a entry => Sys2Proof.Machine.execWmpub sc a entry s
  | .wmchk xd entry => Sys2Proof.Machine.execWmchk xd entry s
  | .tkpost a xb => Sys2Proof.Machine.execTkpost a xb s
  | .tktake xd a => Sys2Proof.Machine.execTktake xd a s
  | .launch a region => Sys2Proof.Machine.execLaunch a region s
  | .amo op t sc q xd a xb => Sys2Proof.Machine.execAmo op t sc q xd a xb s
  | .amocas t sc q xd a xb xq => Sys2Proof.Machine.execAmocas t sc q xd a xb xq s
  | .famo op f64 sc q xd a xb => Sys2Proof.Machine.execFamo op f64 sc q xd a xb s
  | .vamo e op t sc q vd xa vb vq => Sys2Proof.Machine.execVamo e op t sc q vd xa vb vq s
  | .vamocas e t sc q vd vb va vq => Sys2Proof.Machine.execVamocas e t sc q vd vb va vq s
  | .wli wd imm => Sys2Proof.Machine.execWli wd imm s
  | .wmov wd wa => Sys2Proof.Machine.execWmov wd wa s
  | .wadd wd wa wb => Sys2Proof.Machine.execWadd wd wa wb s
  | .waddi wd wa imm => Sys2Proof.Machine.execWaddi wd wa imm s
  | .wsub wd wa wb => Sys2Proof.Machine.execWsub wd wa wb s
  | .wshl wd wa sh => Sys2Proof.Machine.execWshl wd wa sh s
  | .wshr wd wa sh => Sys2Proof.Machine.execWshr wd wa sh s
  | .wand wd wa wb => Sys2Proof.Machine.execWand wd wa wb s
  | .wor wd wa wb => Sys2Proof.Machine.execWor wd wa wb s
  | .wcmp c wd wa wb => Sys2Proof.Machine.execWcmp c wd wa wb s
  | .wld wd wa sz imm => Sys2Proof.Machine.execWld wd wa sz imm s
  | .wldv wd wa wb => Sys2Proof.Machine.execWldv wd wa wb s
  | .wbmp wd wa wb => Sys2Proof.Machine.execWbmp wd wa wb s
  | .wffs wd wa => Sys2Proof.Machine.execWffs wd wa s
  | .wpopc wd wa => Sys2Proof.Machine.execWpopc wd wa s
  | .wemit isExp wa wb => Sys2Proof.Machine.execWemit isExp wa wb s
  | .wrow => Sys2Proof.Machine.execWrow s
  | .wflush => Sys2Proof.Machine.execWflush s
  | .wbr wa imm => Sys2Proof.Machine.execWbr wa imm s
  | .wjmp imm => Sys2Proof.Machine.execWjmp imm s
  | .wloop wd imm => Sys2Proof.Machine.execWloop wd imm s
  | .whalt => Sys2Proof.Machine.execWhalt s
  | .ccAdd w => Sys2Proof.Machine.execCcAdd w s
  | .ccSub w => Sys2Proof.Machine.execCcSub w s
  | .ccMul w => Sys2Proof.Machine.execCcMul w s
  | .ccMulh w => Sys2Proof.Machine.execCcMulh w s
  | .ccMulhn w => Sys2Proof.Machine.execCcMulhn w s
  | .ccDiv w => Sys2Proof.Machine.execCcDiv w s
  | .ccDivn w => Sys2Proof.Machine.execCcDivn w s
  | .ccRem w => Sys2Proof.Machine.execCcRem w s
  | .ccRemn w => Sys2Proof.Machine.execCcRemn w s
  | .ccAnd w => Sys2Proof.Machine.execCcAnd w s
  | .ccOr w => Sys2Proof.Machine.execCcOr w s
  | .ccXor w => Sys2Proof.Machine.execCcXor w s
  | .ccShl w => Sys2Proof.Machine.execCcShl w s
  | .ccShr w => Sys2Proof.Machine.execCcShr w s
  | .ccSha w => Sys2Proof.Machine.execCcSha w s
  | .ccSlt w => Sys2Proof.Machine.execCcSlt w s
  | .ccSltn w => Sys2Proof.Machine.execCcSltn w s
  | .ccMin w => Sys2Proof.Machine.execCcMin w s
  | .ccMax w => Sys2Proof.Machine.execCcMax w s
  | .ccMinn w => Sys2Proof.Machine.execCcMinn w s
  | .ccMaxn w => Sys2Proof.Machine.execCcMaxn w s
  | .ccClz w => Sys2Proof.Machine.execCcClz w s
  | .ccCtz w => Sys2Proof.Machine.execCcCtz w s
  | .ccPopc w => Sys2Proof.Machine.execCcPopc w s
  | .ccLea w => Sys2Proof.Machine.execCcLea w s
  | .ccLit w => Sys2Proof.Machine.execCcLit w s
  | .ccLd w => Sys2Proof.Machine.execCcLd w s
  | .ccSt w => Sys2Proof.Machine.execCcSt w s
  | .ccLda w => Sys2Proof.Machine.execCcLda w s
  | .ccStl w => Sys2Proof.Machine.execCcStl w s
  | .ccAmo w => Sys2Proof.Machine.execCcAmo w s
  | .ccAmocas w => Sys2Proof.Machine.execCcAmocas w s
  | .ccFamo w => Sys2Proof.Machine.execCcFamo w s
  | .ccFence w => Sys2Proof.Machine.execCcFence w s
  | .ccFadd w => Sys2Proof.Machine.execCcFadd w s
  | .ccFsub w => Sys2Proof.Machine.execCcFsub w s
  | .ccFmul w => Sys2Proof.Machine.execCcFmul w s
  | .ccFdiv w => Sys2Proof.Machine.execCcFdiv w s
  | .ccFsqrt w => Sys2Proof.Machine.execCcFsqrt w s
  | .ccFmin w => Sys2Proof.Machine.execCcFmin w s
  | .ccFmax w => Sys2Proof.Machine.execCcFmax w s
  | .ccFfma w => Sys2Proof.Machine.execCcFfma w s
  | .ccFcmp w => Sys2Proof.Machine.execCcFcmp w s
  | .ccFcvt w => Sys2Proof.Machine.execCcFcvt w s
  | .ccFclass w => Sys2Proof.Machine.execCcFclass w s
  | .ccBeq w => Sys2Proof.Machine.execCcBeq w s
  | .ccBne w => Sys2Proof.Machine.execCcBne w s
  | .ccBlt w => Sys2Proof.Machine.execCcBlt w s
  | .ccBge w => Sys2Proof.Machine.execCcBge w s
  | .ccBltn w => Sys2Proof.Machine.execCcBltn w s
  | .ccBgen w => Sys2Proof.Machine.execCcBgen w s
  | .ccJal w => Sys2Proof.Machine.execCcJal w s
  | .ccJalr w => Sys2Proof.Machine.execCcJalr w s
  | .ccCsrr w => Sys2Proof.Machine.execCcCsrr w s
  | .ccCsrw w => Sys2Proof.Machine.execCcCsrw w s
  | .ccCsrs w => Sys2Proof.Machine.execCcCsrs w s
  | .ccCsrc w => Sys2Proof.Machine.execCcCsrc w s
  | .ccTrap w => Sys2Proof.Machine.execCcTrap w s
  | .ccEret w => Sys2Proof.Machine.execCcEret w s
  | .ccDone w => Sys2Proof.Machine.execCcDone w s
  | .ccNop w => Sys2Proof.Machine.execCcNop w s
  | .ccSafept w => Sys2Proof.Machine.execCcSafept w s
  | .ccSemtas w => Sys2Proof.Machine.execCcSemtas w s
  | .ccSemtry w => Sys2Proof.Machine.execCcSemtry w s
  | .ccSemset w => Sys2Proof.Machine.execCcSemset w s
  | .ccSemclr w => Sys2Proof.Machine.execCcSemclr w s
  | .ccBoxr w => Sys2Proof.Machine.execCcBoxr w s
  | .ccBoxw w => Sys2Proof.Machine.execCcBoxw w s
  | .ccBar w => Sys2Proof.Machine.execCcBar w s
  | .ccMwait w => Sys2Proof.Machine.execCcMwait w s
  | .ccWmpub w => Sys2Proof.Machine.execCcWmpub w s
  | .ccTkpost w => Sys2Proof.Machine.execCcTkpost w s
  | .ccTktake w => Sys2Proof.Machine.execCcTktake w s
  | .ccCapstart w => Sys2Proof.Machine.execCcCapstart w s
  | .ccCapstop w => Sys2Proof.Machine.execCcCapstop w s
  | .ccSample w => Sys2Proof.Machine.execCcSample w s
  | .ccXcopy w => Sys2Proof.Machine.execCcXcopy w s
  | .ccXstat w => Sys2Proof.Machine.execCcXstat w s
  | .ccXwait w => Sys2Proof.Machine.execCcXwait w s
  | .ccWalk w => Sys2Proof.Machine.execCcWalk w s
  | .ccBin w => Sys2Proof.Machine.execCcBin w s
  | .ccLaunch w => Sys2Proof.Machine.execCcLaunch w s
  | .ccMsend w => Sys2Proof.Machine.execCcMsend w s
  | .ccMpost w => Sys2Proof.Machine.execCcMpost w s
  | .ccMprobe w => Sys2Proof.Machine.execCcMprobe w s
  | .ccMtest w => Sys2Proof.Machine.execCcMtest w s
  | .ccMcancel w => Sys2Proof.Machine.execCcMcancel w s
  | .ccStchk w => Sys2Proof.Machine.execCcStchk w s
  | .ccStkeep w => Sys2Proof.Machine.execCcStkeep w s
  | .ccStdrop w => Sys2Proof.Machine.execCcStdrop w s
  | .mma w => Sys2Proof.Machine.execMma w s
  | .mmaz w => Sys2Proof.Machine.execMmaz w s
  | .mmag w => Sys2Proof.Machine.execMmag w s
  | .scacc w => Sys2Proof.Machine.execScacc w s
  | .accld w => Sys2Proof.Machine.execAccld w s
  | .accst w => Sys2Proof.Machine.execAccst w s
  | .acccvt w => Sys2Proof.Machine.execAcccvt w s
  | .acczero w => Sys2Proof.Machine.execAcczero w s
  | .hgemv w => Sys2Proof.Machine.execHgemv w s
  | .hprep w => Sys2Proof.Machine.execHprep w s
  | .seqw w => Sys2Proof.Machine.execSeqw w s
  | .seqwait w => Sys2Proof.Machine.execSeqwait w s
  | .moduleReset bank0Ok bank1Ok deadDies badChannels => Sys2Proof.Machine.execModuleReset bank0Ok bank1Ok deadDies badChannels s
  | .portTraining port nbr width trained => Sys2Proof.Machine.execPortTraining port nbr width trained s
  | .portDown port => Sys2Proof.Machine.execPortDown port s
  | .portWidthLoss port width reservesHeld => Sys2Proof.Machine.execPortWidthLoss port width reservesHeld s
  | .convoyFetch thr => Sys2Proof.Machine.execConvoyFetch thr s
  | .broadcast die cluster => Sys2Proof.Machine.execBroadcast die cluster s
  | .laneCommit thr lane => Sys2Proof.Machine.execLaneCommit thr lane s
  | .rendezvousDelivery thr slot => Sys2Proof.Machine.execRendezvousDelivery thr slot s
  | .trapRecord thr => Sys2Proof.Machine.execTrapRecord thr s
  | .engineFault cmd rep => Sys2Proof.Machine.execEngineFault cmd rep s
  | .engineFaultReport thr => Sys2Proof.Machine.execEngineFaultReport thr s
  | .memberResume mem => Sys2Proof.Machine.execMemberResume mem s
  | .schedulingPass die => Sys2Proof.Machine.execSchedulingPass die s
  | .launchQueueHead rid => Sys2Proof.Machine.execLaunchQueueHead rid s
  | .safePointSave team => Sys2Proof.Machine.execSafePointSave team s
  | .forcedSave team => Sys2Proof.Machine.execForcedSave team s
  | .saveComplete team => Sys2Proof.Machine.execSaveComplete team s
  | .spaceClearingEnd mem => Sys2Proof.Machine.execSpaceClearingEnd mem s
  | .teamResume team => Sys2Proof.Machine.execTeamResume team s
  | .memberEnd mem => Sys2Proof.Machine.execMemberEnd mem s
  | .teamEnd team => Sys2Proof.Machine.execTeamEnd team s
  | .faultDomainEnd team => Sys2Proof.Machine.execFaultDomainEnd team s
  | .launchDoorbell fn rid tail => Sys2Proof.Machine.execLaunchDoorbell fn rid tail s
  | .hostRingRead rid => Sys2Proof.Machine.execHostRingRead rid s
  | .tableWrite die => Sys2Proof.Machine.execTableWrite die s
  | .tableInvalidate die => Sys2Proof.Machine.execTableInvalidate die s
  | .tableRead die => Sys2Proof.Machine.execTableRead die s
  | .tlbInvalidateAll die => Sys2Proof.Machine.execTlbInvalidateAll die s
  | .tlbInvalidateRegion die => Sys2Proof.Machine.execTlbInvalidateRegion die s
  | .tlbInvalidateRange die => Sys2Proof.Machine.execTlbInvalidateRange die s
  | .rtWriteStandby => Sys2Proof.Machine.execRtWriteStandby s
  | .rtReadActive => Sys2Proof.Machine.execRtReadActive s
  | .rtBeginSwap => Sys2Proof.Machine.execRtBeginSwap s
  | .swapstart origin => Sys2Proof.Machine.execSwapstart origin s
  | .drained origin => Sys2Proof.Machine.execDrained origin s
  | .oldGenerationDrained => Sys2Proof.Machine.execOldGenerationDrained s
  | .portstatWdrawWrite port val => Sys2Proof.Machine.execPortstatWdrawWrite port val s
  | .digestClear port => Sys2Proof.Machine.execDigestClear port s
  | .debugEntryWrite die => Sys2Proof.Machine.execDebugEntryWrite die s
  | .debugEntryRead die => Sys2Proof.Machine.execDebugEntryRead die s
  | .dbgnonceRead => Sys2Proof.Machine.execDbgnonceRead s
  | .svcreq fn action target statusAddr => Sys2Proof.Machine.execSvcreq fn action target statusAddr s
  | .svcstat fn request => Sys2Proof.Machine.execSvcstat fn request s
  | .keyload fn rid blob ownerKey => Sys2Proof.Machine.execKeyload fn rid blob ownerKey s
  | .cpassign fn rid page pages => Sys2Proof.Machine.execCpassign fn rid page pages s
  | .cprelease fn rid page pages => Sys2Proof.Machine.execCprelease fn rid page pages s
  | .fwload fn image length flags => Sys2Proof.Machine.execFwload fn image length flags s
  | .laneSparing request durationMs => Sys2Proof.Machine.execLaneSparing request durationMs s
  | .clusterRetirement request durationMs => Sys2Proof.Machine.execClusterRetirement request durationMs s
  | .sliceRetirement request durationMs => Sys2Proof.Machine.execSliceRetirement request durationMs s
  | .pseudoChannelRetirement request durationMs => Sys2Proof.Machine.execPseudoChannelRetirement request durationMs s
  | .portWithdrawal request durationMs => Sys2Proof.Machine.execPortWithdrawal request durationMs s
  | .firmwareUpdateAction request durationMs => Sys2Proof.Machine.execFirmwareUpdateAction request durationMs s
  | .cappingWindow power diePower => Sys2Proof.Machine.execCappingWindow power diePower s
  | .thermalLimit die reached => Sys2Proof.Machine.execThermalLimit die reached s
  | .thermalStop => Sys2Proof.Machine.execThermalStop s
  | .thermalPowerOff sensor => Sys2Proof.Machine.execThermalPowerOff sensor s
  | .droopStretch die cluster cycles => Sys2Proof.Machine.execDroopStretch die cluster cycles s
  | .patrolScrub sector outcome => Sys2Proof.Machine.execPatrolScrub sector outcome s
  | .monitorWake die slice index reason => Sys2Proof.Machine.execMonitorWake die slice index reason s
  | .mwaitTimeout thr => Sys2Proof.Machine.execMwaitTimeout thr s
  | .vwaitPoll thr => Sys2Proof.Machine.execVwaitPoll thr s
  | .vwaitTimeout thr => Sys2Proof.Machine.execVwaitTimeout thr s
  | .remoteRequest req => Sys2Proof.Machine.execRemoteRequest req s
  | .remoteResponse resp => Sys2Proof.Machine.execRemoteResponse resp s
  | .remoteTimeout tagno => Sys2Proof.Machine.execRemoteTimeout tagno s
  | .packetForward pkt => Sys2Proof.Machine.execPacketForward pkt s
  | .nak tagno => Sys2Proof.Machine.execNak tagno s
  | .messageArrival msg => Sys2Proof.Machine.execMessageArrival msg s
  | .messageRetry cmd => Sys2Proof.Machine.execMessageRetry cmd s
  | .messageAcceptAck cmd => Sys2Proof.Machine.execMessageAcceptAck cmd s
  | .messagePayloadDone cmd data trunc poisoned => Sys2Proof.Machine.execMessagePayloadDone cmd data trunc poisoned s
  | .engineCompletion cmd => Sys2Proof.Machine.execEngineCompletion cmd s
  | .chainRecordRead mem chan => Sys2Proof.Machine.execChainRecordRead mem chan s
  | .walkerBufferOpen die cluster => Sys2Proof.Machine.execWalkerBufferOpen die cluster s
  | .platenOpStart thr => Sys2Proof.Machine.execPlatenOpStart thr s
  | .platenOpComplete thr => Sys2Proof.Machine.execPlatenOpComplete thr s
  | .resultDelivery thr seq => Sys2Proof.Machine.execResultDelivery thr seq s
  | .stkeepSpaceFree die => Sys2Proof.Machine.execStkeepSpaceFree die s
  | .sampleRecord thr => Sys2Proof.Machine.execSampleRecord thr s
  | .samptailWrite thr val => Sys2Proof.Machine.execSamptailWrite thr val s
  | .hostMemoryRead addr len => Sys2Proof.Machine.execHostMemoryRead addr len s
  | .hostMemoryWrite addr data => Sys2Proof.Machine.execHostMemoryWrite addr data s
  | .registerWrite who offset val => Sys2Proof.Machine.execRegisterWrite who offset val s
  | .getVersion => Sys2Proof.Machine.execGetVersion s
  | .getCapabilities => Sys2Proof.Machine.execGetCapabilities s
  | .negotiateAlgorithms offer => Sys2Proof.Machine.execNegotiateAlgorithms offer s
  | .getDigests => Sys2Proof.Machine.execGetDigests s
  | .getCertificate slot offset length => Sys2Proof.Machine.execGetCertificate slot offset length s
  | .challenge nonce => Sys2Proof.Machine.execChallenge nonce s
  | .getMeasurements index nonce => Sys2Proof.Machine.execGetMeasurements index nonce s
  | .iddifyAttach team => Sys2Proof.Machine.execIddifyAttach team s
  | .confidentialAttach team signature => Sys2Proof.Machine.execConfidentialAttach team signature s
  | .debugHalt team => Sys2Proof.Machine.execDebugHalt team s
  | .debugResume team => Sys2Proof.Machine.execDebugResume team s
  | .convoyStep thr => Sys2Proof.Machine.execConvoyStep thr s
  | .stepToAlign thr => Sys2Proof.Machine.execStepToAlign thr s
  | .deferAnswer cmd => Sys2Proof.Machine.execDeferAnswer cmd s
  | .ordStoreRetry tagno => Sys2Proof.Machine.execOrdStoreRetry tagno s
  | .thermalStopEnd => Sys2Proof.Machine.execThermalStopEnd s
  | .unknownCommandCode fn code => Sys2Proof.Machine.execUnknownCommandCode fn code s

end Sys2Proof.Machine
end

