-- ==== Sys2Proof/Machine/Turn.lean ====
section
/-! DEFINITION. Turns: which agent or event moves next, what the module does of its own accord, and what a fetch, a walker's word
or a posted event does around a meaning (assumption log 1). -/

namespace Sys2Proof.Machine

/-! ### Agents -/

/-- The walker of cluster k has a word to run: it runs, and its team is on the cluster (16 R401, R414). -/
def State.walkerReady (s : State) (k : Nat) : Bool :=
  (s.clu k).walker.state == .running &&
  (match s.walkOf k with | some (c, _) => (s.tm (s.th c.thr).team).state != .saved | none => false)

/-- The lanes of strand t have a convoy to execute, or a fault to report. -/
def State.lanesReady (s : State) (t : Nat) : Bool := s.runnable t && !(s.th t).inh && !(s.th t).window.isEmpty

/-- An agent that can take a step. -/
def State.agentReady (s : State) : Agent → Bool
  | .idle => true
  | .thread t => (s.runnable t || s.unanswered t) && ((s.th t).kind != .control || s.ctlFirst t)
  | .walker k => s.walkerReady k
  | .lanes t => s.lanesReady t

/-- Every agent in turn: each thread with its lanes, then the walkers. -/
def State.agents (s : State) : List Agent :=
  (List.range s.threads.length).flatMap (fun t => [.thread t, .lanes t]) ++
    (s.clusters.filter fun c => c.2.walker.cmd.isSome).map fun c => .walker c.1

/-- The agent that moves when the schedule says nothing: the next that can, in cyclic order. -/
def State.defaultAgent (s : State) : Agent :=
  let l := s.agents
  let n := l.findIdx (· == s.cur) + 1
  ((l.drop n ++ l.take n).find? s.agentReady).getD .idle

/-! ### What the module does of its own accord -/

/-- A die whose scheduling pass is due (06 R166). -/
def State.duePass (s : State) : Option Nat := (List.range 4).find? fun d => (s.die d).passLeft == 0 && !(s.die d).off

/-- The teams whose state satisfies a test. -/
def State.teamsThat (s : State) (p : Nat → Bool) : List Nat := (List.range s.teams.length).filter p

/-- A team that leaves its cores: at a safe point, at its deadline, or at the end of its save (02 R56, R57, 06 R172). -/
def State.dueSave (s : State) : Option State :=
  match s.teamsThat s.canSafeSave with
  | k :: _ => some (s.saveTeam k false)
  | [] => match s.teamsThat s.canForce with
    | k :: _ => some (s.forceSave k)
    | [] => (List.range s.teams.length).findSome? s.endSave

/-- A message that its receive engine sends again, or lends a forme for (17 R417). -/
def State.dueSend (s : State) : Option State :=
  match s.cmds.find? s.retryDue with
  | some c => some (s.runSend c)
  | none => s.cmds.findSome? fun c => match c.body with
    | .send _ _ _ _ _ _ _ _ _ _ 3 => match execDeferAnswer c.id s with
      | .next s' => if s'.cmds = s.cmds then none else some s'
      | _ => none
    | _ => none

/-- A service action that can go on; its duration is free (18 R445). -/
def State.dueAction (s : State) : Option State :=
  match s.dueService with
  | none => none
  | some r =>
    let ms := Config.freeNat s.tick % 2 ^ 32
    let t := { s with tick := s.tick + 1 }
    let o := match r.action with
      | 1 => execLaneSparing r.num ms t
      | 2 => execClusterRetirement r.num ms t
      | 3 => execSliceRetirement r.num ms t
      | 4 => execPseudoChannelRetirement r.num ms t
      | 5 => execPortWithdrawal r.num ms t
      | _ => execFirmwareUpdateAction r.num ms t
    match o with | .next s' => some s' | _ => none

/-- What is due in the module without an event of its own. -/
def State.dueNow (s : State) : Option State :=
  if ¬ s.mgmt.powered then none
  else match s.duePass with
    | some d => some (s.pass d)
    | none => match s.dueSave with
      | some s' => some s'
      | none => match s.dueSend with
        | some s' => some s'
        | none => match s.dueReload with
          | some d => some (s.reloadDie d)
          | none => s.dueAction

/-! ### Posted events -/

/-- What a posted event comes to; one that is no longer possible is dropped. -/
def State.posted (s : State) (k : EvKind) (a b : Nat) : Out :=
  let o := match k with
    | .engineCompletion => execEngineCompletion a s
    | .chainRecordRead => execChainRecordRead a b s
    | .engineFaultReport => execEngineFaultReport a s
    | .resultDelivery => execResultDelivery a b s
    | .platenOpStart => execPlatenOpStart a s
    | .platenOpComplete => execPlatenOpComplete a s
    | .tableWrite => execTableWrite a s
    | .tableInvalidate => execTableInvalidate a s
    | .tableRead => execTableRead a s
    | .tlbInvalidateAll => execTlbInvalidateAll a s
    | .tlbInvalidateRegion => execTlbInvalidateRegion a s
    | .tlbInvalidateRange => execTlbInvalidateRange a s
    | .rtWriteStandby => execRtWriteStandby s
    | .rtReadActive => execRtReadActive s
    | .rtBeginSwap => execRtBeginSwap s
    | .debugEntryWrite => execDebugEntryWrite a s
    | .debugEntryRead => execDebugEntryRead a s
    | .hostRingRead => execHostRingRead a s
    | .launchQueueHead => execLaunchQueueHead a s
    | .schedulingPass => execSchedulingPass a s
    | .safePointSave => execSafePointSave a s
    | .forcedSave => execForcedSave a s
    | .saveComplete => execSaveComplete a s
    | .spaceClearingEnd => execSpaceClearingEnd a s
    | .teamResume => execTeamResume a s
    | .memberEnd => execMemberEnd a s
    | .teamEnd => execTeamEnd a s
    | .faultDomainEnd => execFaultDomainEnd a s
    | .walkerBufferOpen => execWalkerBufferOpen (a / 128) (a % 128) s
    | .stkeepSpaceFree => execStkeepSpaceFree a s
    | .sampleRecord => execSampleRecord a s
    | .messageRetry => execMessageRetry a s
    | .deferAnswer => execDeferAnswer a s
    | .ordStoreRetry => execOrdStoreRetry a s
    | .renDelivery => execRendezvousDelivery a b s
    | .trapRecord => execTrapRecord a s
    | .laneSparing => execLaneSparing a b s
    | .clusterRetirement => execClusterRetirement a b s
    | .sliceRetirement => execSliceRetirement a b s
    | .pseudoChannelRetirement => execPseudoChannelRetirement a b s
    | .portWithdrawal => execPortWithdrawal a b s
    | .firmwareUpdateAction => execFirmwareUpdateAction a b s
    | .oldGenerationDrained => execOldGenerationDrained s
    | .mailboxCommand => eventExec s (s.mailboxStep a)
  match o with
  | .next s' => .next s'
  | _ => .next s

/-! ### Moves -/

/-- What moves next. -/
inductive Move where
  | agent (a : Agent)
  | event (e : Event)
  /-- the module has moved of its own accord -/
  | own
  deriving DecidableEq, Repr

/-- The oldest waiting event, or what is due, or the default agent. -/
def State.defaultMove (s : State) : State × Move :=
  match s.inbox with
  | e :: rest => ({ s with inbox := rest }, .event e)
  | [] => match s.dueNow with
    | some s' => (s', .own)
    | none => (s, .agent s.defaultAgent)

/-- The move of the next step: the head of the schedule when it can move, else the default. What the schedule brings from outside
happens in its place. -/
def State.nextMove (s : State) : State × Move :=
  match s.sched with
  | .agent a :: rest =>
    if s.agentReady a then ({ s with sched := rest }, .agent a) else State.defaultMove { s with sched := rest }
  | .event :: rest => State.defaultMove { s with sched := rest }
  | .outside o :: rest => (State.befall { s with sched := rest } o, .own)
  | [] => s.defaultMove

/-- The clusters on which a context is resident. -/
def State.liveClusters (s : State) : List Nat :=
  ((s.threads.filter fun th => th.active && th.kind != .supervisor).map fun th =>
    cluKey (s.mb th.member).die (s.mb th.member).cluster).eraseDups

/-- Nothing can run: cycles pass on the clusters that hold a context, and the dies' schedulers count on (assumption log 8). -/
def State.idle (s : State) : State :=
  let n := Config.freeNat s.tick + 1
  let s := s.liveClusters.foldl (fun s k => (s.passCycles k n).modClu k fun c => { c with ctlNow := c.ctlNow + n }) s
  { s.allDies (fun d => { d with sched := d.sched + n, passLeft := d.passLeft - n }) with tick := s.tick + 1, cur := .idle }

/-! ### Fetch of the three decoders -/

/-- The head of a strand queue that fetch or decode has marked before any unit: its trap (06 R146). A PC breakpoint there comes first, as
it does at a convoy marked at a later unit and at a marked control word (DESIGN CHOICE, 08 R226, assumption log 109). -/
def execMarked (s : State) (t : Nat) : Out :=
  let f := (s.th t).head
  if (s.th t).engFault ≠ [] then .next ((s.reportEngine t).tock t)
  else
    if (s.th t).laneFault ≠ [] then .next ((s.recordFault t).tock t)
    else if (s.th t).breaks f.pc then .next ((s.rerun t f (causeTrap 0x10)).tock t)
    else .next ((s.rerun t f (f.fault.getD (causeTrap 0x01))).tock t)

/-- The strand queue of thread t is filled when it is empty. -/
def State.filled (s : State) (t : Nat) : State := if (s.th t).queue = [] then s.fetch t else s

/-- A control word that fetch or decode refuses: the trap stands at the word, after a breakpoint there (15 R373, 10 R256; assumption
log 109). -/
def execBadWord (tr : Trap) (s : State) : Out :=
  ctlTurn s fun s t =>
    let tr := if (s.th t).breaks (s.th t).pc then causeTrap 0x10 else tr
    .next ((s.takeTrap t tr (siteAt (s.th t).pc ((s.th t).sys.cseq.setWidth 32) (s.th t).pc)).ctlPass t 1)

/-- The control word at the PC of thread t (15 R373). -/
def State.fetchCtl (s : State) (t : Nat) : State × Except Trap Nat :=
  s.readElem (s.ctxOf t) 0 .fetch false (s.th t).pc 8

/-- A control thread that has ended goes on with the words its units have still to answer. -/
def execUnanswered (s : State) (t : Nat) : Out :=
  match (s.ctlSync t).retryUnits t with
  | (s, some (tr, si)) => .next ((s.takeTrap t tr (siteAt si.pc si.seq (s.th t).pc)).ctlPass t 1)
  | (s, none) => .next (s.ctlPass t 1)

/-- The word at the PC of the walker of cluster k (16 R400): none when a fault or a hold has ended the step. -/
def State.fetchWalker (s : State) (k : Nat) : State × Except Out Nat :=
  match s.walkOf k with
  | none => (s, .error (.fault .noThread))
  | some (c, _) =>
    let pc := (s.clu k).walker.pc
    if s.engHeld c false pc 4 then (s, .error (.next (s.tickWalker k)))
    else match s.readElem (s.ctxOf c.thr) 0 .read false pc 4 with
      | (s, .error tr) => (s, .error (.next ((s.haltWalker k tr.cause none).tickWalker k)))
      | (s, .ok w) => (s, .ok w)

/-! ### Counts that depend on caches and timing (08 R213, R214, assumption log 9) -/

/-- Free numbers of the events of thread t that depend on caches and on timing, while a counter could count them. -/
def State.timingCounts (s : State) (t : Nat) : State :=
  let on := fun (w : Word) => getBit w 16
  let clu : Bool := match s.cluOf t with | some k => (s.clu k).cfg.toList.any on | none => false
  let s := if (s.th t).kind = .strand ∧ ((s.th t).sys.pmccfg.toList.any on ∨ clu) then
      [0x006, 0x010, 0x011, 0x012, 0x013, 0x014, 0x015].foldl (fun s c =>
        State.count { s with tick := s.tick + 1 } t c (Config.freeNat s.tick)) s
    else s
  let d := s.dieOf t
  if (s.die d).cfg.toList.any on then
    [0x200, 0x201, 0x204, 0x206, 0x207, 0x208, 0x209].foldl (fun s c =>
      State.countDie { s with tick := s.tick + 1 } d c (Config.freeNat s.tick)) s
  else s

/-- An outcome with the timing counts of thread t. -/
def withCounts (t : Nat) : Out → Out
  | .next s => .next (s.timingCounts t)
  | o => o

/-! ### A program loaded from outside (assumption log 6) -/

/-- The agents a word can be loaded for. -/
inductive Loader where | strand | control | walker
  deriving DecidableEq, Repr

/-- The physical page tables and code page of a loaded program: four tables and one page at the top of HBM's first
64 MiB. -/
def loadBase : Nat := 0x3FF0000

/-- The region, team and threads of a loaded program: region 4095 with one mapped page at 0x1000, one full member on
cluster 0 of die 0, one strand on lane group 0 and a control thread, all at 0x1000. -/
def State.loadTeam (s : State) (image : List Byte) : State :=
  let m := s.members.length
  let k := s.teams.length
  let n := s.threads.length
  let pte := fun (p : Nat) => bytesOf 8 (loadBase + p * 4096 + 1)
  let mem := Mem.write (Mem.clear s.mem loadBase 0x5000) loadBase (pte 1)
  let mem := Mem.write mem (loadBase + 0x1000) (pte 2)
  let mem := Mem.write mem (loadBase + 0x2000) (pte 3)
  let mem := Mem.write mem (loadBase + 0x3008) (bytesOf 8 (loadBase + 0x4000 + 0x1F))
  let mem := Mem.write mem (loadBase + 0x4000) image
  let team : Team := { Team.absent with state := .running, rid := 4095, size := 1, members := [m] }
  let region : Region := { Region.absent with ovr := 0x1FFFF, leaf := true, root := loadBase }
  let strand : SysRegs := { SysRegs.reset with
    vcfgv := BitVec.ofNat 64 (mvlOf 8 24576 32 32 * 2 ^ 32 + 4 * 4 + 2), laneshare := 0x010801, teamsize := 1 }
  let ctl : SysRegs := { SysRegs.reset with status := 1, teamsize := 1 }
  { s with
    mem
    regions := Tbl.insert 4095 region s.regions
    teams := s.teams ++ [team]
    members := s.members ++ [{ Member.create k 0 true false 16 0 0 0 with ctxs := [n, n + 1] }]
    threads := s.threads ++ [Thread.create .strand k m 0 0x1000 strand, Thread.create .control k m 7 0x1000 ctl] }

/-- A loaded program, with the agent that runs it next. -/
def State.load (s : State) (who : Loader) (image : List Byte) : State :=
  let n := s.threads.length
  let s := s.loadTeam image
  match who with
  | .strand => { s with sched := [.agent (.thread n)] }
  | .control => { s with sched := [.agent (.thread (n + 1))] }
  | .walker =>
    let blk : WalkBlk := { tfmt := 0, mw := 0, lc := 0, ntile := 1, sembase := 0, rows := 1, cols := 1, tbase := 0, tstride := 0,
                           srclo := 0, srchi := 2 ^ 47, args := List.replicate 8 0 }
    let cmd : Cmd := { id := s.nextCmd, thr := n, eng := 2, eseq := 1, pc := 0x1000, cseq := 0, scope := .clu, locks := [],
                       pos := 0, fault := none, finished := false, cover := [], body := .walk 0x1000 0 blk true }
    let s := s.modClu 0 fun c => { c with walker :=
      { Walker.reset with state := .running, pc := 0x1000, blk := some blk, cmd := some s.nextCmd } }
    { s with cmds := s.cmds ++ [cmd], nextCmd := s.nextCmd + 1, sched := [.agent (.walker 0)] }

end Sys2Proof.Machine
end

