-- ==== Sys2Proof/Machine/Step.lean ====
section
/-! DEFINITION. One step of the module: the agent or event that moves next, and what it does. -/

namespace Sys2Proof.Machine

/-- A strand or supervisor core runs the instruction at the head of its queue, or traps on the mark it finds there. -/
def stepStrand (s : State) (t : Nat) : Host.Outcome State Fault Refusal :=
  let s := s.filled t
  match (s.th t).head.units with
  | u :: _ => exec u.instr s
  | [] => execMarked s t

/-- A control thread runs the word at its PC. -/
noncomputable def stepControl (s : State) (t : Nat) : Host.Outcome State Fault Refusal :=
  match s.fetchCtl t with
  | (s, .error tr) => execBadWord tr s
  | (s, .ok w) => match decodeControl w with
    | .error _ => execBadWord (causeTrap 0x01) s
    | .ok i => exec i s

/-- The walker of cluster k runs the word at its PC. -/
def stepWalker (s : State) (k : Nat) : Host.Outcome State Fault Refusal :=
  match s.fetchWalker k with
  | (_, .error o) => o
  | (s, .ok w) => match decodeWalker w with
    | .error _ => .next ((s.haltWalker k 0x01 none).tickWalker k)
    | .ok i => exec i s

/-- A thread takes its turn. -/
noncomputable def stepThread (s : State) (t : Nat) : Host.Outcome State Fault Refusal :=
  if s.unanswered t then execUnanswered s t
  else if (s.th t).kind = .control then stepControl s t
  else stepStrand s t

/-- One step. -/
noncomputable def step (s : State) : Host.Outcome State Fault Refusal :=
  match s.nextMove with
  | (s, .event (.ext i)) => exec i s
  | (s, .event (.post k a b)) => s.posted k a b
  | (s, .event (.arrival m)) => .next (s.deliverMsg m)
  | (s, .own) => .next s
  | (s, .agent .idle) => .next s.idle
  | (s, .agent (.lanes t)) => .next (State.lanesTurn { s with cur := .lanes t } t)
  | (s, .agent (.walker k)) => stepWalker { s with cur := .walker k } k
  | (s, .agent (.thread t)) => withCounts t (stepThread { s with cur := .thread t } t)

/-- The instruction with bits w stored where the next step fetches: it is loaded for the agent that can run it. -/
noncomputable def State.withFetchWord (s : State) (nbits w : Nat) : State :=
  let image := bytesOf 20 (w % 2 ^ nbits)
  match decodeTableWord nbits w with
  | some i => s.load (if (opOf i).isSome then .control else if nbits = 32 ∧ ((decWalker w) = some i) then .walker else .strand) image
  | none => s.load .strand image

end Sys2Proof.Machine
end

