-- ==== Sys2Proof/Safety.lean ====
section
/-! DEFINITION. What counts as a safe step and a safe run, the invariants the model keeps, and the terms the statements use: when
an instruction can execute at once, and what a step leaves alone. -/

namespace Sys2Proof.Machine

/-! ### Safe steps and invariants -/

/-- The step answers a next state: no fault and no refusal. -/
def State.Steps (s : State) : Prop := ∃ t, step s = .next t

/-- The next n steps answer next states. -/
def State.SafeFor : Nat → State → Prop
  | 0, _ => True
  | n + 1, s => ∃ t, step s = .next t ∧ State.SafeFor n t

/-- Every memory of the module is in canonical form: physical memory and each member's tile store. -/
def State.MemInv (s : State) : Prop := Mem.wf s.mem = true ∧ ∀ m ∈ s.members, Mem.wf m.tile = true

/-- An outcome is a next state with a property. -/
def Gives (o : Out) (p : State → Prop) : Prop := ∃ s', o = .next s' ∧ p s'

/-! ### Clocks and counters -/

/-- A counter's configuration less its overflow bit. -/
def stillCfg (w : Word) : Word := putBit w 17 false

/-- A counter that is off; 0 for one that counts. -/
def stillCtr (cfg w : Word) : Word := if getBit cfg 16 then 0 else w

/-- System registers less what counts (08 R213). -/
def SysRegs.still (r : SysRegs) : SysRegs :=
  { r with pmccfg := r.pmccfg.map stillCfg, pmc := Vector.zipWith stillCtr r.pmccfg r.pmc }

/-- A thread less its counters that count, its capture clock, its next issue cycle and its place in the arbiter's round. -/
def Thread.still (th : Thread) : Thread :=
  { th with sys := th.sys.still, oncore := Vector.replicate 4 0, nextIssue := 0, credit := 0, waitCnt := 0 }

/-- A cluster less its clocks and its counters that count. -/
def Cluster.still (c : Cluster) : Cluster :=
  { c with cycle := 0, ctlNow := 0, ctlHalf := 0, cfg := c.cfg.map stillCfg, ctr := Vector.zipWith stillCtr c.cfg c.ctr }

/-- A die less its scheduler clock and its counters that count. -/
def Die.still (d : Die) : Die :=
  { d with sched := 0, passLeft := 0, cfg := d.cfg.map stillCfg, ctr := Vector.zipWith stillCtr d.cfg d.ctr }

/-- A team less its running time. -/
def Team.still (k : Team) : Team := { k with ran := 0, sincePass := 0 }

/-- A state less its clocks, the counters that count, and the report records. -/
def State.still (s : State) : State :=
  { s with
    tick := 0
    threads := s.threads.map Thread.still
    teams := s.teams.map Team.still
    clusters := s.clusters.map fun e => (e.1, e.2.still)
    dies := s.dies.map Die.still
    mgmt := { s.mgmt with reports := [] } }

/-- States a and b agree in everything but clocks, counters that count and report records: in every register, every byte of memory
and of the tile stores, every queue, table and command. -/
def State.Same (a b : State) : Prop := b.still = a.still

/-- Every byte of physical memory reads as before, but for those p holds of. -/
def State.BytesBut (a b : State) (p : Nat → Prop) : Prop := ∀ q, ¬ p q → Mem.get b.mem q = Mem.get a.mem q

/-! ### Strand instructions that can execute at once -/

/-- State s with instruction i at the head of thread t's queue: where fetch has put it, or alone at the PC. -/
def State.atHead (s : State) (t : Nat) (i : Instr) : State := s.modTh t fun th => th.withHead i

/-- The convoy of i at the head of thread t's queue. -/
def State.headOf (s : State) (t : Nat) (i : Instr) : Fetched := ((s.atHead t i).th t).head

/-- Thread t, a strand or supervisor core, is about to issue i, and nothing of an engine, a lane, a breakpoint or the debugger stands
before it (02 R45, R49, 03 R77, 08 R226, R227). -/
structure State.StrandAt (s : State) (t : Nat) (i : Instr) : Prop where
  powered : s.mgmt.powered = true
  cur : s.cur = .thread t
  runs : s.runnable t = true
  kind : (s.th t).kind ≠ .control
  engines : (s.th t).engFault = []
  noBreak : ((s.atHead t i).th t).breaks (s.headOf t i).pc = false
  noStep : (s.th t).stepReq = false
  lanes : (s.th t).laneFault = []

/-- The same, and no item of the module holds an error (04 R111). -/
structure State.StrandGo (s : State) (t : Nat) (i : Instr) : Prop extends s.StrandAt t i where
  sound : s.upsets = []

/-- Thread t can execute scalar instruction i at once (02 R45, 11 R276): fetch has marked no fault, and no register of `uses` is
pending; with `drain` its lanes have committed every earlier convoy (05 R117). -/
structure State.ScalarGo (s : State) (t : Nat) (i : Instr) (drain : Bool) (uses : List XReg) : Prop extends s.StrandGo t i where
  fetched : (s.headOf t i).fault = none
  ready : (s.atHead t i).mustWait t drain uses = false

/-- Thread t is not sampled, nor stepped by the debugger, and no item holds an error: retiring an instruction writes no record, raises
no trap and clears no error (04 R111, 08 R219, R227). -/
def State.Quiet (s : State) (t : Nat) : Prop :=
  t < s.threads.length ∧ (s.th t).sys.sampOn = false ∧ (s.th t).stepReq = false ∧ s.upsets = []

/-- Thread t is a strand outside its trap handler: it may use the instructions of chapters 12 to 14 (02 R50). -/
def State.User (s : State) (t : Nat) : Prop := (s.th t).kind = .strand ∧ (s.th t).inh = false

/-- State b is state s2 after convoy f of thread t has left the queue and the thread goes on at pc: outside a handler it counts as
committed in the lanes that had committed all before it (02 R45, R46); clocks and counters apart. -/
def State.Retired (s2 : State) (t : Nat) (f : Fetched) (pc : Word) (b : State) : Prop :=
  State.Same (s2.modTh t fun th => th.issueScalar f pc) b

/-- Register xd of thread t holds v in b, unless it is x0; every other register is as in a. -/
def State.Sets (a : State) (t : Nat) (xd : XReg) (v : Word) (b : State) : Prop :=
  ∀ r, (b.th t).rx r = if r = xd ∧ r ≠ 0 then v else (a.th t).rx r

/-- Instruction i of thread t executes with the effect s2 and goes on at pc. -/
def Executes (i : Instr) (s : State) (t : Nat) (pc : Word) (s2 : State) : Prop :=
  s2.Quiet t → Gives (exec i s) (s2.Retired t (s.headOf t i) pc)

/-- Scalar instruction i executes and writes v of the thread's registers to xd, and changes nothing else: no flag, no other register, no
byte of memory. -/
def RegResult (i : Instr) (uses : List XReg) (xd : XReg) (v : Thread → Word) : Prop :=
  ∀ s t, s.ScalarGo t i false uses → (s.th t).sys.sampOn = false →
    Gives (exec i s) fun b =>
      ((s.atHead t i).modTh t fun th => th.wx xd (v (s.th t))).Retired t (s.headOf t i) (s.headOf t i).next b ∧
      s.Sets t xd (v (s.th t)) b

/-- The lanes of thread t have no convoy outstanding, no rendezvous and no remote element without an answer. -/
def State.Idle (s : State) (t : Nat) : Prop := (s.th t).window = [] ∧ (s.th t).rdvOpen = false ∧ s.awaitsRemote t = false

/-- Scalar instruction i writes the result of g to xd and ORs its flags into FFLAGS, when none of them is enabled in FTRAPEN
(03 R71, 11 R284). -/
def FloatResult (i : Instr) (uses : List XReg) (xd : XReg) (g : Thread → FRes) : Prop :=
  ∀ s t, s.ScalarGo t i false uses → (s.th t).sys.sampOn = false → fpx (s.th t).sys.ftrapen (g (s.th t)).flags = false →
    Gives (exec i s) fun b =>
      (((s.atHead t i).modTh t fun th => th.wx xd (BitVec.ofNat 64 (g (s.th t)).bits)).orFlags t (g (s.th t)).flags).Retired t
        (s.headOf t i) (s.headOf t i).next b ∧
      s.Sets t xd (BitVec.ofNat 64 (g (s.th t)).bits) b ∧
      (b.th t).sys.fflags = (s.th t).sys.fflags ||| (g (s.th t)).flags.setWidth 64

/-- Instruction i of thread t, whose lanes are idle, takes the trap tr before it has any effect, and will run again (11 R276). -/
def Reruns (i : Instr) (s : State) (t : Nat) (tr : Trap) : Prop :=
  Gives (exec i s) (State.Same ((s.atHead t i).takeTrap t tr (siteAt (s.headOf t i).pc (s.headOf t i).seq (s.headOf t i).pc)))

/-- Scalar instruction i traps POISON, with no element and no address, while one of the registers it reads holds an error that cannot
be corrected (04 R111). -/
def StruckTraps (i : Instr) (uses sources : List XReg) : Prop :=
  ∀ s t, s.StrandAt t i → (s.headOf t i).fault = none → (s.atHead t i).mustWait t false uses = false → s.Idle t →
    (∃ r ∈ sources, r ≠ 0 ∧ Upset.xreg t r.toNat ∈ s.upsets) → Reruns i s t { cause := 0x08, sub := 0, elem := 0, addr := 0 }

/-- A floating-point instruction with an exception that FTRAPEN enables traps FPX and writes nothing. -/
def FloatTrap (i : Instr) (uses : List XReg) (g : Thread → FRes) : Prop :=
  ∀ s t, s.ScalarGo t i false uses → s.Idle t → fpx (s.th t).sys.ftrapen (g (s.th t)).flags = true → Reruns i s t (causeTrap 0x09)

/-- Branch i of thread t reads its registers, writes none, and goes on at the target when `taken` holds of them, at the next unit
otherwise. -/
def BranchResult (i : Instr) (xa xb : XReg) (disp : BitVec 11) (taken : Word → Word → Prop) : Prop :=
  ∀ s t, s.ScalarGo t i false [xa, xb] → (s.th t).sys.sampOn = false →
    (taken ((s.th t).rx xa) ((s.th t).rx xb) → Gives (exec i s) fun b =>
      (s.atHead t i).Retired t (s.headOf t i) ((s.headOf t i).pc + disp.signExtend 64 * 4) b ∧
      (b.th t).pc = (s.headOf t i).pc + disp.signExtend 64 * 4) ∧
    (¬ taken ((s.th t).rx xa) ((s.th t).rx xb) → Gives (exec i s) fun b =>
      (s.atHead t i).Retired t (s.headOf t i) (s.headOf t i).next b ∧ (b.th t).pc = (s.headOf t i).next)

/-- A byte of physical memory lies in none of the spans. -/
def OffSpans (sp : List Span) (q : Nat) : Prop := ∀ p ∈ sp, ∀ a c, p.place = .phys a c → q < a ∨ a + p.n ≤ q

/-- No span is a device register. -/
def NoReg (sp : List Span) : Prop := ∀ p ∈ sp, ∀ o, p.place ≠ .reg o

/-- Scalar load i: the nine checks of 04 R102 answer the spans sp of the element at `addr`, and leave s1; the bytes of the spans,
little-endian and extended as the type says, come into xd. Memory stays as the checks left it. -/
def LoadResult (i : Instr) (ti : TI) (aligned : Bool) (uses : List XReg) (xd : XReg) (addr : Thread → Word) : Prop :=
  ∀ s t s1 sp, s.ScalarGo t i true uses →
    (s.atHead t i).interlocked t false (addr (s.th t)) ti.bytes = false →
    (s.atHead t i).access ((s.atHead t i).ctxOf t) .read aligned (addr (s.th t)) ti.bytes = (s1, .ok sp) →
    (s1.readSpans ((s.atHead t i).ctxOf t) 0 sp).1.Quiet t →
    Gives (exec i s) fun b =>
      ((s1.readSpans ((s.atHead t i).ctxOf t) 0 sp).1.modTh t fun th =>
        th.wx xd (ti.extend (leNat (s1.readSpans ((s.atHead t i).ctxOf t) 0 sp).2))).Retired t (s.headOf t i) (s.headOf t i).next b ∧
      (NoReg sp → ∀ q, Mem.get b.mem q = Mem.get s1.mem q) ∧
      ∀ a c n, sp = [⟨.phys a c, n⟩] → s.Sets t xd (ti.extend (Mem.readNat s1.mem a n)) b

/-- Scalar store i: the checks answer the spans sp of the element at `addr`, and leave s1; the low bytes of xd are written there, and no
byte of memory outside the spans changes. -/
def StoreResult (i : Instr) (ti : TI) (aligned : Bool) (uses : List XReg) (xd : XReg) (addr : Thread → Word) : Prop :=
  ∀ s t s1 sp, s.ScalarGo t i true uses →
    (s.atHead t i).interlocked t true (addr (s.th t)) ti.bytes = false →
    (s.atHead t i).access ((s.atHead t i).ctxOf t) .write aligned (addr (s.th t)) ti.bytes = (s1, .ok sp) →
    ∀ s2, s2 = ((s1.writeSpans ((s.atHead t i).ctxOf t) 0 sp (bytesOf ti.bytes ((s.th t).rx xd).toNat)).coverSpans [] sp).1 →
    s2.Quiet t →
    Gives (exec i s) fun b =>
      s2.Retired t (s.headOf t i) (s.headOf t i).next b ∧
      (NoReg sp → ∀ q, OffSpans sp q → Mem.get b.mem q = Mem.get s1.mem q) ∧
      (∀ a c, sp = [⟨.phys a c, ti.bytes⟩] → ∀ k, k < ti.bytes → Mem.get b.mem (a + k) = ((s.th t).rx xd).extractLsb' (8 * k) 8) ∧
      (∀ m o, sp = [⟨.tile m o, ti.bytes⟩] → m < s.members.length →
        ∀ k, k < ti.bytes → Mem.get (b.mb m).tile (o + k) = ((s.th t).rx xd).extractLsb' (8 * k) 8)

/-- A CSR instruction on register num reads it into xd and writes the value that `op` gives, when its checks allow it (03 R67, 11
R292). A read changes nothing else; a register that waits for the lanes and their rendezvous waits here too (03 R68). -/
def CsrResult (i : Instr) (op : CsrOp) (xd : XReg) (num : BitVec 12) : Prop :=
  ∀ s t, s.ScalarGo t i (csrWaits num.toNat) [xd] → (csrWaits num.toNat = true → (s.th t).rdvOpen = false ∨ (s.th t).inh = true) →
    (s.th t).csrTrap op num.toNat = none →
    (op = .read → Executes i s t (s.headOf t i).next
      ((s.atHead t i).modTh t fun th => th.wx xd ((s.atHead t i).csrGet t num.toNat))) ∧
    (op ≠ .read → ∀ s1, (s.atHead t i).csrWrite t num.toNat
        (op.new ((s.atHead t i).csrGet t num.toNat) ((s.th t).rx xd)) = (s1, none) →
      Executes i s t (s.headOf t i).next (s1.modTh t fun th => th.wx xd ((s.atHead t i).csrGet t num.toNat)))

/-- A CSR instruction whose access a check refuses traps, and changes no register. -/
def CsrRefused (i : Instr) (op : CsrOp) (xd : XReg) (num : BitVec 12) : Prop :=
  ∀ s t tr, s.ScalarGo t i (csrWaits num.toNat) [xd] → s.Idle t → (s.th t).csrTrap op num.toNat = some tr → Reruns i s t tr


/-! ### Synchronisation and engine commands (14 R347-R372) -/

/-- Thread t has n interlock entries free, and no breakpoint stands on command number k of the engine (14 R349, 08 R226). -/
def State.CanAccept (s : State) (t : Nat) (pc : Word) (eng chan k n : Nat) : Prop :=
  n ≤ (s.th t).freeLocks.length ∧ (s.th t).engBreak pc eng chan (BitVec.ofNat 32 k) = false

/-- State s with a command of thread t accepted by an engine: its interlock entries taken, its number given, and the command last in
the list (14 R349, 05 R125, 08 R210). -/
def State.accepted (s : State) (t : Nat) (si : Site) (eng chan k : Nat) (scope : Scope) (ls : List Interlock) (body : CmdBody) : State :=
  let q := s.takeLocks t ls
  let s := q.1.acceptEng t eng chan (BitVec.ofNat 32 k)
  { s with
    cmds := s.cmds ++ [{ id := s.nextCmd, thr := t, eng, eseq := k, pc := si.pc, cseq := si.seq, scope, locks := q.2, pos := 0,
                         fault := none, finished := false, cover := [], body }]
    nextCmd := s.nextCmd + 1 }

/-- The identifier of the newest command. -/
def State.newest (s : State) : Nat := s.nextCmd - 1

/-! ### The effects of chapter 14, whichever core issues them (14 R347-R372)

Each says of a state s, thread t and operands that the operation can be performed, and that it comes to s2 with result v. -/

/-- SEMTAS and SEMTRY of a free bit k: the bit is taken (14 R351, R352). -/
def TakeSem (s : State) (t k : Nat) (s2 : State) : Prop :=
  k < (s.mbOf t).nsem ∧ s.semFree t k = true ∧ s2 = s.putSem (s.th t).member k false

/-- SEMSET and SEMCLR (14 R351). -/
def WriteSem (s : State) (t k : Nat) (b : Bool) (s2 : State) : Prop :=
  k < (s.mbOf t).nsem ∧ s2 = s.putSem (s.th t).member k b

/-- BOXR (14 R353). -/
def ReadBox (s : State) (t k : Nat) (v : Word) : Prop := k < (s.mbOf t).nbox ∧ v = vget (s.mbOf t).box k 0

/-- BOXW (14 R353). -/
def WriteBox (s : State) (t k : Nat) (v : Word) (s2 : State) : Prop :=
  k < (s.mbOf t).nbox ∧ s2 = s.modMb (s.th t).member fun m => { m with box := vset m.box k v }

/-- The last arrival at a barrier of the member or of the team: the generation advances (14 R354). -/
def LeaveBarrier (s : State) (t : Nat) (sc : Scope) (s2 : State) : Prop :=
  (sc = .clu ∧ ∃ s1, s1 = (s.modMb (s.th t).member fun m =>
      { m with barArrived := Tbl.insert t ((s.th t).memberBar + 1) m.barArrived }) ∧
    s1.barDone t false (s.th t).memberBar = true ∧ s2 = s1.modTh t fun th => { th with memberBar := (s.th t).memberBar + 1 }) ∨
  ((sc = .die ∨ sc = .dev) ∧ ∃ s1, s1 = (s.modTm (s.th t).team fun k =>
      { k with barArrived := Tbl.insert t ((s.th t).teamBar + 1) k.barArrived }) ∧
    s1.barDone t true (s.th t).teamBar = true ∧ s2 = s1.modTh t fun th => { th with teamBar := (s.th t).teamBar + 1 })

/-- A FENCE has nothing to wait for: with eng no command and no platen operation of the thread is outstanding, and at FAB no remote
element (14 R355). -/
def FenceOpen (s : State) (t : Nat) (sc : Scope) (eng : Bool) : Prop :=
  (eng = true → (s.th t).platen = [] ∧ ∀ c ∈ s.cmds, c.thr = t → c.finished = true) ∧
  (sc = .fab → ∀ r ∈ s.remotes, r.thr = t → r.answer ≠ none)

/-- CAPSTART (14 R372, 08 R216). -/
def CaptureOpens (s : State) (t : Nat) (s2 : State) : Prop :=
  s2 = s.modTh t fun th =>
    { th with snap := th.sys.pmc, oncore := Vector.replicate 4 0, offcore := Vector.replicate 4 0, wrmask := 0,
              sys := { th.sys with capstate := 1 } }

/-- CAPSTOP at va: without an open window nothing; else the record is written whole and the window closes (14 R372, 08 R217). -/
def CaptureCloses (s : State) (t : Nat) (va : Word) (s2 : State) : Prop :=
  (getBit (s.th t).sys.capstate 0 = false ∧ s2 = s) ∨
  (getBit (s.th t).sys.capstate 0 = true ∧ s.interlocked t true va 256 = false ∧ va.toNat % 64 = 0 ∧
    ∃ s1, s.writeBlock (s.ctxOf t) va (s.th t).captureBytes = (s1, none) ∧
      s2 = s1.modTh t fun th => { th with sys := { th.sys with capstate := putBit th.sys.capstate 0 false } })

/-- The bytes of the MARK record that SAMPLE of v writes at site si (14 R372, 08 R220). -/
def State.markBytes (s : State) (t : Nat) (si : Site) (v : Word) : List Byte :=
  let n := (s.th t).newest
  sampleBytes 5 ((s.th t).kind == .control) (s.th t).sys.pexp si.seq.toNat si.pc.toNat (getField n 0 32) (getField n 32 8)
    (getField n 40 8) (s.th t).stint.toNat v.toNat

/-- A record of the bytes bs, appended to the stream of thread t, leaves b: with no room for it and a LOST record beside it, it is
dropped and counted; else, when none has been dropped before it, it is stored at HEAD, which moves on, or its store fails and it is
counted (08 R218). -/
def State.Appends (s : State) (t : Nat) (bs : List Byte) (b : State) : Prop :=
  let r := (s.th t).sys
  let va := r.sampbase + BitVec.ofNat 64 (r.samphead.toNat % 2 ^ r.rsize)
  let dropped := (b.th t).lost = (s.th t).lost + 1 ∧ (b.th t).sys.samphead = r.samphead
  (2 ^ r.rsize + r.samptail.toNat < r.samphead.toNat + 64 → dropped ∧ b.mem = s.mem) ∧
  (r.samphead.toNat + 64 ≤ 2 ^ r.rsize + r.samptail.toNat → (s.th t).lost = 0 → ∀ s1 c e,
    s.writeElem (s.ctxOf t) 0 false va 32 (leNat bs) [] = (s1, c, e) → b.mem = s1.mem ∧
      (e = none → (b.th t).lost = 0 ∧ (b.th t).sys.samphead = r.samphead + 32) ∧ (e ≠ none → dropped))

/-- XCOPY: two descriptors that R109 allows, a channel and sem bit in range with room; one transfer is queued with the channel's next
identifier, which is the result; `cap` bounds its elements (14 R363, 06 R156). -/
def CopyAccepted (s : State) (t : Nat) (si : Site) (sc : Scope) (va vb : Word) (ch : Nat) (sem cap : Option Nat) (s2 : State)
    (v : Word) : Prop :=
  ∃ s1 d e id ls,
    s.interlocked t false va 192 = false ∧ s.interlocked t false vb 192 = false ∧ s.readPair t va vb = (s1, .ok (d, e)) ∧
    ch < (s1.mbOf t).nchan ∧ (∀ k, sem = some k → k < (s1.mbOf t).nsem) ∧ s1.queued (s.th t).member ch < 16 ∧
    id = (s1.channel (s.th t).member ch).issued + 1 ∧
    ls = d.locks false 1 (BitVec.ofNat 32 id) ++ e.locks true 1 (BitVec.ofNat 32 id) ∧ s1.CanAccept t si.pc 1 ch id ls.length ∧
    (let len := match cap with | some l => min d.count l | none => d.count
     let s3 := s1.accepted t si 1 ch id sc ls (.copy d e len ch sem false)
     s2 = (s3.modChan (s.th t).member ch fun x => { x with issued := id }).started s3.newest) ∧
    v = BitVec.ofNat 64 id

/-- XSTAT of a channel (14 R364). -/
def ChannelStatus (s : State) (t ch : Nat) (v : Word) : Prop :=
  ch < (s.mbOf t).nchan ∧ v = BitVec.ofNat 64 (s.channel (s.th t).member ch).completed

/-- XWAIT on identifier n of a channel has come: the transfer has completed, or with `lead` it has ended or moved that many elements
(14 R364, 06 R157). -/
def ChannelReached (s : State) (t ch n : Nat) (lead : Option Nat) : Prop :=
  ch < (s.mbOf t).nchan ∧ n ≤ (s.channel (s.th t).member ch).issued ∧
  match lead with
  | none => n ≤ (s.channel (s.th t).member ch).completed
  | some b => ∀ c ∈ s.cmds, s.chanOf c = some ((s.th t).member, ch) → c.eseq = n → c.finished = true ∨ b ≤ c.pos

/-- XWAIT on number n of an engine has come. -/
def EngineReached (s : State) (t e : Nat) (n : BitVec 32) : Prop :=
  seqLt ((s.th t).engCtr e).issued n = false ∧ seqLe n ((s.th t).engCtr e).done = true

/-- BIN of a class table in its limits (14 R365). -/
def BinAccepted (s : State) (t : Nat) (si : Site) (sc : Scope) (va : Word) (s2 : State) : Prop :=
  ∃ s1 bs rowptr nrows psize cls n,
    s.interlocked t false va 576 = false ∧ va.toNat % 64 = 0 ∧ s.readBlock (s.ctxOf t) va 576 = (s1, .ok bs) ∧
    parseClasses bs = some (rowptr, nrows, psize, cls) ∧ n = (s1.th t).nextEseq 3 ∧
    s1.CanAccept t si.pc 3 0 n.toNat (binLocks n nrows cls).length ∧
    (let s3 := s1.accepted t si 3 0 n.toNat sc (binLocks n nrows cls) (.bin rowptr nrows psize cls)
     s2 = s3.started s3.newest)

/-- WALK on a free walker that no other WALK waits for, with a walk block in its limits: the walk starts with its block's address in w0 and its arguments in w1 to
w4, and waits to open its first buffer (14 R365, 16 R399, R400). -/
def WalkAccepted (s : State) (t : Nat) (si : Site) (sc : Scope) (prog arg : Word) (s2 : State) : Prop :=
  let k := (s.cluOf t).getD 0
  ∃ s0 s1 bs b n,
    (s.clu k).walker.cmd = none ∧ ((s.clu k).walker.waiting = [] ∨ (s.clu k).walker.waiting = [(t, si.seq)]) ∧
    prog.toNat % 4 = 0 ∧ arg.toNat % 64 = 0 ∧ 2 ≤ (s.th t).freeLocks.length ∧
    s0 = (s.modWalker k fun w => { w with waiting := [] }) ∧ s0.interlocked t false arg 64 = false ∧
    s0.readBlock (s0.ctxOf t) arg 64 = (s1, .ok bs) ∧
    parseWalkBlk bs (s1.mbOf t).nsem ((s1.mbOf t).tilesz * 0x40000) = some b ∧ n = (s1.th t).nextEseq 2 ∧
    s1.CanAccept t si.pc 2 0 n.toNat 2 ∧
    (let lo := 0x7F0000000000 + b.tbase
     let s3 := s1.accepted t si 2 0 n.toNat sc
       [lockOf false false 2 0 n b.srclo b.srchi b.srclo, lockOf true false 2 0 n lo (lo + b.span - 1) lo] (.walk prog arg b true)
     let w0 : Vector Word 16 := Vector.ofFn fun j =>
       if j.val = 0 then arg else if j.val ≤ 4 then b.args.getD (j.val - 1) 0 else 0
     s2 = (s3.modWalker k fun w =>
       { Walker.reset with w := w0, pc := prog, blk := some b, cmd := some s3.newest, waiting := w.waiting }).waitBuffer k)

/-- STCHK: accepted with the next number of engine 5 (14 R366). -/
def CheckAccepted (s : State) (t : Nat) (si : Site) (va vb key : Word) (xd : Option (BitVec 5)) (s2 : State) : Prop :=
  let r := (s.th t).sys
  let f := getField r.stmetric 8 3
  ∃ s0 s1 d e n ls,
    s.interlocked t false va 192 = false ∧ s.interlocked t false vb 192 = false ∧ getField key 48 16 = 0 ∧
    s.stDesc t va f 0 (2 ^ 24) = (s0, .ok d) ∧ s0.stDesc t vb f 0 (2 ^ 40) = (s1, .ok e) ∧ n = (s1.th t).nextEseq 5 ∧
    ls = d.locks false 5 n ++ e.locks true 5 n ∧ s1.CanAccept t si.pc 5 0 n.toNat ls.length ∧
    (let s3 := s1.accepted t si 5 0 n.toNat .dev ls
       (.stchk d e (getField key 24 24) (getField key 0 24) r.ststep r.stthr r.stmetric xd none)
     s2 = s3.started s3.newest)

/-- STKEEP of tiles that can fit: accepted with the next number of engine 5 (14 R366). -/
def KeepAccepted (s : State) (t : Nat) (si : Site) (va vb key : Word) (s2 : State) : Prop :=
  let r := (s.th t).sys
  let f := getField r.stmetric 8 3
  ∃ s0 s1 d e n ls,
    s.interlocked t false va 192 = false ∧ s.interlocked t false vb 192 = false ∧ getField key 48 16 = 0 ∧
    s.stDesc t va f 1 (2 ^ 24) = (s0, .ok d) ∧ s0.stDesc t vb f 1 (2 ^ 24) = (s1, .ok e) ∧
    s1.stNever (s1.region (s1.ridOf t)).home (s1.ridOf t) (d.count * stBytes f) (e.count * stBytes f) = false ∧
    n = (s1.th t).nextEseq 5 ∧ ls = d.locks false 5 n ++ e.locks false 5 n ∧ s1.CanAccept t si.pc 5 0 n.toNat ls.length ∧
    (let s3 := s1.accepted t si 5 0 n.toNat .dev ls
       (.stkeep d e (getField key 24 24) (getField key 0 24) r.ststep r.stmetric false)
     s2 = s3.started s3.newest)

/-- STDROP: accepted with the next number of engine 5 (14 R366). -/
def DropAccepted (s : State) (t : Nat) (si : Site) (key : Word) (mode : Nat) (s2 : State) : Prop :=
  ∃ n, n = (s.th t).nextEseq 5 ∧ getField key 48 16 = 0 ∧ s.CanAccept t si.pc 5 0 n.toNat 0 ∧
    (let s3 := s.accepted t si 5 0 n.toNat .dev [] (.stdrop (getField key 24 24) (getField key 0 24) mode)
     s2 = s3.started s3.newest)

/-- MSEND: a payload within the limit of its path is accepted as it is, a longer one lends a forme (14 R368, 06 R161). -/
def SendAccepted (s : State) (t : Nat) (si : Site) (va dst tag : Word) (ep : Option Nat) (s2 : State) : Prop :=
  let dmod := getField dst 54 10
  let dep := getField dst 40 14
  ∃ s1 d sep k die n lent limit pseq,
    s.interlocked t false va 192 = false ∧ getField dst 0 40 = 0 ∧ s.ownEp t ep = .ok (sep, k, die) ∧
    s.readDesc t va = (s1, .ok d) ∧ d.count * d.bytes < 2 ^ 32 ∧ n = (s1.th t).nextEseq 4 ∧
    limit = (if dmod = s1.moduleNo then
        (match Tbl.find dep s1.endpoints with | some e => (s1.region e.rid).eager | none => (s1.region (s1.ridOf t)).eager)
      else Config.remoteEager dmod dep) ∧
    ((lent = none ∧ d.count * d.bytes ≤ limit * 1024) ∨
      (∃ f, lent = some f ∧ limit * 1024 < d.count * d.bytes ∧ s1.canLend (s1.ridOf t) = some f)) ∧
    pseq = (Tbl.find ((sep * 1024 + dmod) * 16384 + dep) s1.pairSend).getD 0 ∧
    s1.CanAccept t si.pc 4 0 n.toNat (d.locks false 4 n).length ∧
    (let s3 := s1.accepted t si 4 0 n.toNat .dev (d.locks false 4 n)
       (.send d (d.count * d.bytes) dmod dep sep (tag.setWidth 32) pseq lent 0 0 0)
     let s4 : State := { s3 with pairSend := Tbl.insert ((sep * 1024 + dmod) * 16384 + dep) (pseq + 1) s3.pairSend }
     s2 = (match lent with | some f => s4.lend f s3.newest (s1.ridOf t) d | none => s4).started s3.newest)

/-- MPOST: the receive takes the oldest header that matches it, or joins the posted queue (14 R369, 06 R162). -/
def PostAccepted (s : State) (t : Nat) (si : Site) (va : Word) (s2 : State) : Prop :=
  ∃ s0 s1 b dva k d ds n,
    s.interlocked t false va 64 = false ∧ s.recvBlk t va = (s0, .ok (b, dva, k, d)) ∧
    (∀ c ∈ (s0.die d).posted, ∀ x, s0.postedRecv c = some (k, x) → x.comp ≠ b.comp) ∧
    s0.interlocked t false dva 192 = false ∧ s0.readDesc t dva = (s1, .ok ds) ∧ n = (s1.th t).nextEseq 4 ∧
    s1.CanAccept t si.pc 4 0 n.toNat (ds.locks true 4 n).length ∧
    (let bl := { b with desc := some ds }
     let s3 := s1.accepted t si 4 0 n.toNat .dev (ds.locks true 4 n) (.recv k bl none false false)
     let s4 := s3.modDie d fun x => { x with recs := x.recs.filter fun r => !(r.1 == k && r.2.1.toNat == b.comp) }
     match (s1.die d).unexp.find? (fun h => !h.held && h.mctx == k && bl.takes h.msg) with
     | some h => s2 = (s4.modDie d fun x => { x with unexp := x.unexp.erase h }).giveMsg s3.newest h.msg h.deferred
     | none => (s1.die d).posted.length < 65536 ∧ s1.fits (s1.ridOf t) (·.precv) (s1.postedUsed d) 1 = true ∧
         s2 = s4.modDie d fun x => { x with posted := x.posted ++ [s3.newest] })

/-- A command of engine 4 on state s that takes its number and completes at once, with its own effect s' (14 R371). -/
def MessageNow (s : State) (t : Nat) (si : Site) (s' s2 : State) : Prop :=
  (s.th t).engBreak si.pc 4 0 ((s.th t).nextEseq 4) = false ∧
  s2 = (s'.acceptEng t 4 0 ((s.th t).nextEseq 4)).completeEng t 4 ((s.th t).nextEseq 4)

/-- MPROBE: 0 without a header that matches; else the header's source, tag and length are written to the completion object, with
STATUS = PROBED, and bit 63 and the length are the result (14 R371). -/
def Probed (s : State) (t : Nat) (si : Site) (va : Word) (s2 : State) (v : Word) : Prop :=
  ∃ s0 b dva k d, s.interlocked t false va 64 = false ∧ s.recvBlk t va = (s0, .ok (b, dva, k, d)) ∧
    match (s0.die d).unexp.find? (fun h => !h.held && h.mctx == k && b.takes h.msg) with
    | none => v = 0 ∧ MessageNow s0 t si s0 s2
    | some h => ∃ s1 s3, s0.interlocked t true (BitVec.ofNat 64 b.comp) 32 = false ∧
        s0.putBytes t (BitVec.ofNat 64 b.comp) ((compBytes 16 h.msg 0).take 16) = (s1, none) ∧
        s1.putBytes t (BitVec.ofNat 64 b.comp + 24) (bytesOf 8 h.msg.len) = (s3, none) ∧
        v = BitVec.ofNat 64 (2 ^ 63 + h.msg.len % 2 ^ 32) ∧ MessageNow s0 t si s3 s2

/-- MTEST: 0 unmatched, 1 in progress, the recorded end, or 4 when nothing is known (14 R371). -/
def Tested (s : State) (t : Nat) (si : Site) (comp : Word) (ep : Option Nat) (s2 : State) (v : Word) : Prop :=
  ∃ e k d, comp.toNat % 32 = 0 ∧ s.ownEp t ep = .ok (e, k, d) ∧ MessageNow s t si s s2 ∧
    ((∃ c j b w p, s.liveRecv k comp = some c ∧ c.body = .recv j b none w p ∧ v = 0) ∨
     (∃ c j b m w p, s.liveRecv k comp = some c ∧ c.body = .recv j b (some m) w p ∧ v = 1) ∨
     (∃ q, s.liveRecv k comp = none ∧ (s.die d).recs.find? (fun r => r.1 == k && r.2.1 == comp) = some q ∧
        v = BitVec.ofNat 64 q.2.2) ∨
     (s.liveRecv k comp = none ∧ (s.die d).recs.find? (fun r => r.1 == k && r.2.1 == comp) = none ∧ v = 4))

/-- MCANCEL: an unmatched receive is withdrawn, its object says CANCELLED and its command completes, with 1; else 0 (14 R371). -/
def Cancelled (s : State) (t : Nat) (si : Site) (comp : Word) (ep : Option Nat) (s2 : State) (v : Word) : Prop :=
  ∃ e k d, comp.toNat % 32 = 0 ∧ s.ownEp t ep = .ok (e, k, d) ∧
    ((s.liveRecv k comp = none ∧ v = 0 ∧ MessageNow s t si s s2) ∨
     (∃ c j b m w p, s.liveRecv k comp = some c ∧ c.body = .recv j b (some m) w p ∧ v = 0 ∧ MessageNow s t si s s2) ∨
     (∃ c j b w p s1, s.liveRecv k comp = some c ∧ c.body = .recv j b none w p ∧ s.interlocked t true comp 4 = false ∧
        s.putBytes t comp (bytesOf 4 4) = (s1, none) ∧ v = 1 ∧
        MessageNow s t si (((s1.modDie d fun x =>
          { x with posted := x.posted.filter (· != c.id) }).remember d k comp 3).completeCmd c) s2))

/-- MWAIT of n bytes at va: its monitor entry is placed, for `owner`, in s1 (14 R356, 07 R194). -/
def Monitors (s : State) (t owner : Nat) (va : Word) (n p : Nat) (s1 : State) : Prop :=
  ∃ s0 c, s.interlocked t false va n = false ∧ s.access (s.ctxOf t) .monitored true va n = (s0, .ok [⟨.phys p c, n⟩]) ∧
    s1 = (s0.recall (s0.ridOf t) p).placeMonitor (s0.memberMonitor 0 (s0.th t).member (s0.th t).slotIdx (s0.th t).hwctx owner (p / 64))

/-- WMPUB: COUNT of the entry only rises, and launch queues that wait for a watermark look again (14 R358, 07 R193). -/
def Publishes (s : State) (t : Nat) (sc : Scope) (entry : Nat) (n : Word) (s2 : State) : Prop :=
  ∃ d e s1, s.wmNamed t entry = some (d, e) ∧ n.toNat ≤ e.nelem ∧
    s1 = (s.modDie d fun x =>
      { x with wmarks := Tbl.insert entry { e with count := max e.count n.toNat, scope := scopeCode sc } x.wmarks }) ∧
    s2 = s1.lqueues.foldl (fun s (r, q) =>
      if (q.tokens.head?.map (·.depk)) = some 2 then s.postOnce .launchQueueHead r else s) s1

/-- WMCHK (14 R358). -/
def WatermarkOf (s : State) (t entry : Nat) (v : Word) : Prop :=
  ∃ d e, s.wmNamed t entry = some (d, e) ∧ v = BitVec.ofNat 64 e.count

/-- TKPOST into a queue that is not full: the slot takes the value and the producer's place, then TAIL advances (06 R154). -/
def TokenPosted (s : State) (t : Nat) (va v : Word) (s2 : State) : Prop :=
  ∃ s0 s1 q c, s.interlocked t true va 64 = false ∧ s.tokQ (s.ctxOf t) va = (s0, .ok q) ∧ q.full = false ∧
    s.interlocked t true (q.slot q.tail) 16 = false ∧
    s0.writeElem (s.ctxOf t) 0 false (q.slot q.tail) 16 (v.toNat + s.placeOfThread t * 2 ^ 64) [] = (s1, c, none) ∧
    s2 = s1.physWrite (q.a + 0x18) (bytesOf 8 (q.tail + 1))

/-- TKTAKE from a queue that is not empty, for monitor owner o: the value at HEAD, then HEAD advances (06 R154). -/
def TokenTaken (s : State) (t o : Nat) (va : Word) (s2 : State) (v : Word) : Prop :=
  ∃ s0 s1 q n, s.interlocked t true va 64 = false ∧ s.tokQ (s.ctxOf t) va = (s0, .ok q) ∧ q.empty = false ∧
    s.interlocked t false (q.slot q.head) 8 = false ∧
    s0.readElem (s.ctxOf t) 0 .read false (q.slot q.head) 8 = (s1, .ok n) ∧
    s2 = (s1.physWrite (q.a + 0x10) (bytesOf 8 (q.head + 1))).dropMonitors 1 o ∧ v = BitVec.ofNat 64 n

/-- LAUNCH into the own region or a sibling leaf with room (14 R360). -/
def Launched (s : State) (t : Nat) (va : Word) (region : Nat) (s2 : State) : Prop :=
  let own := s.ridOf t
  let rid := if region = 0 then own else region
  let parent := fun r => (Tbl.find r s.regions).map (·.parent)
  ∃ s1 bs, s.interlocked t false va 64 = false ∧ va.toNat % 64 = 0 ∧ s.readBlock (s.ctxOf t) va 64 = (s1, .ok bs) ∧
    s1.validRegion rid = true ∧ (s1.region rid).leaf = true ∧
    (rid = own ∨ (parent rid = parent own ∧ parent own ≠ some 0)) ∧ s1.lqRoom rid = true ∧ s2 = s1.appendToken rid (parseToken bs)

/-- A far atomic of n bytes at va: the element takes g of its old value, the flags fl of it are ORed, and the old value, extended as
the type says, is the result (14 R361). -/
def AtomicDone (s : State) (t : Nat) (signed : Bool) (va : Word) (n : Nat) (g : Nat → Nat) (fl : Nat → BitVec 5) (s2 : State)
    (v : Word) : Prop :=
  ∃ s1 old, s.interlocked t true va n = false ∧ s.atomicElem (s.ctxOf t) va n (fun o => some (g o)) = (s1, .ok old) ∧
    s2 = s1.orFlags t (fl old) ∧ v = if signed then BitVec.ofInt 64 (sintOf (8 * n) old) else BitVec.ofNat 64 old

/-- The remote atomic of site si has been answered with x: its number of engine 8 completes, and x, extended, is the result (14 R361,
07 R183). -/
def RemoteAnswered (s : State) (t : Nat) (si : Site) (signed : Bool) (n : Nat) (fl : Word → BitVec 5) (s2 : State) (v : Word) : Prop :=
  ∃ r x k, s.remoteOf t si.seq = some r ∧ r.answer = some (.val x) ∧ r.eseq = some k ∧
    (let s1 : State := { s with remotes := s.remotes.filter fun y => y.tagno != r.tagno }
     s2 = ((s1.completeEng t 8 k).orFlags t (fl x)).modTh t fun th => { th with amoNum := none }) ∧
    v = oldWord signed n (x.toNat % 2 ^ (8 * n))

/-- A remote atomic of n bytes at the forme reference `ref` is sent, with the next number of engine 8, and no answer has come (14 R361,
07 R183). -/
def RemoteSent (s : State) (t : Nat) (si : Site) (ref : Word) (n : Nat) (kind : RemoteKind) (s2 : State) : Prop :=
  ∃ k, k = (s.th t).nextEseq 8 ∧ s.remoteOf t si.seq = none ∧ (s.th t).amoNum = none ∧ (s.th t).engBreak si.pc 8 0 k = false ∧
    (s.acceptEng t 8 0 k).sendRemote
      { tagno := 0, thr := t, dst := getField ref 54 10, forme := getField ref 40 14, elem := getField ref 0 40, width := n, kind,
        vd := none, idx := 0, lane := 32, ew := 8 * n, seq := si.seq, retries := 0, answer := none, eseq := some k } = (s2, none)

/-! ### Strand instructions of chapter 14 -/

/-- Strand t can execute instruction i of chapter 14 at once: as a scalar, and outside its trap handler (14 R347). -/
structure State.SyncGo (s : State) (t : Nat) (i : Instr) (drain : Bool) (uses : List XReg) : Prop extends
    s.ScalarGo t i drain uses where
  user : s.User t

/-- The place of the convoy of i, as its commands carry it. -/
def State.site (s : State) (t : Nat) (i : Instr) : Site := ⟨(s.headOf t i).pc, (s.headOf t i).seq⟩

/-- Strand instruction i, on s with i at the head, comes to s2 and goes on at the next unit. -/
def Does (i : Instr) (s : State) (t : Nat) (s2 : State) : Prop := Executes i s t (s.headOf t i).next s2

/-- Strand instruction i, when `eff` holds of the state with i at the head and of s2, executes with that effect and no result. -/
def SyncEffect (i : Instr) (drain : Bool) (uses : List XReg) (eff : State → Nat → Site → State → Prop) : Prop :=
  ∀ s t s2, s.SyncGo t i drain uses → eff (s.atHead t i) t (s.site t i) s2 → Does i s t s2

/-- The same with a result, which comes into xd: no other register x of the thread changes beside what eff says. -/
def SyncResult (i : Instr) (drain : Bool) (uses : List XReg) (xd : XReg) (eff : State → Nat → Site → State → Word → Prop) : Prop :=
  ∀ s t s2 v, s.SyncGo t i drain (xd :: uses) → eff (s.atHead t i) t (s.site t i) s2 v → Does i s t (s2.modTh t fun th => th.wx xd v)

/-- Thread t waits at i, blocked in w: the instruction stays at the head of its queue, no register x changes, and memory is that of
s2. -/
def Blocks (i : Instr) (s : State) (t : Nat) (w : Wait) (s2 : State) : Prop :=
  Gives (exec i s) fun b =>
    (b.th t).run = .blocked w ∧ (b.th t).head = s.headOf t i ∧ (b.th t).pc = (s.th t).pc ∧
    (∀ r, (b.th t).rx r = (s.th t).rx r) ∧ b.mem = s2.mem

/-! ### Walker words (16 R402) -/

/-- The walker of cluster k is about to execute a word of its WALK c with block b, and no register of `uses` is poisoned (16 R402,
R413). -/
structure State.WalkGo (s : State) (k : Nat) (c : Cmd) (b : WalkBlk) (uses : List WReg) : Prop where
  powered : s.mgmt.powered = true
  cur : s.cur = .walker k
  walk : s.walkOf k = some (c, b)
  running : (s.clu k).walker.state = .running
  clean : ∀ r ∈ uses, (s.clu k).walker.poison.getLsbD r.toNat = false

/-- The walker word i has the effect s2 and the walker goes on at pc; clocks and counters apart nothing else changes. -/
def WalkDoes (i : Instr) (s : State) (k : Nat) (s2 : State) (pc : Word) : Prop :=
  Gives (exec i s) fun b => State.Same (s2.modWalker k fun w => { w with pc }) b ∧ (b.clu k).walker.pc = pc

/-- The word behind the walker word of cluster k. -/
def State.walkNext (s : State) (k : Nat) : Word := (s.clu k).walker.pc + 4

/-- The walker word i writes v to wd with a poison flag, and changes no other register, no flag of another, and no byte of memory. -/
def WalkResult (i : Instr) (uses : List WReg) (wd : WReg) (v : Walker → Word) (poison : Walker → Bool) : Prop :=
  ∀ s k c b, s.WalkGo k c b uses →
    let w := (s.clu k).walker
    WalkDoes i s k (s.ww k wd (v w) (poison w)) (s.walkNext k) ∧
    Gives (exec i s) fun s' =>
      (∀ r, (s'.clu k).walker.rw r = if r = wd then v w else w.rw r) ∧
      (∀ r : WReg, (s'.clu k).walker.poison.getLsbD r.toNat = if r = wd then poison w else w.poison.getLsbD r.toNat) ∧
      s'.mem = s.mem ∧ s'.members = s.members ∧ s'.cmds = s.cmds

/-- The walker word i halts: the walker stops at it with its state, and the WALK faults with the cause WALKER, the sub-cause and FADDR
when a load halts (16 R412). -/
def WalkHalts (i : Instr) (s : State) (k : Nat) (s2 : State) (sub : BitVec 8) (faddr : Option Word) : Prop :=
  Gives (exec i s) (State.Same (s2.haltWalker k sub faddr))

/-- The walker load i of n bytes at va (16 R405): inside the source range, once earlier engine work has let go, it writes g of the bytes
and of their poison; a byte outside the range halts it with BOUNDS, a failing check with its cause. -/
def WalkLoad (i : Instr) (uses : List WReg) (wd : WReg) (carry : Bool) (va : Walker → WalkBlk → Word) (n : Walker → WalkBlk → Nat)
    (g : Walker → WalkBlk → Nat → Word) : Prop :=
  ∀ s k c b, s.WalkGo k c b uses →
    let w := (s.clu k).walker
    let a := va w b
    let kind := if carry then AKind.carried else .read
    (b.srclo ≤ a.toNat → a.toNat + n w b - 1 ≤ b.srchi → s.engHeld c false a (n w b) = false →
      (∀ s1 sp, s.access (s.ctxOf c.thr) kind false a (n w b) = (s1, .ok sp) →
        let q := s1.readSpans (s1.ctxOf c.thr) 0 sp
        WalkDoes i s k (q.1.ww k wd (g w b (leNat q.2)) (carry && sp.any s1.spanPoisoned))
          ((q.1.clu k).walker.pc + 4)) ∧
      (∀ s1 tr, s.access (s.ctxOf c.thr) kind false a (n w b) = (s1, .error tr) → WalkHalts i s k s1 tr.cause (some a))) ∧
    ((a.toNat < b.srclo ∨ b.srchi < a.toNat + n w b - 1) → WalkHalts i s k s 0x0D (some a))

/-! ### Control words (15 R373-R381) -/

/-- The value that register r of a control thread holds once every result in flight has come (15 R374, R375). -/
def Thread.will (th : Thread) (r : BitVec 5) : Word :=
  ((th.inflight.filter fun i => i.dreg == some r).getLast?.map (·.value)).getD (th.rc r)

/-- A source field that names a slot of the result window. -/
def isDistance (v : BitVec 6) : Bool := decide (32 ≤ v.toNat) && decide (v.toNat < 48)

/-- Control thread t can issue word w of opcode op at once: the next cycle of its control core is its own, no unit of an earlier word has
still to answer, nothing of an engine, a breakpoint or the debugger stands before it, no TWAIT, TALLOC or hold keeps it, the checker, if
it is on, finds every source visible, and no item of the module holds an error (02 R53, 04 R111, 15 R373, R376-R379). -/
structure State.WordGo (s : State) (t op : Nat) (w : CW) : Prop where
  powered : s.mgmt.powered = true
  cur : s.cur = .thread t
  runs : s.runnable t = true
  kind : (s.th t).kind = .control
  first : s.ctlFirst t = true
  clock : (s.th t).nextIssue = s.ctlNow t
  units : ∀ i ∈ (s.th t).inflight, i.due.isSome = true ∨ unitOp i.op = false
  engines : (s.th t).engFault = []
  noBreak : (s.th t).breaks (s.th t).pc = false
  noStep : (s.th t).stepReq = false
  handler : (s.th t).inh = true → w.talloc = 0 ∧ w.twait = 0 ∧ (∀ v ∈ ctlSources op w, isDistance v = false) ∧
    ∀ i ∈ (s.th t).inflight, i.numbered = true
  twait : (s.th t).twaits w = []
  talloc : w.talloc = 0 ∨ ∀ i ∈ (s.th t).inflight, i.tag ≠ w.talloc
  free : (s.th t).ctlHeld op w = false
  checked : getBit (s.th t).sys.sbchk 0 = false ∨
    ∀ v ∈ ctlSources op w, (s.th t).srcEarly v = false ∧ (s.th t).srcHole v = false
  sound : s.upsets = []

/-- State s2 after word w of thread t has issued with entry fl in flight, n cycles have passed, and the thread goes on at pc: it has
taken its slot and number outside a handler, and the results that are due have come (15 R374, R376). -/
def State.wordIssued (s2 : State) (x : CIn) (op : Nat) (w : CW) (pc : Word) (fl : Option Inflight) (n : Nat) : State :=
  let hole := (ctlSources op w).any x.th.srcHole
  let s3 := s2.modTh x.t fun th => th.issueWord x op hole pc fl
  let s4 := if kindOf op = .v ∧ (∃ i ∈ fl, i.due.isSome = true) then s3.postOnce .resultDelivery x.t x.si.seq.toNat else s3
  s4.modTh x.t fun th => ({ th with nextIssue := th.nextIssue + n } : Thread).settleDue

/-- Word w of opcode op in thread t issues with the effect s2 and entry fl, goes on at pc, and its next word can issue `cyc` cycles and its
STALL later; other clocks and counters apart nothing else changes. -/
def WordDoes (i : Instr) (op : Nat) (w : CW) (s : State) (t : Nat) (s2 : State) (pc : Word) (fl : Option Inflight) (cyc : Nat) : Prop :=
  s2.Quiet t → (s2.th t).nextIssue = (s.th t).nextIssue → s2.ctlNow t = s.ctlNow t → Gives (exec i s) fun b =>
    State.Same (s2.wordIssued (s.wordIn t op w) op w pc fl (cyc + w.stall.toNat)) b ∧ (b.th t).pc = pc ∧
    (b.th t).nextIssue = (s.th t).nextIssue + cyc + w.stall.toNat

/-- The word behind the PC of thread t. -/
def State.wordNext (s : State) (t : Nat) : Word := (s.th t).pc + 8

/-- The entry of a result: visible after the latency of its word, or delivered by its unit's step (15 R374, R375). -/
def State.resultOf (s : State) (t op : Nat) (w : CW) (v : Word) (fl : BitVec 5) (acq : Bool) : Inflight :=
  (s.wordIn t op w).flight op w v (some (if kindOf op = .v then 0 else (s.th t).nextIssue + latency op)) fl acq none
    (s.cycleOf t).toNat

/-- The word has no result and no effect but s2. -/
def WordEffect (i : Instr) (op : Nat) (w : CW) (s : State) (t : Nat) (s2 : State) : Prop :=
  WordDoes i op w s t s2 (s.wordNext t) none 1

/-- The word has the effect s2 and the result v with flags fl: register D, if it names one, will hold v, and every other register what
it would have held. -/
def WordGives (i : Instr) (op : Nat) (w : CW) (s : State) (t : Nat) (s2 : State) (v : Word) (fl : BitVec 5) (acq : Bool) : Prop :=
  WordDoes i op w s t s2 (s.wordNext t) (some (s.resultOf t op w v fl acq)) 1 ∧
  (s2.Quiet t → (s2.th t).inflight = (s.th t).inflight → (s2.th t).x = (s.th t).x → Gives (exec i s) fun b =>
    ∀ r : BitVec 5, (b.th t).will r = if w.d = r.setWidth 6 then v else (s.th t).will r)

/-- A word that only computes: its result is v of the sources, with flags fl, and nothing else of the state changes. -/
def WordResult (i : Instr) (op : Nat) (w : CW) (v : CIn → Word) (fl : CIn → BitVec 5) (ok : CIn → Prop) : Prop :=
  ∀ s t, s.WordGo t op w → (s.th t).sys.sampOn = false → ok (s.wordIn t op w) →
    WordGives i op w s t s (v (s.wordIn t op w)) (fl (s.wordIn t op w)) false

/-- An integer word on sources A and B (15 R381, 11 R278). -/
def IntWord (i : Instr) (op : Nat) (w : CW) (g : Word → Word → Word) : Prop :=
  WordResult i op w (fun x => g x.a x.b) (fun _ => 0) fun _ => True

/-- A word that meets a check at issue traps with a re-run cause: it takes neither slot nor number, and the record is
written over s2, what the check left (15 R379). -/
def WordTraps (i : Instr) (s : State) (t : Nat) (s2 : State) (tr : Trap) : Prop :=
  (s2.th t).nextIssue = (s.th t).nextIssue → s2.ctlNow t = s.ctlNow t → Gives (exec i s) (State.Same
    ((s2.takeTrap t tr (siteAt (s.th t).pc ((s.th t).sys.cseq.setWidth 32) (s.th t).pc)).modTh t fun th =>
      ({ th with nextIssue := (s.th t).nextIssue + 1 } : Thread).settleDue))

/-- A floating-point word with result g: the flags come with the result when FTRAPEN enables none of them, and else it traps FPX
(15 R381, 11 R284). -/
def FloatWord (i : Instr) (op : Nat) (w : CW) (g : CIn → FRes) : Prop :=
  WordResult i op w (fun x => BitVec.ofNat 64 (g x).bits) (fun x => (g x).flags) (fun x => fpx x.th.sys.ftrapen (g x).flags = false) ∧
  ∀ s t, s.WordGo t op w → fpx (s.th t).sys.ftrapen (g (s.wordIn t op w)).flags = true → WordTraps i s t s (causeTrap 0x09)

/-- A branch word on sources A and B: taken, it goes on at its own address and eight times its immediate after three cycles (15 R373,
R381). -/
def BranchWord (i : Instr) (op : Nat) (w : CW) (taken : Word → Word → Prop) : Prop :=
  ∀ s t, s.WordGo t op w → (s.th t).sys.sampOn = false →
    let x := s.wordIn t op w
    (taken x.a x.b → WordDoes i op w s t s ((s.th t).pc + x.imm * 8) none 3) ∧
    (¬ taken x.a x.b → WordEffect i op w s t s)

/-- A word of chapter 14 without a result, when `eff` holds of the state, the word and s2, issues with that effect. -/
def WordEff (i : Instr) (op : Nat) (w : CW) (eff : State → CIn → State → Prop) : Prop :=
  ∀ s t s2, s.WordGo t op w → eff s (s.wordIn t op w) s2 → WordEffect i op w s t s2

/-- A word of chapter 14 with a result: its unit answers v at once. -/
def WordVal (i : Instr) (op : Nat) (w : CW) (acq : Bool) (eff : State → CIn → State → Word → Prop) : Prop :=
  ∀ s t s2 v, s.WordGo t op w → eff s (s.wordIn t op w) s2 v → WordGives i op w s t s2 v 0 acq

/-- A word whose unit answers later: it issues, and stays in flight without a value, in the wait wt. -/
def WordPends (i : Instr) (op : Nat) (w : CW) (s : State) (t : Nat) (s2 : State) (wt : Option Wait) (acq : Bool) : Prop :=
  WordDoes i op w s t s2 (s.wordNext t)
    (some ((s.wordIn t op w).flight op w 0 none 0 acq wt (s.cycleOf t).toNat)) 1

/-! ### Vector convoys (02 R44-R47, 12 R302, 13 R337) -/

/-- Strand t can broadcast the convoy that i heads (02 R44-R47, R51, 06 R147, R148, 10 R256): it breaks no rule of a convoy; it is ready,
that is, no register it captures is pending and the slip bound, the galleys, the rendezvous slots and the lanes let it go; it has a
credit, and no other strand of its cluster is ready; no trap at issue and no breakpoint stands on it. -/
structure State.VectorGo (s : State) (t : Nat) (i : Instr) : Prop extends s.StrandGo t i where
  user : s.User t
  checks : convoyTrap (s.th t).capture (s.headOf t i) = none
  ready : (s.atHead t i).ready ((s.atHead t i).strandsOn (cluKey (s.mbOf t).die (s.mbOf t).cluster)) t = true
  others : ∀ u ∈ (s.atHead t i).strandsOn (cluKey (s.mbOf t).die (s.mbOf t).cluster), u ≠ t →
    (s.atHead t i).ready ((s.atHead t i).strandsOn (cluKey (s.mbOf t).die (s.mbOf t).cluster)) u = false
  credit : 0 < (s.th t).credit
  issue : ∃ d, ((s.atHead t i).issueTraps t (s.th t).capture (s.headOf t i).units).2 = .ok d
  noEng : (s.th t).engBreak (s.headOf t i).pc 8 0 ((s.th t).nextEseq 8) = false

/-- What the convoy that i heads reads at issue (07 R185). -/
def State.reads (s : State) (t : Nat) (i : Instr) : Option (DistEntry × List Nat) :=
  match ((s.atHead t i).issueTraps t (s.th t).capture (s.headOf t i).units).2 with | .ok d => d | .error _ => none

/-- The state after the convoy that i heads has been broadcast. -/
def State.broadcasts (s : State) (t : Nat) (i : Instr) : State :=
  ((s.atHead t i).issueTraps t (s.th t).capture (s.headOf t i).units).1.broadcast t (s.th t).capture (s.headOf t i) (s.reads t i)

/-- Instruction i stands alone in its convoy, and lane j of thread t is at it; every convoy of the window is older, and the numbers
behind it younger; no rendezvous and no remote element is outstanding, and the thread is not sampled. -/
structure State.LaneReady (s : State) (t : Nat) (i : Instr) (j : Nat) : Prop extends s.VectorGo t i where
  alone : ∃ n, (s.headOf t i).units = [{ instr := i, bytes := n }]
  lane : j < (s.th t).lanes
  few : j < 32
  behind : vget (s.th t).cp j 0 = (s.headOf t i).seq
  older : ∀ w ∈ (s.th t).window, seqLt w.seq (s.headOf t i).seq = true
  younger : seqLt (s.headOf t i).seq (((s.atHead t i).th t).leave (s.headOf t i) (s.headOf t i).next).nextSeq = true
  answered : ∀ r ∈ s.remotes, r.thr ≠ t
  open_ : (s.th t).rdvOpen = false
  sampled : (s.th t).sys.sampOn = false

/-- What lane j knows of the convoy of i. -/
def State.laneEnv (s : State) (t : Nat) (i : Instr) (j : Nat) : LEnv :=
  { t, seq := (s.headOf t i).seq, cap := (s.th t).capture, lane := j, start := 0, dist := s.reads t i }

/-- The elements of w bits up to which an instruction of chapter 12 writes a tail: none when VLEN = 0 (12 R300, R302). -/
def Captured.top12 (C : Captured) (w : Nat) : Nat := if C.vl = 0 then 0 else C.mvl * C.sew / w

/-- From v to v' a lane has written destination vd of w-bit elements, `top` of them in all (12 R302): f at active body elements, the policy
value at the others; the tail all ones under TP, or as it was; no share of another register or lane changes. -/
def LaneWrote (C : Captured) (c : MaskCtl) (vd : VReg) (w top j : Nat) (f : Nat → Nat) (v v' : NMap) : Prop :=
  (∀ e, e < C.vl → e % C.lanes = j → vget1 v' C.lanes w vd.toNat e =
    if isActive v C.lanes c e then f e % 2 ^ w else (c.off w).getD (vget1 v C.lanes w vd.toNat e)) ∧
  (∀ e, C.vl ≤ e → e % C.lanes = j → vget1 v' C.lanes w vd.toNat e =
    if c.tp ∧ e / C.lanes < top / C.lanes then 2 ^ w - 1 else vget1 v C.lanes w vd.toNat e) ∧
  ∀ k, k ≠ vd.toNat * 32 + j → NMap.get v' k = NMap.get v k

/-- Broadcast i, and the step of a lane that follows it: b is the state after the broadcast, a after the lane's step. -/
def LaneSteps (i : Instr) (s : State) (t j : Nat) (p : State → State → Prop) : Prop :=
  Gives (exec i s) fun b => State.Same (s.broadcasts t i) b ∧ p b (b.laneStep t j)

/-- The vector instruction i writes g of each active element to destination vd, w bits wide and `top` elements long, and ORs the flags; an element whose exception
FTRAPEN enables stops the lane with FPX there (12 R302, R305, 03 R71). Memory, tile stores and scalar registers stay. -/
def ElementwiseIf (ok : Captured → Prop) (top : Captured → Nat) (i : Instr) (c : MaskCtl) (vd : VReg) (w : Captured → Nat)
    (g : Captured → NMap → Nat → FRes) : Prop :=
  ∀ s t j, s.LaneReady t i j → ok (s.th t).capture →
    let C := (s.th t).capture
    let v := (s.th t).v
    let els := (laneElems C.lanes C.vl j).filter (isActive v C.lanes c)
    ((∀ e ∈ els, fpx C.ftrapen (g C v e).flags = false) → LaneSteps i s t j fun b a =>
      LaneWrote C c vd (w C) (top C) j (fun e => (g C v e).bits) v (a.th t).v ∧
      (a.th t).sys.fflags = (s.th t).sys.fflags ||| (els.foldl (fun f e => f ||| (g C v e).flags) 0).setWidth 64 ∧
      vget (a.th t).cp j 0 = (b.th t).cpAfter (s.headOf t i).seq ∧ (a.th t).x = (s.th t).x ∧
      a.mem = b.mem ∧ a.members = b.members) ∧
    (∀ e, els.find? (fun e => fpx C.ftrapen (g C v e).flags) = some e → LaneSteps i s t j fun b a =>
      Tbl.find j (a.th t).laneFault = some { idx := 0, trap := fpxTrap e } ∧ (a.th t).cp = (b.th t).cp ∧
      (a.th t).sys.fflags = (s.th t).sys.fflags ∧ a.mem = b.mem ∧ a.members = b.members)

/-- The same under every capture, for an instruction of chapter 12. -/
def Elementwise (i : Instr) (c : MaskCtl) (vd : VReg) (w : Captured → Nat) (g : Captured → NMap → Nat → FRes) : Prop :=
  ElementwiseIf (fun _ => True) (fun C => C.top12 (w C)) i c vd w g

/-- The vector instruction i in a lane: it comes to s' with flags fl, and the lane commits it, unless a remote element is outstanding;
or the element it stops at is kept with its trap, and the lane does not commit; or it waits. -/
def LaneDoes (i : Instr) (f : State → LEnv → LRes) : Prop :=
  ∀ s t j, s.LaneReady t i j → LaneSteps i s t j fun b a =>
    let e := s.laneEnv t i j
    (∀ s' fl, f b e = .ok s' fl → s'.upsets = [] → ∀ s1, s1 = (s'.modWin t e.seq fun y =>
        { y with ran := NMap.set y.ran j (fl.toNat + 1) }) →
      (s1.outstanding t e.seq j = true → State.Same s1 a) ∧
      (s1.outstanding t e.seq j = false → (∀ y ∈ (s1.th t).window, Tbl.find j y.rfault = none) →
        State.Same (((s1.orFlags t fl).modTh t fun th => { th with cp := vset th.cp j (th.cpAfter e.seq) }).pruneWindow t) a)) ∧
    (∀ s' tr, f b e = .fault s' tr → State.Same (s'.faultLane t j { idx := 0, trap := tr }) a) ∧
    (∀ s', f b e = .stall s' → State.Same s' a)

/-- The state after every lane has stepped through the convoy of i and the slots have delivered: one turn of the lanes. -/
def LanesTurn (i : Instr) (s : State) (t : Nat) (p : State → Prop) : Prop :=
  (∀ j, j < (s.th t).lanes → s.LaneReady t i j) → 0 < (s.th t).lanes →
    Gives (exec i s) fun b => State.Same (s.broadcasts t i) b ∧ p (b.lanesTurn t)

/-- The rendezvous i delivers d in one piece once every lane has come: vector registers, flags, VCARRY, and the scalar destination
(02 R51, 13 R337). Memory, tile stores and every other scalar register stay. -/
def DeliversIf (ok : Captured → Prop) (i : Instr) (d : RdvIn → Delivery) : Prop :=
  ∀ s t, ok (s.th t).capture → LanesTurn i s t fun a =>
    let r : RdvIn := { cap := (s.th t).capture, v := (s.th t).v, carry := (s.th t).sys.vcarry, parts := [] }
    let q := d { r with parts := rdvParts r i }
    (a.th t).v = q.v ∧ (a.th t).sys.vcarry = q.carry ∧
    (a.th t).sys.fflags = (s.th t).sys.fflags ||| q.flags.setWidth 64 ∧
    (∀ r, (a.th t).rx r = match q.x with | some (x, u) => if r = x ∧ r ≠ 0 then u else (s.th t).rx r | none => (s.th t).rx r) ∧
    a.mem = (s.broadcasts t i).mem ∧ a.members = s.members ∧ (a.th t).rdvOpen = false

/-- The same under every capture. -/
def Delivers (i : Instr) (d : RdvIn → Delivery) : Prop := DeliversIf (fun _ => True) i d

/-- The rendezvous i writes value v to xd and nothing else. -/
def DeliversX (i : Instr) (xd : XReg) (v : RdvIn → Word) (fl : RdvIn → Flags) : Prop :=
  Delivers i fun r => { v := r.v, x := some (xd, v r), flags := fl r, carry := r.carry }

/-- From v to v' every lane has written destination vd of w-bit elements: f at active body elements. -/
def AllWrote (C : Captured) (c : MaskCtl) (vd : VReg) (w : Nat) (f : Nat → Nat) (v v' : NMap) : Prop :=
  ∀ j, j < C.lanes → (∀ e, e < C.vl → e % C.lanes = j → vget1 v' C.lanes w vd.toNat e =
    if isActive v C.lanes c e then f e % 2 ^ w else (c.off w).getD (vget1 v C.lanes w vd.toNat e)) ∧
  (∀ e, C.vl ≤ e → e % C.lanes = j → vget1 v' C.lanes w vd.toNat e =
    if c.tp ∧ e / C.lanes < C.mvl * C.sew / w / C.lanes then 2 ^ w - 1 else vget1 v C.lanes w vd.toNat e) ∧
  ∀ k, (k < vd.toNat * 32 ∨ vd.toNat * 32 + C.lanes ≤ k) → NMap.get v' k = NMap.get v k

/-- The rendezvous i writes f of the captured operands at each active element of vd, and no flag. -/
def DeliversV (i : Instr) (c : MaskCtl) (vd : VReg) (w : Captured → Nat) (f : RdvIn → Nat → Nat) : Prop :=
  ∃ d : RdvIn → NMap, Delivers i (fun r => { v := d r, x := none, flags := 0, carry := r.carry }) ∧
    ∀ r, 0 < r.cap.lanes → AllWrote r.cap c vd (w r.cap) (f r) r.v (d r)

/-- The list f stands at the first places of vd, all ones after it up to VLEN; no other register changes. -/
def PackedAt (r : RdvIn) (vd : VReg) (f : List Nat) (v' : NMap) : Prop :=
  (∀ e, e < r.cap.vl → vget1 v' r.cap.lanes r.cap.sew vd.toNat e = f[e]?.getD (2 ^ r.cap.sew - 1) % 2 ^ r.cap.sew) ∧
  ∀ k, (k < vd.toNat * 32 ∨ vd.toNat * 32 + r.cap.lanes ≤ k) → NMap.get v' k = NMap.get r.v k

/-- The rendezvous i packs the list f to the front of vd: its places hold the list, all ones after it up to VLEN (13 R344). -/
def DeliversPacked (i : Instr) (vd : VReg) (f : RdvIn → List Nat) : Prop :=
  ∃ d : RdvIn → NMap, Delivers i (fun r => { v := d r, x := none, flags := 0, carry := r.carry }) ∧
    ∀ r, 0 < r.cap.lanes → PackedAt r vd (f r) (d r)

/-- Lane j of strand t stands at convoy w of its window, which instruction i, neither a rendezvous nor an ordered one, makes up alone;
nothing of w or of a younger convoy has run there, and nothing holds it: no fault of a lane, no remote element and no error. -/
structure State.LaneAt (s : State) (t j : Nat) (w : WinEntry) (i : Instr) (inf : VInfo) : Prop where
  runs : s.runnable t = true
  user : s.User t
  lane : j < (s.th t).lanes
  few : j < 32
  faults : (s.th t).laneFault = []
  entry : (s.th t).window.find? (·.seq == vget (s.th t).cp j 0) = some w
  next : (s.th t).laneNext j = some w
  fresh : ∀ y ∈ (s.th t).window, NMap.get y.ran j = 0 ∧ NMap.get y.sent j = 0 ∧ Tbl.find j y.rfault = none
  alone : ∃ n, w.units = [{ instr := i, bytes := n }]
  info : w.cap.info i = some inf
  plain : inf.rdv = false
  unordered : w.ordered = none
  free : s.laneWaits (w.env t j) inf = false
  sound : s.upsets = []
  answered : ∀ r ∈ s.remotes, r.thr ≠ t
  sampled : (s.th t).sys.sampOn = false

/-- The engine fault e of thread t, the oldest that waits, has been recorded in b, before the faults `rest`: TRAPCAUSE names the engine,
its channel and the command's number; the thread goes to its handler or stops; of memory a strand's trap block alone is written (03
R76-R78, R89). -/
def State.EngRecorded (s : State) (t : Nat) (e : EngFault) (rest : List EngFault) (b : State) : Prop :=
  let th := s.th t
  (b.th t).engFault = rest ∧
  (b.th t).sys.trapcause = BitVec.ofNat 64 (e.eseq.toNat * 2 ^ 32 + e.chan % 8 * 2 ^ 20 + e.eng % 16 * 2 ^ 16 +
    e.trap.sub.toNat * 2 ^ 8 + e.trap.cause.toNat) ∧
  (b.th t).sys.trappc = e.pc ∧ (b.th t).sys.trapseq = e.cseq.setWidth 64 ∧
  (b.th t).sys.trapelem = BitVec.ofNat 64 (e.trap.elem % 2 ^ 32) ∧ (b.th t).sys.trapaddr = e.trap.addr ∧
  (b.th t).refetch = th.pc ∧ (b.th t).x = th.x ∧
  (if th.toHandler e.trap.cause then (b.th t).inh = true ∧ (b.th t).pc = th.sys.trapvec
   else (b.th t).run = (if th.run = .done then .endedStopped else .stopped) ∧ (b.th t).pc = th.pc) ∧
  ∀ a, (th.kind ≠ .strand ∨ a < th.sys.ctxarea.toNat ∨ th.sys.ctxarea.toNat + 0x120 ≤ a) → Mem.get b.mem a = Mem.get s.mem a

/-! ### Platen words (15 R382) -/

/-- State s1, which the checks of platen word w left, with its operation at the end of the queue: its interlock entries, its number, and
the start of the queue posted if the head is ready (15 R382, R383). -/
def State.platenQueued (s1 : State) (x : CIn) (op : Nat) (w : CW) (need : PlatenNeed) : State :=
  let eng := if op = 0x88 ∨ op = 0x89 then 6 else 7
  let n := (s1.th x.t).nextEseq eng
  let q := s1.takeLocks x.t (need.ranges.map fun (wr, dense, z, lo, hi, first) => lockOf wr dense eng z n lo hi first)
  let s2 := q.1.acceptEng x.t eng 0 n
  let p : PlatenOp :=
    { id := s2.nextCmd, issued := (s2.cycleOf x.t).toNat, startAt := 0, op, cw := w, pc := x.si.pc, cseq := x.si.seq, eng, eseq := n,
      a := x.a, b := x.b, c := x.c, rmode := x.th.sys.rmode, started := false, pos := 0, groups := need.groups,
      tablePoison := need.tablePoison, hdr := need.hdr,
      resid := 0, flags := 0, locks := q.2, fault := none, cover := [],
      waited := (s2.cmds.filter fun c => c.thr == x.t && !c.finished).map (·.id), heldAt := none, heldFor := 0 }
  ({ s2 with nextCmd := s2.nextCmd + 1 }.modTh x.t fun th => { th with platen := th.platen ++ [p] }).kickPlaten x.t

/-- Platen word i of opcode op (15 R382): when what it reads at issue is not held, its checks pass and there is room for its entries, it
issues with its operation at the end of the queue; a failing check traps with nothing enqueued. -/
def PlatenWord (i : Instr) (op : Nat) (w : CW) : Prop :=
  ∀ s t s1, s.WordGo t op w →
    let x := s.wordIn t op w
    let eng := if op = 0x88 ∨ op = 0x89 then 6 else 7
    (op = 0x82 → s.interlocked t false (tileVirt x.b.toNat) (8 * (getField x.c 16 4 + 1)) = false) →
    (op = 0x88 → s.interlocked t false x.b 64 = false) → (op = 0x89 → s.interlocked t false x.a 64 = false) →
    (∀ need, s.platenNeed x op w = (s1, .ok need) →
      need.ranges.length ≤ (s1.th t).freeLocks.length → (s1.th t).engBreak x.si.pc eng 0 ((s1.th t).nextEseq eng) = false →
      WordEffect i op w s t (s1.platenQueued x op w need)) ∧
    (∀ tr, s.platenNeed x op w = (s1, .error tr) → WordTraps i s t s1 tr)

/-- The operation p that runs for control thread t, at the head of its queue and held by no earlier engine work, nor stopped by a
fault, a trap of its member or a save (15 R382, R383). -/
structure State.PlatenRuns (s : State) (t : Nat) (p : PlatenOp) : Prop where
  powered : s.mgmt.powered = true
  thread : t < s.threads.length
  member : (s.th t).member < s.members.length
  head : ∃ l, (s.th t).platen = p :: l
  started : p.started = true
  fault : p.fault = none
  runs : s.memberStopped (s.th t).member = false
  there : (s.tm (s.th t).team).state ≠ .saved
  free : ∀ k ∈ p.locks, let e := vget (s.th t).interlock k Interlock.reset
    s.heldBefore t p.id e.write (BitVec.ofNat 64 e.lo) (e.hi + 1 - e.lo) = false

/-- Element k of accumulator tile n of member m. -/
def State.accEl (s : State) (m n k : Nat) : Nat := NMap.get (s.mb m).acc (n * 16384 + k)

/-! ### Events -/

/-- Event i, in a powered module where p holds, happens and leaves a state with q. -/
def Happens (i : Instr) (p : State → Prop) (q : State → State → Prop) : Prop :=
  ∀ s, s.mgmt.powered = true → p s → Gives (exec i s) (q s)

/-- Event i cannot happen where p holds: the model stops by name (the model's choice, log 1: the schedule never picks it). -/
def CannotHappen (i : Instr) (p : State → Prop) : Prop :=
  ∀ s, s.mgmt.powered = true → p s → exec i s = .fault .eventNotPossible

/-! ### Instructions by their encoding -/

/-- A walker word. -/
def isWalkerWord : Instr → Bool
  | .wli _ _ => true | .wmov _ _ => true | .wadd _ _ _ => true | .waddi _ _ _ => true | .wsub _ _ _ => true | .wshl _ _ _ => true
  | .wshr _ _ _ => true | .wand _ _ _ => true | .wor _ _ _ => true | .wcmp _ _ _ _ => true | .wld _ _ _ _ => true
  | .wldv _ _ _ => true | .wbmp _ _ _ => true | .wffs _ _ => true | .wpopc _ _ => true | .wemit _ _ _ => true | .wrow => true
  | .wflush => true | .wbr _ _ => true | .wjmp _ => true | .wloop _ _ => true | .whalt => true
  | _ => false

end Sys2Proof.Machine
end

