-- ==== Sys2Proof/WellFormed.lean ====
section
/-! DEFINITION. Which instructions can be written as words: the must-be-zero, range and combination rules of 10 R254,
R255, R261-R265 and of each extended instruction (13, 14). An event is always well formed. -/

namespace Sys2Proof

/-- The mask, prefix and register rules of a vector base word of major `maj`, type `t` and bits 22:21 `fn2`:
MP = 1 needs M = 1, a prefix holds only what the major accepts, and v32-v63 need a prefix (10 R254, R255). -/
def vecOk (maj t fn2 : Nat) (k : VCtl) (regs : List VReg) : Bool :=
  (!k.mp || k.m) &&
    match k.pfx with
    | none => regs.all fun r => r.toNat < 32
    | some p => pfxOk maj t fn2 k.m k.mp p ⟨false, false, false⟩

/-- The mask fields of an extended vector instruction: K is 0 unless M = 1, and MP = 1 needs M = 1 (10 R254, R264). -/
def extOk (e : ECtl) : Bool := e.m || (e.mreg == 0 && !e.mp)

/-- TP and MP both 0, as in stores and reductions. -/
def noPolicy (k : VCtl) : Bool := !k.tp && !k.mp

/-- A control word whose fields its OP accepts (10 R265, checks 2-4). -/
def cwOk (op : Nat) (c : CW) : Bool := ccSourcesOk op c && ccImmOk op c && ccTimingOk op c

/-- A named source of XSTAT or XWAIT: engines 2-8 (14 R364). -/
def xsrcOk : XSrc → Bool
  | .chan _ => true
  | .eng e => 2 ≤ e.toNat && e.toNat ≤ 8

/-- The well-formed instructions. -/
def WellFormed : Instr → Bool
  | .fcvt dt st _ _ => 2 ≤ encSType dt || 2 ≤ encSType st
  | .bar sc => sc == .clu || sc == .die || sc == .dev
  | .fence _ k => k != 0
  | .vadd k t d a b => vecOk 0x30 (encITy t) (lo5 b % 4) k [d, a, b]
  | .vsub k t d a b => vecOk 0x31 (encITy t) (lo5 b % 4) k [d, a, b]
  | .vmul k t d a b => vecOk 0x32 (encITy t) (lo5 b % 4) k [d, a, b]
  | .vmulh k t d a b => vecOk 0x33 (encITy t) (lo5 b % 4) k [d, a, b]
  | .vmadd k t d a b => vecOk 0x34 (encITy t) (lo5 b % 4) k [d, a, b]
  | .vmin k t d a b => vecOk 0x35 (encITy t) (lo5 b % 4) k [d, a, b]
  | .vmax k t d a b => vecOk 0x36 (encITy t) (lo5 b % 4) k [d, a, b]
  | .vand k d a b => vecOk 0x37 0 (lo5 b % 4) k [d, a, b]
  | .vor k d a b => vecOk 0x37 1 (lo5 b % 4) k [d, a, b]
  | .vxor k d a b => vecOk 0x37 2 (lo5 b % 4) k [d, a, b]
  | .vshl k d a b => vecOk 0x37 3 (lo5 b % 4) k [d, a, b]
  | .vsha k d a b => vecOk 0x38 0 (lo5 b % 4) k [d, a, b]
  | .vshr k d a b => vecOk 0x38 1 (lo5 b % 4) k [d, a, b]
  | .vsadd k t d a b => vecOk 0x39 (encITy t) (lo5 b % 4) k [d, a, b]
  | .vssub k t d a b => vecOk 0x3a (encITy t) (lo5 b % 4) k [d, a, b]
  | .vavg k t d a b => vecOk 0x3b (encITy t) (lo5 b % 4) k [d, a, b]
  | .vabs k d a => vecOk 0x3c 0 0 k [d, a]
  | .vneg k t d a => vecOk 0x3c (encITy t) 1 k [d, a]
  | .vfadd k t d a b => vecOk 0x3d (encFTy t) (lo5 b % 4) k [d, a, b]
  | .vfsub k t d a b => vecOk 0x3e (encFTy t) (lo5 b % 4) k [d, a, b]
  | .vfmul k t d a b => vecOk 0x3f (encFTy t) (lo5 b % 4) k [d, a, b]
  | .vfdiv k t d a b => vecOk 0x40 (encFTy t) (lo5 b % 4) k [d, a, b]
  | .vffma k t d a b => vecOk 0x41 (encFTy t) (lo5 b % 4) k [d, a, b]
  | .vffms k t d a b => vecOk 0x42 (encFTy t) (lo5 b % 4) k [d, a, b]
  | .vfnma k t d a b => vecOk 0x43 (encFTy t) (lo5 b % 4) k [d, a, b]
  | .vfmin k t d a b => vecOk 0x44 (encFTy t) (lo5 b % 4) k [d, a, b]
  | .vfmax k t d a b => vecOk 0x45 (encFTy t) (lo5 b % 4) k [d, a, b]
  | .vfsqrt k f d a => vecOk 0x46 (encFTy f) 0 k [d, a]
  | .vfabs k f d a => vecOk 0x46 (encFTy f) 1 k [d, a]
  | .vfneg k f d a => vecOk 0x46 (encFTy f) 2 k [d, a]
  | .vfclass k f d a => vecOk 0x46 (encFTy f) 3 k [d, a]
  | .vfrcp k f d a => vecOk 0x46 (encFTy f) 0 k [d, a]
  | .vfrsq k f d a => vecOk 0x46 (encFTy f) 1 k [d, a]
  | .vfexp2 k f d a => vecOk 0x46 (encFTy f) 2 k [d, a] && f != .f64
  | .vflog2 k f d a => vecOk 0x46 (encFTy f) 3 k [d, a] && f != .f64
  | .vfsinpi k f d a => vecOk 0x46 (encFTy f) 0 k [d, a] && f != .f64
  | .vfcospi k f d a => vecOk 0x46 (encFTy f) 1 k [d, a] && f != .f64
  | .vcmp k _ t d a b => vecOk 0x47 (encITy t) (lo5 b % 4) k [d, a, b] && noPolicy k
  | .vfcmp k _ f d a b => vecOk 0x48 (encFTy f) (lo5 b % 4) k [d, a, b] && noPolicy k
  | .mand k d a b => vecOk 0x49 0 (lo5 b % 4) k [d, a, b] && !k.m
  | .mor k d a b => vecOk 0x49 1 (lo5 b % 4) k [d, a, b] && !k.m
  | .mxor k d a b => vecOk 0x49 2 (lo5 b % 4) k [d, a, b] && !k.m
  | .mandn k d a b => vecOk 0x49 3 (lo5 b % 4) k [d, a, b] && !k.m
  | .mpopc k _ a => vecOk 0x49 4 0 k [a] && noPolicy k
  | .mfirst k _ a => vecOk 0x49 5 0 k [a] && noPolicy k
  | .vmerge k t d a b => vecOk 0x4a (encElTy t) (lo5 b % 4) k [d, a, b] && k.m && !k.mp
  | .vcvt k dt _ d a => vecOk 0x4b (encElTy dt) 0 k [d, a]
  | .vcvte k dt _ d a => vecOk 0x4b (encElTy dt) 1 k [d, a]
  | .vwiden k dt _ d a => vecOk 0x4b (encElTy dt) 2 k [d, a]
  | .vnarrow k dt _ d a => vecOk 0x4b (encElTy dt) 3 k [d, a]
  | .vpack k m l d a => vecOk 0x4c 6 (encBlkLen l) k [d, a] && m != 7 && k.pfx.isSome && !k.m
  | .vunpack k m l d a => vecOk 0x4d 4 (encBlkLen l) k [d, a] && m != 7 && k.pfx.isSome && !k.m
  | .vscale k f d a b => vecOk 0x4e (encFTy f) (lo5 b % 4) k [d, a, b]
  | .vscacc k f d a b => vecOk 0x4f (encFTy f) (lo5 b % 4) k [d, a, b]
  | .vld k o _ d => vecOk 0x50 0 (o.toNat % 4) k [d]
  | .vlds k b _ d => vecOk 0x50 1 (b.toNat % 4) k [d]
  | .vldx k b _ d => vecOk 0x50 2 (lo5 b % 4) k [d, b]
  | .vldo k b _ d => vecOk 0x50 3 (lo5 b % 4) k [d, b]
  | .vprf k o _ => vecOk 0x50 4 (o.toNat % 4) k [] && noPolicy k
  | .vprfStrided k b _ => vecOk 0x50 5 (b.toNat % 4) k [] && noPolicy k
  | .vlda k sc o _ d => vecOk 0x51 (encScope sc) (o.toNat % 4) k [d]
  | .vst k o _ d => vecOk 0x52 0 (o.toNat % 4) k [d] && noPolicy k
  | .vsts k b _ d => vecOk 0x52 1 (b.toNat % 4) k [d] && noPolicy k
  | .vstx k b _ d => vecOk 0x52 2 (lo5 b % 4) k [d, b] && noPolicy k
  | .vstxo k b _ d => vecOk 0x52 3 (lo5 b % 4) k [d, b] && noPolicy k
  | .vstl k sc o _ d => vecOk 0x53 (encScope sc) (o.toNat % 4) k [d] && noPolicy k
  | .vrld k b _ d => vecOk 0x54 0 (lo5 b % 4) k [d, b]
  | .vrst k b _ d => vecOk 0x54 1 (lo5 b % 4) k [d, b] && noPolicy k
  | .vrstOrd k b _ d => vecOk 0x54 2 (lo5 b % 4) k [d, b] && noPolicy k
  | .vfgath k b _ d => vecOk 0x54 3 (lo5 b % 4) k [d, b]
  | .vfscat k b _ d => vecOk 0x54 4 (lo5 b % 4) k [d, b] && noPolicy k
  | .tld k o _ d => vecOk 0x55 0 (o.toNat % 4) k [d]
  | .tst k o _ d => vecOk 0x55 1 (o.toNat % 4) k [d] && noPolicy k
  | .trot k b _ => vecOk 0x55 2 (b.toNat % 4) k [] && noPolicy k
  | .tfill k o _ _ => vecOk 0x55 3 (o.toNat % 4) k [] && noPolicy k
  | .vperm k d a b => vecOk 0x60 0 (lo5 b % 4) k [d, a, b]
  | .vslup k d a b => vecOk 0x61 0 (b.toNat % 4) k [d, a]
  | .vsldn k d a b => vecOk 0x61 1 (b.toNat % 4) k [d, a]
  | .vbcast k d b => vecOk 0x61 2 (b.toNat % 4) k [d]
  | .vextr k _ a b => vecOk 0x61 3 (b.toNat % 4) k [a] && noPolicy k && !k.m
  | .vins k d _ b => vecOk 0x61 4 (b.toNat % 4) k [d] && noPolicy k
  | .vidx k d => vecOk 0x61 5 0 k [d]
  | .vred k op t _ a => vecOk 0x62 (encITy t) (encRedOp op % 4) k [a] && noPolicy k
  | .vfred k op f _ a => vecOk 0x63 (encFTy f) (encFRedOp op) k [a]
  | .vscan k (.int op t) d a => vecOk 0x64 (encITy t) (encRedOp op % 4) k [d, a]
  | .vscan k (.flt op f) d a => vecOk 0x64 (encFTy f) (encFRedOp op) k [d, a]
  | .vcomp k d a => vecOk 0x65 0 0 k [d, a] && k.m && !k.mp
  | .vexpd k d a => vecOk 0x65 0 1 k [d, a] && k.m
  | .vnzidx k t d a => vecOk 0x65 (encElTy t) 2 k [d, a] && !k.mp
  | .vtopk e _ _ d q _ _ _ => extOk e && !e.mp && d != q
  | .visect e _ _ _ _ _ _ => !e.m && !e.mp && e.mreg == 0
  | .xcopy sc _ _ _ _ sem sv _ => sc != .fab && (sv || sem == 0)
  | .xstat _ _ src => xsrcOk src
  | .xwait _ _ (.eng e) => 2 ≤ e.toNat && e.toNat ≤ 8
  | .stdrop _ m => m != 3
  | .vwait e _ _ _ _ _ _ _ _ => extOk e && !e.tp && !e.mp
  | .famo _ _ _ q _ _ _ => !q.w64
  | .vamo e _ _ _ q _ _ _ _ => extOk e && !q.w64
  | .vamocas e _ _ q _ _ _ _ => extOk e && !q.w64 && !q.remote
  | .wld _ _ _ _ => true
  | i =>
    match opOf i with
    | some (op, c) => cwOk op c
    | none => true

end Sys2Proof
end

