-- ==== Sys2Proof/Certificates/Slice0/Obligations.lean ====
section
/-! DEFINITION. The statements for the provers. -/

open Sys2Proof Sys2Proof.Machine

/-! ### Reset -/

/-- The state after reset (01 R24, R31, 04 R485, 18 R440): four supervisor cores on each die, in supervisor mode; no team; empty tables; every
counter, near-store size and clock step zero, the cap at 4,200 W, each die's budget at 1,050 W and its highest step 16; the
device's memories canonical. What a byte of HBM, a register x and the PC of a supervisor core hold is the model's choice (assumption logs
3 and 4), and this statement says nothing of it. -/
def Obligations.ResetValues : Prop :=  State.MemInv State.reset ∧ State.reset.teams = [] ∧ State.reset.members = [] ∧ State.reset.regions = [] ∧ State.reset.formes = [] ∧
  State.reset.endpoints = [] ∧ State.reset.lqueues = [] ∧ State.reset.cmds = [] ∧ State.reset.poison = [] ∧
  State.reset.mgmt.powered = true ∧ State.reset.mgmt.pwrcap = 4200 ∧ State.reset.mgmt.pwrstat = 0 ∧ State.reset.threads.length = 16 ∧
  (∀ t, t < 16 → (State.reset.th t).kind = .supervisor ∧ (State.reset.th t).member = t / 4 ∧
    getBit (State.reset.th t).sys.status stSUP = true ∧ (State.reset.th t).inh = false ∧ (State.reset.th t).sys.fflags = 0) ∧
  (∀ d, d < 4 → State.reset.curStep d = 0 ∧ State.reset.minStep d = 0 ∧ State.reset.maxStep d = 16 ∧
    getField (State.reset.die d).diepwr 32 16 = 1050 ∧ (State.reset.die d).ns = 0 ∧ (State.reset.die d).tlb = [] ∧
    (State.reset.die d).tblstat = 0) ∧
  (∀ p, p < 32 → (vget State.reset.ports p Port.reset).state = .down) ∧
  (∀ d c, d < 4 → c < 68 → (State.reset.clu (cluKey d c)).cycle = 0 ∧ (State.reset.clu (cluKey d c)).walker.state = .idle ∧
    (State.reset.clu (cluKey d c)).retired = false)

/-! ### Strand scalars (11) -/

/-- ADD, SUB, MUL, MULH, MULHN, DIV, DIVN, REM and REMN write the result of 11 R278, with 09 R230 for the quotients and remainders, and
change nothing else; x0 stays zero.
The bitwise operations and the shifts of 11 R278, which take the low six bits of xb, and LEA of two registers.
The comparisons, minima and maxima of 11 R278, on signed and on natural numbers.
A source register that holds an error which cannot be corrected traps POISON, with no element and no address, and nothing is written
(04 R111): of an ADD, of a branch, and of a load's address. -/
def Obligations.IntegerInstructions : Prop :=
  (∀ xd xa xb : XReg,
  RegResult (.add xd xa xb) [xd, xa, xb] xd (fun th => th.rx xa + th.rx xb) ∧
  RegResult (.sub xd xa xb) [xd, xa, xb] xd (fun th => th.rx xa - th.rx xb) ∧
  RegResult (.mul xd xa xb) [xd, xa, xb] xd (fun th => th.rx xa * th.rx xb) ∧
  RegResult (.mulh xd xa xb) [xd, xa, xb] xd
    (fun th => BitVec.ofInt 64 ((th.rx xa).toInt * (th.rx xb).toInt / 2 ^ 64)) ∧
  RegResult (.mulhn xd xa xb) [xd, xa, xb] xd
    (fun th => BitVec.ofNat 64 ((th.rx xa).toNat * (th.rx xb).toNat / 2 ^ 64)) ∧
  RegResult (.div xd xa xb) [xd, xa, xb] xd
    (fun th => if th.rx xb = 0 then BitVec.allOnes 64 else BitVec.ofInt 64 ((th.rx xa).toInt.tdiv (th.rx xb).toInt)) ∧
  RegResult (.divn xd xa xb) [xd, xa, xb] xd
    (fun th => if th.rx xb = 0 then BitVec.allOnes 64 else BitVec.ofNat 64 ((th.rx xa).toNat / (th.rx xb).toNat)) ∧
  RegResult (.rem xd xa xb) [xd, xa, xb] xd
    (fun th => if th.rx xb = 0 then th.rx xa else BitVec.ofInt 64 ((th.rx xa).toInt.tmod (th.rx xb).toInt)) ∧
  RegResult (.remn xd xa xb) [xd, xa, xb] xd
    (fun th => if th.rx xb = 0 then th.rx xa else BitVec.ofNat 64 ((th.rx xa).toNat % (th.rx xb).toNat))) ∧
  (∀ xd xa xb : XReg,
  RegResult (.and xd xa xb) [xd, xa, xb] xd (fun th => th.rx xa &&& th.rx xb) ∧
  RegResult (.or xd xa xb) [xd, xa, xb] xd (fun th => th.rx xa ||| th.rx xb) ∧
  RegResult (.xor xd xa xb) [xd, xa, xb] xd (fun th => th.rx xa ^^^ th.rx xb) ∧
  RegResult (.shl xd xa xb) [xd, xa, xb] xd (fun th => th.rx xa <<< ((th.rx xb).toNat % 64)) ∧
  RegResult (.shr xd xa xb) [xd, xa, xb] xd (fun th => th.rx xa >>> ((th.rx xb).toNat % 64)) ∧
  RegResult (.sha xd xa xb) [xd, xa, xb] xd (fun th => (th.rx xa).sshiftRight ((th.rx xb).toNat % 64)) ∧
  RegResult (.leaIndexed xd xa xb) [xd, xa, xb] xd (fun th => th.rx xa + th.rx xb)) ∧
  (∀ xd xa xb : XReg,
  RegResult (.slt xd xa xb) [xd, xa, xb] xd (fun th => if (th.rx xa).toInt < (th.rx xb).toInt then 1 else 0) ∧
  RegResult (.sltn xd xa xb) [xd, xa, xb] xd (fun th => if (th.rx xa).toNat < (th.rx xb).toNat then 1 else 0) ∧
  RegResult (.min xd xa xb) [xd, xa, xb] xd (fun th => BitVec.ofInt 64 (min (th.rx xa).toInt (th.rx xb).toInt)) ∧
  RegResult (.max xd xa xb) [xd, xa, xb] xd (fun th => BitVec.ofInt 64 (max (th.rx xa).toInt (th.rx xb).toInt)) ∧
  RegResult (.minn xd xa xb) [xd, xa, xb] xd (fun th => BitVec.ofNat 64 (min (th.rx xa).toNat (th.rx xb).toNat)) ∧
  RegResult (.maxn xd xa xb) [xd, xa, xb] xd (fun th => BitVec.ofNat 64 (max (th.rx xa).toNat (th.rx xb).toNat))) ∧
  (∀ (xd xa xb : XReg) (disp : BitVec 11) (ti : TI) (off : BitVec 8),
  StruckTraps (.add xd xa xb) [xd, xa, xb] [xa, xb] ∧ StruckTraps (.beq xa xb disp) [xa, xb] [xa, xb] ∧
  StruckTraps (.ld ti xd xa off) [xd, xa] [xa])

/-- CLZ, CTZ and POPC count bits (11 R278): the place of the highest one bit from the top, the place of the lowest one bit, and the
number of one bits; 64 for the places in zero.
The immediate forms of 11 R279, and the literal of R280. SLTNI compares with the sign-extended immediate. -/
def Obligations.BitsAndImmediates : Prop :=
  ((∀ xd xa : XReg,
    RegResult (.clz xd xa) [xd, xa] xd (fun th => clzOf (th.rx xa)) ∧
    RegResult (.ctz xd xa) [xd, xa] xd (fun th => ctzOf (th.rx xa)) ∧
    RegResult (.popc xd xa) [xd, xa] xd (fun th => popcOf (th.rx xa))) ∧
  (clzOf 0 = 64 ∧ ctzOf 0 = 64) ∧
  (∀ a : Word, a ≠ 0 →
    a.toNat / 2 ^ (63 - (clzOf a).toNat) = 1 ∧ (clzOf a).toNat ≤ 63 ∧
    a.getLsbD (ctzOf a).toNat = true ∧ a.toNat % 2 ^ (ctzOf a).toNat = 0) ∧
  (∀ a : Word, (popcOf a).toNat = ∑ k ∈ Finset.range 64, a.toNat / 2 ^ k % 2)) ∧
  ((∀ (xd xa : XReg) (imm : BitVec 11),
    RegResult (.addi xd xa imm) [xd, xa] xd (fun th => th.rx xa + imm.signExtend 64) ∧
    RegResult (.andi xd xa imm) [xd, xa] xd (fun th => th.rx xa &&& imm.signExtend 64) ∧
    RegResult (.ori xd xa imm) [xd, xa] xd (fun th => th.rx xa ||| imm.signExtend 64) ∧
    RegResult (.xori xd xa imm) [xd, xa] xd (fun th => th.rx xa ^^^ imm.signExtend 64) ∧
    RegResult (.slti xd xa imm) [xd, xa] xd (fun th => if (th.rx xa).toInt < imm.toInt then 1 else 0) ∧
    RegResult (.sltni xd xa imm) [xd, xa] xd (fun th => if (th.rx xa).toNat < (imm.signExtend 64).toNat then 1 else 0) ∧
    RegResult (.lea xd xa imm) [xd, xa] xd (fun th => th.rx xa + BitVec.ofInt 64 (imm.toInt * 16))) ∧
  (∀ (xd xa : XReg) (sh : BitVec 6),
    RegResult (.shli xd xa sh) [xd, xa] xd (fun th => th.rx xa <<< sh.toNat) ∧
    RegResult (.shri xd xa sh) [xd, xa] xd (fun th => th.rx xa >>> sh.toNat) ∧
    RegResult (.shai xd xa sh) [xd, xa] xd (fun th => (th.rx xa).sshiftRight sh.toNat)) ∧
  (∀ (xd : XReg) (lit : Word), RegResult (.lit xd lit) [xd] xd (fun _ => lit)))

/-- LD, LD of two registers and LDA read the element at their address, which LDA needs aligned, and extend it into xd: to the sign for
an I type, with zeros for an N type (11 R281, R282, 04 R102). -/
def Obligations.Loads : Prop :=  (∀ (ti : TI) (xd xa : XReg) (off : BitVec 8),
    LoadResult (.ld ti xd xa off) ti false [xd, xa] xd (fun th => th.rx xa + off.signExtend 64 * BitVec.ofNat 64 ti.bytes)) ∧
  (∀ (ti : TI) (xd xa xb : XReg), LoadResult (.ldIndexed ti xd xa xb) ti false [xd, xa, xb] xd (fun th => th.rx xa + th.rx xb)) ∧
  (∀ (ti : TI) (sc : Scope) (xd xa : XReg), LoadResult (.lda ti sc xd xa) ti true [xd, xa] xd (fun th => th.rx xa))

/-- ST, ST of two registers and STL write the low bytes of xd at their address, which STL needs aligned, and no byte of memory
elsewhere (11 R281, R282, 04 R102). -/
def Obligations.Stores : Prop :=  (∀ (ti : TI) (xd xa : XReg) (off : BitVec 8),
    StoreResult (.st ti xd xa off) ti false [xd, xa] xd (fun th => th.rx xa + off.signExtend 64 * BitVec.ofNat 64 ti.bytes)) ∧
  (∀ (ti : TI) (xd xa xb : XReg), StoreResult (.stIndexed ti xd xa xb) ti false [xd, xa, xb] xd (fun th => th.rx xa + th.rx xb)) ∧
  (∀ (ti : TI) (sc : Scope) (xd xa : XReg), StoreResult (.stl ti sc xd xa) ti true [xd, xa] xd (fun th => th.rx xa))

/-- The checks of an access change no byte of memory but the A and D bits of page-table entries, which they only set (04 R102, R104):
and no register, tile store or command. A thread or a copy channel changes only where a wait monitors a sector that holds such an
entry (07 R195). -/
def Obligations.AccessFrame : Prop := ∀ (s : State) (cx : ACtx) (kind : AKind) (aligned : Bool) (va : Word) (n : Nat),
  (∀ q, ∃ m : Byte, m &&& 0x60 = m ∧ Mem.get (s.access cx kind aligned va n).1.mem q = Mem.get s.mem q ||| m) ∧
  (∀ t, let a := (s.access cx kind aligned va n).1.th t
    a.x = (s.th t).x ∧ a.v = (s.th t).v ∧ a.sys = (s.th t).sys ∧ a.pc = (s.th t).pc ∧ a.run = (s.th t).run ∧ a.cp = (s.th t).cp) ∧
  (∀ m, ((s.access cx kind aligned va n).1.mb m).tile = (s.mb m).tile ∧ ((s.access cx kind aligned va n).1.mb m).acc = (s.mb m).acc) ∧
  ((∀ d ∈ s.dies.toList, d.monitors = []) →
    (s.access cx kind aligned va n).1.threads = s.threads ∧ (s.access cx kind aligned va n).1.members = s.members) ∧
  (s.access cx kind aligned va n).1.cmds = s.cmds ∧ (s.access cx kind aligned va n).1.poison = s.poison ∧
  (s.MemInv → (s.access cx kind aligned va n).1.MemInv)

/-- The arithmetic of 11 R285 and R286: one rounding in the mode of RMODE, operands flushed under FTZ, flags ORed into FFLAGS, for every
format; FFMA adds the old xd.
An exception enabled in FTRAPEN: the instruction traps FPX, writes neither its result nor a flag, and will run again (03 R71, 11
R276, R284).
Comparisons, classes and conversions (11 R287-R289). FCMP writes 1 or 0; FCLASS raises no flag; FCVT between a floating format and
a 64-bit integer, or two formats. -/
def Obligations.FloatInstructions : Prop :=
  (∀ (f : FTy) (xd xa xb : XReg),
  let m := fun th : Thread => modeOf th.sys.rmode
  let z := fun th : Thread => ftzOf th.sys.rmode
  let x := fun (th : Thread) (r : XReg) => fload (fmtOf f) (z th) (th.rx r).toNat
  FloatResult (.fadd f xd xa xb) [xd, xa, xb] xd (fun th => addVal (fmtOf f) (m th) (z th) (x th xa) (x th xb)) ∧
  FloatResult (.fsub f xd xa xb) [xd, xa, xb] xd (fun th => addVal (fmtOf f) (m th) (z th) (x th xa) (x th xb).flip) ∧
  FloatResult (.fmul f xd xa xb) [xd, xa, xb] xd (fun th => mulVal (fmtOf f) (m th) (z th) (x th xa) (x th xb)) ∧
  FloatResult (.fdiv f xd xa xb) [xd, xa, xb] xd (fun th => divVal (fmtOf f) (m th) (z th) (x th xa) (x th xb)) ∧
  FloatResult (.fsqrt f xd xa) [xd, xa] xd (fun th => sqrtVal (fmtOf f) (m th) (z th) (x th xa)) ∧
  FloatResult (.ffma f xd xa xb) [xd, xa, xb] xd (fun th => fmaVal (fmtOf f) (m th) (z th) (x th xa) (x th xb) (x th xd)) ∧
  FloatResult (.fmin f xd xa xb) [xd, xa, xb] xd (fun th => minmax (fmtOf f) false (z th)
    ((th.rx xa).toNat % 2 ^ (fmtOf f).width) ((th.rx xb).toNat % 2 ^ (fmtOf f).width)) ∧
  FloatResult (.fmax f xd xa xb) [xd, xa, xb] xd (fun th => minmax (fmtOf f) true (z th)
    ((th.rx xa).toNat % 2 ^ (fmtOf f).width) ((th.rx xb).toNat % 2 ^ (fmtOf f).width))) ∧
  (∀ (f : FTy) (xd xa xb : XReg),
  let m := fun th : Thread => modeOf th.sys.rmode
  let z := fun th : Thread => ftzOf th.sys.rmode
  let x := fun (th : Thread) (r : XReg) => fload (fmtOf f) (z th) (th.rx r).toNat
  FloatTrap (.fadd f xd xa xb) [xd, xa, xb] (fun th => addVal (fmtOf f) (m th) (z th) (x th xa) (x th xb)) ∧
  FloatTrap (.fmul f xd xa xb) [xd, xa, xb] (fun th => mulVal (fmtOf f) (m th) (z th) (x th xa) (x th xb)) ∧
  FloatTrap (.fdiv f xd xa xb) [xd, xa, xb] (fun th => divVal (fmtOf f) (m th) (z th) (x th xa) (x th xb)) ∧
  FloatTrap (.ffma f xd xa xb) [xd, xa, xb] (fun th => fmaVal (fmtOf f) (m th) (z th) (x th xa) (x th xb) (x th xd))) ∧
  ((∀ (c : FCond) (f : FTy) (xd xa xb : XReg),
    let x := fun (th : Thread) (r : XReg) => fload (fmtOf f) (ftzOf th.sys.rmode) (th.rx r).toNat
    FloatResult (.fcmp c f xd xa xb) [xd, xa, xb] xd
      (fun th => ⟨if (fcmpVal c (x th xa) (x th xb)).1 then 1 else 0, (fcmpVal c (x th xa) (x th xb)).2⟩)) ∧
  (∀ (f : FTy) (xd xa : XReg), FloatResult (.fclass f xd xa) [xd, xa] xd
    (fun th => ⟨fclassOf (fmtOf f) ((th.rx xa).toNat % 2 ^ (fmtOf f).width), 0⟩)) ∧
  (∀ (a b : FTy) (xd xa : XReg),
    let m := fun th : Thread => modeOf th.sys.rmode
    let z := fun th : Thread => ftzOf th.sys.rmode
    let x := fun (th : Thread) => fload (fmtOf a) (z th) (th.rx xa).toNat
    FloatResult (.fcvt (.f b) (.f a) xd xa) [xd, xa] xd (fun th => cvtFloat (fmtOf b) (m th) (z th) (x th)) ∧
    FloatResult (.fcvt .i64 (.f a) xd xa) [xd, xa] xd (fun th => toInt true 64 (m th) (x th)) ∧
    FloatResult (.fcvt .n64 (.f a) xd xa) [xd, xa] xd (fun th => toInt false 64 (m th) (x th)) ∧
    FloatResult (.fcvt (.f b) .i64 xd xa) [xd, xa] xd (fun th => ofInt (fmtOf b) (m th) (z th) (th.rx xa).toInt) ∧
    FloatResult (.fcvt (.f b) .n64 xd xa) [xd, xa] xd (fun th => ofInt (fmtOf b) (m th) (z th) (th.rx xa).toNat)))

/-- The class masks of 11 R288: exactly one bit, chosen by sign, exponent and fraction, whatever FTZ says; VFCLASS uses the same
mask. -/
def Obligations.ClassMask : Prop := ∀ (f : FTy) (x : Nat), x < 2 ^ (fmtOf f).width →
  let F := fmtOf f
  let neg := decide (F.sign ≤ x)
  let e := x % F.sign / 2 ^ F.fb
  let m := x % 2 ^ F.fb
  fclassOf F x =
    (if e = 2 ^ F.eb - 1 then
      (if m = 0 then (if neg then 2 ^ 0 else 2 ^ 7) else if m < 2 ^ (F.fb - 1) then 2 ^ 8 else 2 ^ 9)
    else if e = 0 then (if m = 0 then (if neg then 2 ^ 3 else 2 ^ 4) else if neg then 2 ^ 2 else 2 ^ 5)
    else if neg then 2 ^ 1 else 2 ^ 6) ∧
  ∀ (k : VCtl) (vd va : VReg) (e : LEnv) (v : NMap), laneVfclass e v k f vd va =
    mapLane e k.mask v vd.toNat F.width fun i => ⟨fclassOf F (vget1 v e.cap.lanes F.width va.toNat i), 0⟩

/-- The six conditional branches of 11 R290.
JAL and JALR write the address of the next unit and jump; xa is read before xd is written. A JALR target that is not a multiple of
4 traps BOUNDS with the target in TRAPADDR and writes nothing (11 R291). -/
def Obligations.BranchesAndJumps : Prop :=
  (∀ (xa xb : XReg) (disp : BitVec 11),
  BranchResult (.beq xa xb disp) xa xb disp (fun a b => a = b) ∧
  BranchResult (.bne xa xb disp) xa xb disp (fun a b => a ≠ b) ∧
  BranchResult (.blt xa xb disp) xa xb disp (fun a b => a.toInt < b.toInt) ∧
  BranchResult (.bge xa xb disp) xa xb disp (fun a b => b.toInt ≤ a.toInt) ∧
  BranchResult (.bltn xa xb disp) xa xb disp (fun a b => a.toNat < b.toNat) ∧
  BranchResult (.bgen xa xb disp) xa xb disp (fun a b => b.toNat ≤ a.toNat)) ∧
  ((∀ (xd : XReg) (imm : BitVec 16) s t, s.ScalarGo t (.jal xd imm) false [xd] → (s.th t).sys.sampOn = false →
    let f := s.headOf t (.jal xd imm)
    Gives (exec (.jal xd imm) s) fun b =>
      ((s.atHead t (.jal xd imm)).modTh t fun th => th.wx xd f.next).Retired t f (f.pc + imm.signExtend 64 * 4) b ∧
      s.Sets t xd f.next b ∧ (b.th t).pc = f.pc + imm.signExtend 64 * 4) ∧
  (∀ (xd xa : XReg) (imm : BitVec 11) s t, s.ScalarGo t (.jalr xd xa imm) false [xd, xa] → (s.th t).sys.sampOn = false →
    let f := s.headOf t (.jalr xd xa imm)
    let a := (s.th t).rx xa + imm.signExtend 64
    (a.toNat % 4 = 0 → Gives (exec (.jalr xd xa imm) s) fun b =>
      ((s.atHead t (.jalr xd xa imm)).modTh t fun th => th.wx xd f.next).Retired t f a b ∧
      s.Sets t xd f.next b ∧ (b.th t).pc = a) ∧
    (a.toNat % 4 ≠ 0 → s.Idle t → Reruns (.jalr xd xa imm) s t { cause := 0x0D, sub := 0, elem := 0, addr := a })))

/-- CSRR, CSRW, CSRS and CSRC (11 R292): the old value comes into xd, and the register takes xd, the OR or the AND NOT of the two.
Accesses that the checks of 03 R67 refuse: a number the thread has not is ILLEGAL, one at 0x800 and above without STATUS.SUP is
PRIV, a write of a read-only register is ILLEGAL; the instruction changes no register. -/
def Obligations.SystemRegisters : Prop :=
  (∀ (xd : XReg) (num : BitVec 12),
  CsrResult (.csrr xd num) .read xd num ∧ CsrResult (.csrw xd num) .write xd num ∧
  CsrResult (.csrs xd num) .set xd num ∧ CsrResult (.csrc xd num) .clear xd num) ∧
  ((∀ (xd : XReg) (num : BitVec 12),
    CsrRefused (.csrr xd num) .read xd num ∧ CsrRefused (.csrw xd num) .write xd num ∧
    CsrRefused (.csrs xd num) .set xd num ∧ CsrRefused (.csrc xd num) .clear xd num) ∧
  (∀ (th : Thread) (op : CsrOp) (n : Nat),
    (csrAssigned th.kind n = false → (th.csrTrap op n).map (·.cause) = some 0x01) ∧
    (csrAssigned th.kind n = true → 0x800 ≤ n → th.sys.status.getLsbD 1 = false → (th.csrTrap op n).map (·.cause) = some 0x04) ∧
    (csrAssigned th.kind n = true → n < 0x800 → csrReadOnly n = true → op ≠ .read → (th.csrTrap op n).map (·.cause) = some 0x01) ∧
    (csrAssigned th.kind n = true → (0x800 ≤ n → th.sys.status.getLsbD 1 = true) → op = .read → th.csrTrap op n = none)))

/-- TRAP raises TRAPI, an after cause (11 R293): the record holds the cause, the PC of the TRAP and its code; the thread goes to its
handler, or stops with the PC of the next unit; no register x changes, and of memory the 0x120 bytes at CTXAREA alone, where a strand
leaves its trap block (03 R78).
ERET (11 R294): in its handler the thread clears INH and goes on at the refetch PC; the trap registers, every register x and memory
keep their contents. Outside it traps ILLEGAL. -/
def Obligations.TrapAndReturn : Prop :=
  (∀ (code : BitVec 16) s t, s.ScalarGo t (.trap code) true [] → s.Idle t →
  (s.th t).sys.sampOn = false →
  let f := s.headOf t (.trap code)
  Gives (exec (.trap code) s) fun b =>
    State.Same (((s.atHead t (.trap code)).modTh t fun th => th.issueScalar f f.next).takeTrap t
      { cause := 0x13, sub := 0, elem := code.toNat, addr := 0 } (siteAt f.pc f.seq f.next)) b ∧
    (b.th t).sys.trapcause = 0x13 ∧ (b.th t).sys.trappc = f.pc ∧ (b.th t).sys.trapelem = code.setWidth 64 ∧
    (b.th t).sys.trapaddr = 0 ∧ (b.th t).refetch = f.next ∧
    (if (s.th t).sys.trapvec ≠ 0 ∧ (s.th t).inh = false then (b.th t).inh = true ∧ (b.th t).pc = (s.th t).sys.trapvec
     else (b.th t).run = .stopped ∧ (b.th t).pc = f.next) ∧
    (∀ r, (b.th t).rx r = (s.th t).rx r) ∧
    ∀ q, let c := (s.th t).sys.ctxarea.toNat
      Mem.get b.mem q = if (s.th t).kind = .strand ∧ c ≤ q ∧ q < c + 0x120 then (b.th t).trapBytes.getD (q - c) 0
        else Mem.get s.mem q) ∧
  (∀ s t, s.ScalarGo t .eret false [] →
  ((s.th t).inh = true → (s.th t).sys.sampOn = false → Gives (exec .eret s) fun b =>
    State.Same ((s.atHead t .eret).modTh t Thread.returnFromTrap) b ∧
    (b.th t).inh = false ∧ (b.th t).pc = (s.th t).refetch ∧ (b.th t).sys.trapcause = (s.th t).sys.trapcause ∧
    (b.th t).sys.trappc = (s.th t).sys.trappc ∧ (∀ r, (b.th t).rx r = (s.th t).rx r) ∧ ∀ q, Mem.get b.mem q = Mem.get s.mem q) ∧
  ((s.th t).inh = false → s.Idle t → Reruns .eret s t (causeTrap 0x01)))

/-- NOP changes nothing but the place of the thread; SAFEPT does the same without a pending pre-emption and in a handler, and stops its
thread at the safe point otherwise (11 R296, R297, 02 R55).
DONE ends its thread once its lanes have nothing outstanding: no convoy of it is left, its registers and every other thread stay
as they are, and memory too (11 R295). In a handler it traps ILLEGAL. -/
def Obligations.NopSafePointDone : Prop :=
  ((∀ s t, s.ScalarGo t .nop false [] → (s.th t).sys.sampOn = false →
    Gives (exec .nop s) ((s.atHead t .nop).Retired t (s.headOf t .nop) (s.headOf t .nop).next)) ∧
  (∀ (map : Word) s t, s.ScalarGo t (.safept map) false [] → (s.th t).sys.sampOn = false →
    ((s.preemptPending t = false ∨ (s.th t).inh = true) → Gives (exec (.safept map) s)
      ((s.atHead t (.safept map)).Retired t (s.headOf t (.safept map)) (s.headOf t (.safept map)).next)) ∧
    (s.preemptPending t = true → (s.th t).inh = false → (s.th t).window = [] → Gives (exec (.safept map) s) fun b =>
      (b.th t).run = .safept map ∧ (∀ r, (b.th t).rx r = (s.th t).rx r) ∧ .post .safePointSave (s.th t).team 0 ∈ b.inbox ∧
      b.members = s.members ∧ ∀ q, Mem.get b.mem q = Mem.get s.mem q))) ∧
  (∀ s t, s.ScalarGo t .done true [] → s.Idle t →
  ((s.th t).inh = false → (s.th t).sys.sampOn = false → Gives (exec .done s) fun b =>
    (b.th t).run = .done ∧ (b.th t).queue = [] ∧ (∀ r, (b.th t).rx r = (s.th t).rx r) ∧
    (∀ u, u ≠ t → (b.th u).still = (s.th u).still) ∧ b.members = s.members ∧ ∀ q, Mem.get b.mem q = Mem.get s.mem q) ∧
  ((s.th t).inh = true → Reruns .done s t (causeTrap 0x01)))

/-! ### Vectors (12, 13) -/

/-- VCFG sets the element width and the register count, clears every vector register and VLEN, and writes the capacity to xd and
VCFGV; SETVL and SETVLI grant at most that many elements, in whole 24-bit groups for 4, 6 and 8-bit elements, and set VLEN and xd.
Broadcast (02 R44-R51, 10 R256): a vector instruction heads a convoy that enters the replay window with the values it captures; the
thread goes on behind it, and no register, flag or byte changes before the lanes execute it (VFGATH and VFSCAT read their owner list). A convoy that a check refuses traps and
does not leave the queue; in a handler or a supervisor core a vector instruction is ILLEGAL. A multiply-add whose unit has no prefix names
its destination as addend, and breaks the rule on destinations of 02 R44. -/
def Obligations.VectorConfiguration : Prop :=
  ((∀ (xd : XReg) (sew : Sew) (nregs : BitVec 2) s t, s.ScalarGo t (.vcfg xd sew nregs) true [xd] → s.User t →
    (s.th t).sys.sampOn = false →
    let i := Instr.vcfg xd sew nregs
    let w := match sew with | .w4 => 4 | .w6 => 6 | .w8 => 8 | .w16 => 16 | .w32 => 32 | .w64 => 64
    let mvl := mvlOf (s.th t).lanes (partBytes (s.th t).sys.laneshare) (8 * 2 ^ nregs.toNat) w
    Gives (exec i s) fun b =>
      ((s.atHead t i).modTh t fun th => th.vcfg xd sew nregs).Retired t (s.headOf t i) (s.headOf t i).next b ∧
      (b.th t).v = [] ∧ (b.th t).sys.vlen = 0 ∧ sewOf (b.th t).sys.vcfgv = w ∧ nregsOf (b.th t).sys.vcfgv = 8 * 2 ^ nregs.toNat ∧
      s.Sets t xd (BitVec.ofNat 64 mvl) b) ∧
  (∀ (xd xa : XReg) s t, s.ScalarGo t (.setvl xd xa) false [xd, xa] → (s.th t).sys.sampOn = false →
    let i := Instr.setvl xd xa
    let n := BitVec.ofNat 64 (grantVl (s.th t).sys.vcfgv ((s.th t).rx xa).toNat)
    Gives (exec i s) fun b =>
      ((s.atHead t i).modTh t fun th => th.grant xd ((s.th t).rx xa).toNat).Retired t (s.headOf t i) (s.headOf t i).next b ∧
      (b.th t).sys.vlen = n ∧ s.Sets t xd n b) ∧
  (∀ (xd : XReg) (imm : BitVec 16) s t, s.ScalarGo t (.setvli xd imm) false [xd] → (s.th t).sys.sampOn = false →
    let i := Instr.setvli xd imm
    let n := BitVec.ofNat 64 (grantVl (s.th t).sys.vcfgv imm.toNat)
    Gives (exec i s) fun b =>
      ((s.atHead t i).modTh t fun th => th.grant xd imm.toNat).Retired t (s.headOf t i) (s.headOf t i).next b ∧
      (b.th t).sys.vlen = n ∧ s.Sets t xd n b)) ∧
  ((∀ (i : Instr) (s : State) (t : Nat), isVector i = true → (∀ e ty z tr xd vq xa vb n, i ≠ .vwait e ty z tr xd vq xa vb n) →
    (s.VectorGo t i → Gives (exec i s) fun b =>
      State.Same (s.broadcasts t i) b ∧
      (((s.atHead t i).issueTraps t (s.th t).capture (s.headOf t i).units).1 = s.atHead t i →
        (b.th t).pc = (s.headOf t i).next ∧
        (∃ w, (b.th t).window = (s.th t).window ++ [w] ∧ w.seq = (s.headOf t i).seq ∧ w.units = (s.headOf t i).units ∧
          w.cap = (s.th t).capture) ∧
        (b.th t).x = (s.th t).x ∧ (b.th t).v = (s.th t).v ∧ (b.th t).sys.fflags = (s.th t).sys.fflags ∧ (b.th t).cp = (s.th t).cp ∧
        b.members = s.members ∧ b.mem = s.mem)) ∧
    (s.StrandGo t i → s.Idle t →
      ((s.th t).inh = true ∨ (s.th t).kind = .supervisor → Reruns i s t (causeTrap 0x01)) ∧
      (s.User t → ∀ tr, convoyTrap (s.th t).capture (s.headOf t i) = some tr → Reruns i s t tr))) ∧
  (∀ (C : Captured) (k : VCtl) (f : FTy) (ty : ITy) (vd va vb : VReg) (n : Nat), k.pfx = none →
    ∀ i ∈ [Instr.vmadd k ty vd va vb, .vffma k f vd va vb, .vffms k f vd va vb, .vfnma k f vd va vb],
      convoyBreaks C [{ instr := i, bytes := n }] = true))

/-- The integer arithmetic of 12 R307-R309 and the moves of 13 R340 that stay in a lane. -/
def Obligations.VectorIntegers : Prop := ∀ (k : VCtl) (t : ITy) (vd va vb : VReg),
  let sw := fun C : Captured => C.sew
  let x := fun (C : Captured) (v : NMap) (r : VReg) (e : Nat) => vget1 v C.lanes C.sew r.toNat e
  let z := fun (C : Captured) (v : NMap) (r : VReg) (e : Nat) => elInt (t == .i) C.sew (x C v r e)
  let sat := fun (C : Captured) (n : Int) => FRes.plain (wrapTo C.sew (if k.sat then clampTo (t == .i) C.sew n else n))
  let sats := fun (C : Captured) (n : Int) => FRes.plain (wrapTo C.sew (clampTo (t == .i) C.sew n))
  let wrap := fun (C : Captured) (n : Int) => FRes.plain (wrapTo C.sew n)
  Elementwise (.vadd k t vd va vb) k.mask vd sw (fun C v e => sat C (z C v va e + z C v vb e)) ∧
  Elementwise (.vsub k t vd va vb) k.mask vd sw (fun C v e => sat C (z C v va e - z C v vb e)) ∧
  Elementwise (.vmul k t vd va vb) k.mask vd sw (fun C v e => sat C (z C v va e * z C v vb e)) ∧
  Elementwise (.vmulh k t vd va vb) k.mask vd sw (fun C v e => wrap C (z C v va e * z C v vb e / (2 ^ C.sew : Nat))) ∧
  (∀ vc, k.vc = some vc →
    Elementwise (.vmadd k t vd va vb) k.mask vd sw (fun C v e => sat C (z C v va e * z C v vb e + z C v vc e))) ∧
  Elementwise (.vmin k t vd va vb) k.mask vd sw (fun C v e => wrap C (min (z C v va e) (z C v vb e))) ∧
  Elementwise (.vmax k t vd va vb) k.mask vd sw (fun C v e => wrap C (max (z C v va e) (z C v vb e))) ∧
  Elementwise (.vsadd k t vd va vb) k.mask vd sw (fun C v e => sats C (z C v va e + z C v vb e)) ∧
  Elementwise (.vssub k t vd va vb) k.mask vd sw (fun C v e => sats C (z C v va e - z C v vb e)) ∧
  Elementwise (.vavg k t vd va vb) k.mask vd sw (fun C v e => wrap C ((z C v va e + z C v vb e + 1) / 2)) ∧
  Elementwise (.vneg k t vd va) k.mask vd sw (fun C v e => wrap C (- z C v va e)) ∧
  Elementwise (.vabs k vd va) k.mask vd sw (fun C v e => wrap C (sintOf C.sew (x C v va e)).natAbs) ∧
  Elementwise (.vand k vd va vb) k.mask vd sw (fun C v e => .plain (x C v va e &&& x C v vb e)) ∧
  Elementwise (.vor k vd va vb) k.mask vd sw (fun C v e => .plain (x C v va e ||| x C v vb e)) ∧
  Elementwise (.vxor k vd va vb) k.mask vd sw (fun C v e => .plain (x C v va e ^^^ x C v vb e)) ∧
  Elementwise (.vshl k vd va vb) k.mask vd sw (fun C v e =>
    if k.sat then .plain (wrapTo C.sew (clampTo true C.sew (sintOf C.sew (x C v va e) * (2 ^ x C v vb e : Nat))))
    else .plain (x C v va e * 2 ^ x C v vb e)) ∧
  Elementwise (.vsha k vd va vb) k.mask vd sw (fun C v e => wrap C (sintOf C.sew (x C v va e) / (2 ^ x C v vb e : Nat))) ∧
  Elementwise (.vshr k vd va vb) k.mask vd sw (fun C v e => .plain (x C v va e / 2 ^ x C v vb e)) ∧
  (∀ xb xa : XReg,
    ElementwiseIf (fun _ => True) (fun C => C.mvl * C.sew / C.sew) (.vbcast k vd xb) k.mask vd sw (fun C _ _ => .plain (C.rx xb).toNat) ∧
    ElementwiseIf (fun _ => True) (fun C => C.mvl * C.sew / C.sew) (.vidx k vd) k.mask vd sw (fun _ _ e => .plain e) ∧
    Elementwise (.vins k vd xa xb) { m := false, reg := 0, mz := false, mp := false, tp := false } vd sw (fun C v e =>
      .plain (if e = (C.rx xb).toNat ∧ isActive v C.lanes k.mask e = true then (C.rx xa).toNat else x C v vd e)))

/-- The floating-point instructions of 12 R310-R312 and the functions of 09 R247-R249, with the prefix's mode or RMODE.
Comparisons, mask logic, selection and conversions (12 R313, R314, R316-R323, 09 R240, R246). -/
def Obligations.VectorFloats : Prop :=
  (∀ (k : VCtl) (f : FTy) (vd va vb : VReg),
  let F := fmtOf f
  let w := fun _ : Captured => F.width
  let m := fun C : Captured => k.rmo.mode C.rmode
  let z := fun C : Captured => ftzOf C.rmode
  let b := fun (C : Captured) (v : NMap) (r : VReg) (e : Nat) => vget1 v C.lanes F.width r.toNat e
  let x := fun (C : Captured) (v : NMap) (r : VReg) (e : Nat) => fload F (z C) (b C v r e)
  Elementwise (.vfadd k f vd va vb) k.mask vd w (fun C v e => addVal F (m C) (z C) (x C v va e) (x C v vb e)) ∧
  Elementwise (.vfsub k f vd va vb) k.mask vd w (fun C v e => addVal F (m C) (z C) (x C v va e) (x C v vb e).flip) ∧
  Elementwise (.vfmul k f vd va vb) k.mask vd w (fun C v e => mulVal F (m C) (z C) (x C v va e) (x C v vb e)) ∧
  Elementwise (.vfdiv k f vd va vb) k.mask vd w (fun C v e => divVal F (m C) (z C) (x C v va e) (x C v vb e)) ∧
  (∀ vc, k.vc = some vc →
    Elementwise (.vffma k f vd va vb) k.mask vd w (fun C v e => fmaVal F (m C) (z C) (x C v va e) (x C v vb e) (x C v vc e)) ∧
    Elementwise (.vffms k f vd va vb) k.mask vd w (fun C v e => fmaVal F (m C) (z C) (x C v va e) (x C v vb e) (x C v vc e).flip) ∧
    Elementwise (.vfnma k f vd va vb) k.mask vd w (fun C v e => fmaVal F (m C) (z C) (x C v va e).flip (x C v vb e) (x C v vc e))) ∧
  Elementwise (.vfmin k f vd va vb) k.mask vd w (fun C v e => minmax F false (z C) (b C v va e) (b C v vb e)) ∧
  Elementwise (.vfmax k f vd va vb) k.mask vd w (fun C v e => minmax F true (z C) (b C v va e) (b C v vb e)) ∧
  Elementwise (.vfsqrt k f vd va) k.mask vd w (fun C v e => sqrtVal F (m C) (z C) (x C v va e)) ∧
  Elementwise (.vfabs k f vd va) k.mask vd w (fun C v e => .plain (b C v va e % F.sign)) ∧
  Elementwise (.vfneg k f vd va) k.mask vd w (fun C v e => .plain (b C v va e ^^^ F.sign)) ∧
  Elementwise (.vfclass k f vd va) k.mask vd w (fun C v e => .plain (fclassOf F (b C v va e))) ∧
  Elementwise (.vfrcp k f vd va) k.mask vd w (fun C v e => rcpVal F (m C) (z C) (x C v va e)) ∧
  Elementwise (.vfrsq k f vd va) k.mask vd w (fun C v e => rsqVal F (m C) (z C) (x C v va e)) ∧
  Elementwise (.vfexp2 k f vd va) k.mask vd w (fun C v e =>
    if f = .f32 then exp2F32 (b C v va e) else exp2F16 F (m C) (z C) (x C v va e)) ∧
  Elementwise (.vflog2 k f vd va) k.mask vd w (fun C v e =>
    if f = .f32 then log2F32 (b C v va e) else log2F16 F (m C) (z C) (x C v va e)) ∧
  Elementwise (.vfsinpi k f vd va) k.mask vd w (fun C v e =>
    if f = .f32 then sincosF32 false (b C v va e) else sincosF16 F false (m C) (z C) (x C v va e)) ∧
  Elementwise (.vfcospi k f vd va) k.mask vd w (fun C v e =>
    if f = .f32 then sincosF32 true (b C v va e) else sincosF16 F true (m C) (z C) (x C v va e)) ∧
  Elementwise (.vscale k f vd va vb) k.mask vd w (fun C v e =>
    let n := clampTo true 15 (sintOf F.width (b C v vb e))
    (match x C v va e with
      | .fin s a p => roundFin F (m C) (z C) s a (p + n) false
      | y => roundVal F (m C) (z C) y).sat F k.sat) ∧
  (f = .f32 ∨ f = .f64 → Elementwise (.vscacc k f vd va vb) k.mask vd w (fun C v e =>
    let p := F.width - 9
    let n := sintOf p (b C v vb e)
    let K := b C v vb e / 2 ^ p
    if 509 ≤ K then invalidRes F
    else addVal F (m C) false (fdecode F (b C v va e)) (if n = 0 then .zero false else .fin (decide (n < 0)) n.natAbs ((K : Int) - 254))))) ∧
  (∀ (k : VCtl) (vd va vb : VReg),
  let sw := fun C : Captured => C.sew
  let noTail := { k.mask with tp := false, mp := false }
  let x := fun (C : Captured) (w : Nat) (v : NMap) (r : VReg) (e : Nat) => vget1 v C.lanes w r.toNat e
  let bit := fun (C : Captured) (v : NMap) (r : VReg) (e : Nat) => vget1 v C.lanes 1 r.toNat e == 1
  (∀ (c : ICond) (t : ITy), Elementwise (.vcmp k c t vd va vb) noTail vd (fun _ => 1) (fun C v e =>
    let a := elInt (t == .i) C.sew (x C C.sew v va e)
    let b := elInt (t == .i) C.sew (x C C.sew v vb e)
    .plain (bitOf (match c with | .eq => decide (a = b) | .ne => decide (a ≠ b) | .lt => decide (a < b) | .ge => decide (b ≤ a))))) ∧
  (∀ (c : FCond) (f : FTy), Elementwise (.vfcmp k c f vd va vb) noTail vd (fun _ => 1) (fun C v e =>
    let q := fcmpVal c (fload (fmtOf f) (ftzOf C.rmode) (x C (fmtOf f).width v va e))
      (fload (fmtOf f) (ftzOf C.rmode) (x C (fmtOf f).width v vb e))
    ⟨bitOf q.1, q.2⟩)) ∧
  (let c : MaskCtl := { m := false, reg := 0, mz := false, mp := false, tp := k.tp }
   let on := ElementwiseIf (fun _ => True) (fun C => if C.vl = 0 then 0 else C.mvl)
   on (.mand k vd va vb) c vd (fun _ => 1) (fun C v e => .plain (bitOf (bit C v va e && bit C v vb e))) ∧
   on (.mor k vd va vb) c vd (fun _ => 1) (fun C v e => .plain (bitOf (bit C v va e || bit C v vb e))) ∧
   on (.mxor k vd va vb) c vd (fun _ => 1) (fun C v e => .plain (bitOf (bit C v va e != bit C v vb e))) ∧
   on (.mandn k vd va vb) c vd (fun _ => 1) (fun C v e => .plain (bitOf (bit C v va e && !bit C v vb e)))) ∧
  (∀ t : ElTy, Elementwise (.vmerge k t vd va vb) { k.mask with m := false } vd sw (fun C v e =>
    .plain (if isActive v C.lanes k.mask e then x C C.sew v va e else if k.mask.mz then 0 else x C C.sew v vb e))) ∧
  (∀ dt st : ElTy,
    let conv := fun (sw dw : Nat) (C : Captured) (v : NMap) (e : Nat) =>
      convElem dt st dw sw (k.rmo.mode C.rmode) (ftzOf C.rmode) k.sat (x C sw v va e)
    ElementwiseIf (fun C => efrOn k C.rmode (efrPair C.sew dt st) = false) (fun C => C.top12 (elWidth C.sew dt))
      (.vcvt k dt st vd va) k.mask vd (fun C => elWidth C.sew dt) (fun C => conv (elWidth C.sew st) (elWidth C.sew dt) C) ∧
    Elementwise (.vwiden k dt st vd va) k.mask vd (fun C => elWidth C.sew dt)
      (fun C => conv (elWidth (C.sew / 2) st) (elWidth C.sew dt) C) ∧
    ElementwiseIf (fun C => efrOn k C.rmode (narrowEfr dt st) = false) (fun C => C.top12 (elWidth (C.sew / 2) dt))
      (.vnarrow k dt st vd va) k.mask vd (fun C => elWidth (C.sew / 2) dt)
      (fun C => conv (elWidth C.sew st) (elWidth (C.sew / 2) dt) C) ∧
    DeliversIf (fun C => efrOn k C.rmode (efrPair C.sew dt st) = true) (.vcvt k dt st vd va) (fun r => rdvEfr r k dt vd va) ∧
    DeliversIf (fun C => efrOn k C.rmode (narrowEfr dt st) = true) (.vnarrow k dt st vd va) (fun r => rdvEfr r k dt vd va) ∧
    Delivers (.vcvte k dt st vd va) (fun r => rdvEfr r k dt vd va)) ∧
  (∀ (mb : BitVec 3) (l : BlkLen) (ve : VReg), k.vc = some ve →
    DeliversIf (fun C => efrOn k C.rmode true = true) (.vpack k mb l vd va) (fun r => rdvVpack r k mb l vd va) ∧
    Elementwise (.vunpack k mb l vd va) k.mask vd (fun _ => 32) (fun C v e =>
      let E := x C C.sew v ve (e % C.lanes + e / C.lanes / blkLen l * C.lanes) % 256
      .plain (if E = 255 then (fmtOf .f32).nan
        else (roundDy (fmtOf .f32) .rne false ⟨sintOf (mb.toNat + 2) (x C C.sew v va e), (E : Int) - 127⟩ false).bits)) ∧
    ∀ s t j, s.LaneReady t (.vpack k mb l vd va) j →
      let C := (s.th t).capture
      let v := (s.th t).v
      let B := fun n => packBlock (k.rmo.mode C.rmode) (mb.toNat + 2)
        ((blockElems C.lanes (blkLen l) j n).map fun e => fdecode (fmtOf .f32) (x C 32 v va e))
      efrOn k C.rmode true = false → (∀ n, n < C.vl / (C.lanes * blkLen l) → fpx C.ftrapen (B n).2.2 = false) →
      LaneSteps (.vpack k mb l vd va) s t j fun _ a =>
        (∀ n, n < C.vl / (C.lanes * blkLen l) →
          x C C.sew (a.th t).v ve (j + n * C.lanes) = (B n).1 % 2 ^ C.sew ∧
          ∀ p, p < blkLen l → x C C.sew (a.th t).v vd (j + (n * blkLen l + p) * C.lanes) = wrapTo C.sew ((B n).2.1.getD p 0)) ∧
        (a.th t).x = (s.th t).x ∧ a.members = s.members ∧
        ∀ q, q ≠ vd.toNat * 32 + j → q ≠ ve.toNat * 32 + j → NMap.get (a.th t).v q = NMap.get v q))

/-- Vector loads and stores (12 R302, 13 R326-R330, 07 R192): the active elements of a lane in ascending order, each at its address, aligned
for VLDA and VSTL. An element that meets the thread's engine work, or a watermark, waits; one that a check refuses stops the lane. A load
puts the bytes into its element and stores nothing; a store writes the element's bytes, a packed one its own bits alone.
The ordered accesses VLDO and VSTXO (05 R118): all lanes of the strand perform them together, in the order of the elements. -/
def Obligations.VectorMemory : Prop :=
  ((∀ (k : VCtl) (sc : Scope) (off : BitVec 5) (xa xb : XReg) (vb vd : VReg),
    let unit := fun (e : LEnv) (n : Nat) =>
      let w := e.cap.sew
      e.cap.rx xa + off.signExtend 64 + BitVec.ofNat 64 (if w = 4 ∨ w = 6 then 3 * (n / (24 / w)) else n * (w / 8))
    let stride := fun (e : LEnv) (n : Nat) => e.cap.rx xa + BitVec.ofNat 64 n * e.cap.rx xb
    let index := fun (s : State) (e : LEnv) (n : Nat) =>
      e.cap.rx xa + BitVec.ofInt 64 (sintOf e.cap.sew (vget1 (s.vr e.t) e.cap.lanes e.cap.sew vb.toNat n))
    let load := fun (aligned : Bool) (addr : State → LEnv → Nat → Word) (s : State) (e : LEnv) =>
      fillLane s e k.mask e.cap.sew vd fun s n => loadElem s e e.cap.sew vd.toNat n true aligned (addr s e n)
    let store := fun (aligned : Bool) (addr : State → LEnv → Nat → Word) (s : State) (e : LEnv) =>
      match laneLoop s e k.mask fun s n => storeElem s e e.cap.sew vd.toNat n aligned (addr s e n) with
      | .stall _ => LRes.stall s
      | r => r
    LaneDoes (.vld k off xa vd) (load false fun _ => unit) ∧ LaneDoes (.vlda k sc off xa vd) (load true fun _ => unit) ∧
    LaneDoes (.vlds k xb xa vd) (load false fun _ => stride) ∧ LaneDoes (.vldx k vb xa vd) (load false index) ∧
    LaneDoes (.vst k off xa vd) (store false fun _ => unit) ∧ LaneDoes (.vstl k sc off xa vd) (store true fun _ => unit) ∧
    LaneDoes (.vsts k xb xa vd) (store false fun _ => stride) ∧ LaneDoes (.vstx k vb xa vd) (store false index) ∧
    LaneDoes (.vprf k off xa) (fun s e => laneLoop s e k.mask fun s n => prefetchElem s e (unit e n) (accessBytes e.cap.sew)) ∧
    LaneDoes (.vprfStrided k xb xa)
      (fun s e => laneLoop s e k.mask fun s n => prefetchElem s e (stride e n) (accessBytes e.cap.sew))) ∧
  (∀ (s : State) (e : LEnv) (w vd n : Nat) (wm aligned : Bool) (va : Word) (s1 : State), e.t < s.threads.length →
    s.interlocked e.t false va (accessBytes w) = false → (wm = true → s.watermarked e va (accessBytes w) = false) →
    (∀ sp, s.access (e.cx s) .read aligned va (accessBytes w) = (s1, .ok sp) → NoReg sp →
      ∃ s2, loadElem s e w vd n wm aligned va = .ok s2 0 ∧ s2.mem = s1.mem ∧ s2.members = s1.members ∧
        ∀ a c, sp = [⟨.phys a c, accessBytes w⟩] →
          vget1 (s2.vr e.t) e.cap.lanes w vd n = Mem.readNat s1.mem a (accessBytes w) / 2 ^ (w * slotOf w n) % 2 ^ w) ∧
    (∀ tr, s.access (e.cx s) .read aligned va (accessBytes w) = (s1, .error tr) →
      loadElem s e w vd n wm aligned va = .fault s1 tr)) ∧
  (∀ (s : State) (e : LEnv) (w vs n : Nat) (aligned : Bool) (va : Word) (s1 : State), e.t < s.threads.length →
    s.interlocked e.t true va (accessBytes w) = false →
    (∀ sp, s.access (e.cx s) .write aligned va (accessBytes w) = (s1, .ok sp) → NoReg sp →
      ∃ s2, storeElem s e w vs n aligned va = .ok s2 0 ∧ (s2.th e.t).x = (s.th e.t).x ∧ s2.vr e.t = s.vr e.t ∧
        (∀ q, OffSpans sp q → Mem.get s2.mem q = Mem.get s1.mem q) ∧
        ∀ a c, sp = [⟨.phys a c, accessBytes w⟩] →
          (w = 8 ∨ w = 16 ∨ w = 32 ∨ w = 64 → Mem.readNat s2.mem a (accessBytes w) = vget1 (s.vr e.t) e.cap.lanes w vs n) ∧
          (w = 4 ∨ w = 6 → Mem.readNat s2.mem a 3 =
            let old := Mem.readNat s1.mem a 3
            let p := 2 ^ (w * slotOf w n)
            old - old / p % 2 ^ w * p + vget1 (s.vr e.t) e.cap.lanes w vs n * p)) ∧
    (∀ tr, s.access (e.cx s) .write aligned va (accessBytes w) = (s1, .error tr) →
      storeElem s e w vs n aligned va = .fault s1 tr))) ∧
  (∀ (k : VCtl) (xa : XReg) (vb vd : VReg) (s : State) (t : Nat),
  let C := (s.th t).capture
  let addr := fun (b : State) (n : Nat) => C.rx xa + BitVec.ofInt 64 (sintOf C.sew (vget1 (b.vr t) C.lanes C.sew vb.toNat n))
  let go := fun (i : Instr) (f : State → LEnv → Nat → LRes) =>
    let all := fun b : State => ((List.range C.vl).filter (isActive (s.th t).v C.lanes k.mask)).foldl (fun r n => match r with
      | LRes.ok x fl => (match f x (s.laneEnv t i (n % C.lanes)) n with | .ok y g => LRes.ok y (fl ||| g) | r => r)
      | r => r) (LRes.ok b 0)
    0 < (s.th t).lanes → (∀ j, j < (s.th t).lanes → s.LaneReady t i j) →
    LaneSteps i s t 0 fun b a => ∀ s' fl, all b = .ok s' fl →
      a.mem = s'.mem ∧ a.members = s'.members ∧ (a.th t).x = (s'.th t).x ∧
      (∀ j, j < (s.th t).lanes → vget (a.th t).cp j 0 = (b.th t).cpAfter (s.headOf t i).seq) ∧
      ∀ (r : VReg) (e : Nat), e < C.vl → isActive (s.th t).v C.lanes k.mask e = true →
        vget1 (a.th t).v C.lanes C.sew r.toNat e = vget1 (s'.th t).v C.lanes C.sew r.toNat e
  go (.vldo k vb xa vd) (fun x e n => loadElem x e e.cap.sew vd.toNat n true false (addr x n)) ∧
  go (.vstxo k vb xa vd) (fun x e n => storeElem x e e.cap.sew vd.toNat n false (addr x n)))

/-- Tile instructions (13 R334-R336, 04 R100): position p of a lane's slice is at the window locations of its bytes. TLD reads, TST and
TFILL write, TROT copies to the next member of the team; an element beyond the grant on either side stops the lane with BOUNDS, a read of a poisoned
sector with POISON. A write changes its own bits alone. -/
def Obligations.TileInstructions : Prop :=  (∀ (k : VCtl) (off : BitVec 5) (xa xb : XReg) (vd : VReg) (s : State) (t j n : Nat),
    let C := (s.th t).capture
    let w := C.sew
    let els := (laneElems C.lanes C.vl j).filter (isActive (s.th t).v C.lanes k.mask)
    let e := fun i : Instr => s.laneEnv t i j
    let b0 : Int := (C.rx xa).toNat + off.toInt
    let m := (s.th t).member
    let p := n / C.lanes
    let locs := (s.mb m).tileBytes (sliceOf (e .nop)) w b0 p
    (s.LaneReady t (.tld k off xa vd) j → els = [n] → s.tileInterlocked t false locs = false →
      (∀ x, s.tileRead m (sliceOf (e .nop)) w b0 p = .ok x → LaneSteps (.tld k off xa vd) s t j fun _ a =>
        vget1 (a.th t).v C.lanes w vd.toNat n = x ∧ a.members = s.members ∧ a.mem = s.mem ∧ (a.th t).x = (s.th t).x) ∧
      (∀ tr, s.tileRead m (sliceOf (e .nop)) w b0 p = .error tr → LaneSteps (.tld k off xa vd) s t j fun _ a =>
        Tbl.find j (a.th t).laneFault = some { idx := 0, trap := { tr with elem := n } } ∧ a.members = s.members)) ∧
    (∀ (i : Instr) (x : Nat), (i, x) ∈ [(Instr.tst k off xa vd, vget1 (s.th t).v C.lanes w vd.toNat n), (.tfill k off xa xb, (C.rx xb).toNat)] →
      s.LaneReady t i j → els = [n] → s.tileInterlocked t true locs = false →
      ((s.tileWrite (e i) m (sliceOf (e i)) w b0 p x).2 = none → LaneSteps i s t j fun _ a =>
        (a.mb m).tile = ((s.tileWrite (e i) m (sliceOf (e i)) w b0 p x).1.mb m).tile ∧ a.mem = s.mem ∧
        (a.th t).v = (s.th t).v ∧ (a.th t).x = (s.th t).x ∧ ∀ m', m' ≠ m → a.mb m' = s.mb m') ∧
      (∀ tr, (s.tileWrite (e i) m (sliceOf (e i)) w b0 p x).2 = some tr → LaneSteps i s t j fun _ a =>
        Tbl.find j (a.th t).laneFault = some { idx := 0, trap := { tr with elem := n } } ∧ a.members = s.members))) ∧
  (∀ (k : VCtl) (xa xb : XReg), LaneDoes (.trot k xb xa) fun s e =>
    let m := (s.th e.t).member
    let to_ := s.nextMember e.t
    let src : Int := (e.cap.rx xa).toNat
    let dst : Int := (e.cap.rx xb).toNat
    match laneLoop s e k.mask fun s n =>
      let p := n / e.cap.lanes
      if s.tileInterlocked e.t false ((s.mb m).tileBytes (sliceOf e) e.cap.sew src p) ∨
          (to_ = m ∧ s.tileInterlocked e.t true ((s.mb m).tileBytes (sliceOf e) e.cap.sew dst p)) then LRes.stall s
      else match s.tileRead m (sliceOf e) e.cap.sew src p with
        | .error tr => .fault s tr
        | .ok x => match s.tileWrite e to_ (sliceOf e) e.cap.sew dst p x with
          | (s, some tr) => .fault s tr
          | (s, none) => .ok s 0 with
    | .stall _ => .stall s
    | r => r) ∧
  (∀ (s : State) (e : LEnv) (m slice w p x : Nat) (b0 : Int), m < s.members.length → w ∈ [4, 6, 8, 16, 32, 64] →
    let locs := (s.mb m).tileBytes slice w b0 p
    let fits := 0 ≤ tilePos w b0 p ∧ tilePos w b0 p + accessBytes w ≤ (s.mb m).sliceBytes
    let s2 := (s.tileWrite e m slice w b0 p x).1
    (¬ fits → s2 = s ∧ ((s.tileWrite e m slice w b0 p x).2.map (·.cause)) = some 0x0D) ∧
    (fits → (s.tileWrite e m slice w b0 p x).2 = none ∧
      (∀ o, o ∉ locs → Mem.get (s2.mb m).tile o = Mem.get (s.mb m).tile o) ∧
      leNat (locs.map fun o => Mem.get (s2.mb m).tile o) =
        (let old := leNat (locs.map fun o => Mem.get (s.mb m).tile o)
         let q := 2 ^ (w * slotOf w p)
         old - old / q % 2 ^ w * q + x % 2 ^ w * q) ∧
      s2.mem = s.mem ∧ ((s.mb m).tilePoison = [] → s2.tileRead m slice w b0 p = .ok (x % 2 ^ w))))

/-- Remote accesses (13 R331-R333, 07 R181-R186) and vector atomics (14 R362). The one active element of a lane goes out as a request to the
module, forme and element that its reference names; the lane has executed the convoy and does not commit it before the answer, and a
destination element is not valid. VRST_ORD, whose elements go out in ascending order, takes the next ORDSEQ of the strand; VFGATH and
VFSCAT find the target through the distribution entry and the owner words read at issue; VAMO and VAMOCAS perform their elements in
order. -/
def Obligations.RemoteAccesses : Prop :=  (∀ (k : VCtl) (xa : XReg) (vb vd : VReg) (s : State) (t j n md fo el : Nat),
    let C := (s.th t).capture
    let e := fun i : Instr => s.laneEnv t i j
    let w := C.sew
    let val := BitVec.ofNat 64 (vget1 (s.th t).v C.lanes w vd.toNat n)
    let req := fun (i : Instr) (kind : RemoteKind) (to_ : Option Nat) => ({
      tagno := 0, thr := t, dst := md, forme := fo, elem := el, width := w / 8, kind, vd := to_, idx := n, lane := j, ew := 8 * (w / 8),
      seq := (s.headOf t i).seq, retries := 0, answer := none, eseq := none } : RemoteOut)
    let sends := fun (i : Instr) (tgt : State → Target) (kind : State → State × RemoteKind) (to_ : Option VReg) =>
      s.LaneReady t i j → (laneElems C.lanes C.vl j).filter (isActive (s.th t).v C.lanes k.mask) = [n] →
      LaneSteps i s t j fun b a =>
        let b1 := match to_ with | some d => b.lanePolicy (e i) k.mask (8 * (w / 8)) d | none => b
        (tgt b1 = .ok (md, fo, el) → ∀ x2, (kind b1).1.sendRemote (req i (kind b1).2 (to_.map (·.toNat))) = (x2, none) →
          a.remotes = x2.remotes ∧ a.inbox = x2.inbox ∧ a.outbox = x2.outbox ∧ a.ordSend = x2.ordSend ∧ a.mem = x2.mem ∧
          a.members = x2.members ∧ (a.th t).x = (s.th t).x ∧ vget (a.th t).cp j 0 = (s.headOf t i).seq ∧
          ∀ d, to_ = some d → NSet.mem (d.toNat * 2 ^ 32 + n) (a.th t).invalid = true)
    let own := fun (i : Instr) (x : State) => formeTarget (e i) (x.vr t) xa vb w n
    formeTarget (e .nop) (s.th t).v xa vb w n = .ok (getField (C.rx xa) 54 10, getField (C.rx xa) 40 14,
      (getField (C.rx xa) 0 40 + vget1 (s.th t).v C.lanes w vb.toNat n) % 2 ^ 40) ∧
    sends (.vrld k vb xa vd) (own (.vrld k vb xa vd)) (fun s => (s, .load)) (some vd) ∧
    sends (.vrst k vb xa vd) (own (.vrst k vb xa vd)) (fun s => (s, .store val)) none ∧
    ((List.range C.vl).filter (isActive (s.th t).v C.lanes k.mask) = [n] → (∀ y ∈ (s.th t).window, y.ordOpen = false) →
      sends (.vrstOrd k vb xa vd) (own (.vrstOrd k vb xa vd))
        (fun s => let q := s.takeOrd t md fo; (q.1, .ordStore val q.2 t)) none) ∧
    sends (.vfgath k vb xa vd) (fun x => spanTarget (e (.vfgath k vb xa vd)) vb x n) (fun s => (s, .load)) (some vd) ∧
    sends (.vfscat k vb xa vd) (fun x => spanTarget (e (.vfscat k vb xa vd)) vb x n) (fun s => (s, .store val)) none ∧
    ∀ (d : DistEntry) (ws : List Nat) (i : Instr) (x : State), s.reads t i = some (d, ws) →
      let fi := vget1 (x.vr t) C.lanes w vb.toNat n
      let r := fi / d.rowlen
      let o := ws.getD (r / 2 ^ d.blog % d.nown) 0
      spanTarget (e i) vb x n = if d.rows ≤ r then .error { cause := 0x0D, sub := 0, elem := n, addr := 0 } else
        .ok (o / 2 ^ 22, o % 2 ^ 14, (r / 2 ^ d.blog / d.nown * 2 ^ d.blog + r % 2 ^ d.blog) * d.rowlen + fi % d.rowlen)) ∧
  (∀ (k : ECtl) (op : AmoOp) (t : ITy) (sc : Scope) (q : AmoCtl) (vd : VReg) (xa : XReg) (vb vq va : VReg),
    (q.remote = true → LaneDoes (.vamo k op t sc q vd xa vb vq) fun s e => laneVamo s e 0 k op t q vd xa vb vq) ∧
    (q.remote = false → LaneDoes (.vamo k op t sc q vd xa vb vq) fun s e => amoLane s e k.mask vd
      (fun s n => e.cap.rx xa + BitVec.ofInt 64 (sintOf e.cap.sew (vget1 (s.vr e.t) e.cap.lanes e.cap.sew vb.toNat n)))
      fun s n old => amoNew op (t == .i) e.cap.sew old (vget1 (s.vr e.t) e.cap.lanes e.cap.sew vq.toNat n)) ∧
    LaneDoes (.vamocas k t sc q vd vb va vq) fun s e => amoLane s e k.mask vd
      (fun s n => BitVec.ofNat 64 (vget1 (s.vr e.t) e.cap.lanes 64 vb.toNat n))
      fun s n old => if old = vget1 (s.vr e.t) e.cap.lanes 64 va.toNat n then vget1 (s.vr e.t) e.cap.lanes 64 vq.toNat n else old)

/-- The rendezvous (02 R51, 12 R315, 13 R337-R345): once every lane has come, all destinations are written in one delivery, from the
partials the lanes have deposited (MPOPC, MFIRST, VRED, VFRED) or from the registers they hold. Counts, slides,
permutations, reductions and scans over the active elements; a compressed destination is packed to the front.
VTOPK and VISECT (13 R345, R346): the greatest active values that are no NaN, in descending order with the earlier element first among
equals, and their indices; the common values of two ascending lists, with the positions reached. -/
def Obligations.Rendezvous : Prop :=
  (∀ (k : VCtl) (t : ITy) (xd xb : XReg) (vd va vb : VReg),
  let sw := fun C : Captured => C.sew
  let el := fun (r : RdvIn) (v : VReg) (e : Nat) => vget1 r.v r.cap.lanes r.cap.sew v.toNat e
  let act := fun r : RdvIn => (List.range r.cap.vl).filter (isActive r.v r.cap.lanes k.mask)
  let ones := fun r : RdvIn => (act r).filter fun e => vget1 r.v r.cap.lanes 1 va.toNat e == 1
  let s := fun r : RdvIn => (r.cap.rx xb).toNat
  DeliversX (.mpopc k xd va) xd (fun r => BitVec.ofNat 64 (ones r).length) (fun _ => 0) ∧
  DeliversX (.mfirst k xd va) xd (fun r => match ones r with | e :: _ => BitVec.ofNat 64 e | [] => BitVec.allOnes 64) (fun _ => 0) ∧
  DeliversX (.vextr k xd va xb) xd (fun r => if s r < r.cap.vl then BitVec.ofNat 64 (el r va (s r)) else 0) (fun _ => 0) ∧
  DeliversV (.vperm k vd va vb) k.mask vd sw (fun r e => if el r vb e < r.cap.vl then el r va (el r vb e) else 0) ∧
  DeliversV (.vslup k vd va xb) k.mask vd sw (fun r e => if s r ≤ e then el r va (e - s r) else el r vd e) ∧
  DeliversV (.vsldn k vd va xb) k.mask vd sw (fun r e => if e + s r < r.cap.vl then el r va (e + s r) else 0) ∧
  DeliversV (.vexpd k vd va) k.mask vd sw (fun r e => el r va ((act r).filter (· < e)).length) ∧
  (∀ op : RedOp, DeliversX (.vred k op t xd va) xd (fun r =>
    BitVec.ofInt 64 (elInt (t == .i) r.cap.sew (((act r).map (el r va)).foldl (redStep op t r.cap.sew) (redId op t r.cap.sew))))
    (fun _ => 0)) ∧
  (∀ (op : FRedOp) (f : FTy), Delivers (.vfred k op f xd va) (fun r => rdvVfred r k op f xd)) ∧
  (∀ op : RedOp, DeliversV (.vscan k (.int op t) vd va) k.mask vd sw (fun r e =>
    match ((act r).filter (· ≤ e)).map (el r va) with | x :: l => l.foldl (redStep op t r.cap.sew) x | [] => 0)) ∧
  (∀ (op : FRedOp) (f : FTy), Delivers (.vscan k (.flt op f) vd va) (fun r => rdvVscan r k (.flt op f) vd va)) ∧
  DeliversPacked (.vcomp k vd va) vd (fun r => (act r).map (el r va)) ∧
  (∀ ty : ElTy, DeliversPacked (.vnzidx k ty vd va) vd (fun r => (act r).filter fun e => nonzeroEl ty r.cap.sew (readEl ty (ftzOf r.cap.rmode) (el r va e))))) ∧
  ((∀ (k : ECtl) (nz : Bool) (t : ElTy) (vd vq va : VReg) (xd : XReg) (n : BitVec 32),
    Delivers (.vtopk k nz t vd vq va xd n) (fun r => rdvVtopk r k nz t vd vq va xd n) ∧
    ∀ r : RdvIn, 0 < r.cap.lanes → r.cap.lanes ≤ 32 →
      let w := r.cap.sew
      let all := ((List.range r.cap.vl).filter (isActive r.v r.cap.lanes k.mask)).map fun e =>
        (readEl t (ftzOf r.cap.rmode) (vget1 r.v r.cap.lanes w va.toNat e), e)
      let cand := all.filter fun y => !elNan t y.1 && (!nz || nonzeroEl t w y.1)
      let d := rdvVtopk r k nz t vd vq va xd n
      d.x = some (xd, BitVec.ofNat 64 (min n.toNat cand.length)) ∧
      (vd ≠ vq → ∃ l : List (Nat × Nat), l.Perm cand ∧
        (t ≠ .f .f16 → t ≠ .f .bf16 → t ≠ .f .f32 → t ≠ .f .f64 →
          l.Pairwise fun a b => elAbove t w a.1 b.1 = true ∨ (elAbove t w b.1 a.1 = false ∧ a.2 < b.2)) ∧
        (n.toNat ≤ r.cap.vl → ∀ j, j < n.toNat → j < l.length →
          some (vget1 d.v r.cap.lanes w vd.toNat j) = (l[j]?.map fun y => y.1 % 2 ^ w) ∧
          some (vget1 d.v r.cap.lanes w vq.toNat j) = (l[j]?.map fun y => y.2 % 2 ^ w)))) ∧
  (∀ (k : ECtl) (t : ITy) (vd va vb : VReg) (xs xn : XReg),
    Delivers (.visect k t vd va vb xs xn) (fun r => rdvVisect r k t vd va vb xs xn) ∧
    ∀ r : RdvIn, 0 < r.cap.lanes → r.cap.lanes ≤ 32 →
      let w := r.cap.sew
      let na := getField (r.cap.rx xn) 0 32
      let nb := getField (r.cap.rx xn) 32 32
      let a := fun e => vget1 r.v r.cap.lanes w va.toNat e
      let b := fun e => vget1 r.v r.cap.lanes w vb.toNat e
      (∀ i j, i < j → j < na → elInt (t == .i) w (a i) < elInt (t == .i) w (a j)) →
      (∀ i j, i < j → j < nb → elInt (t == .i) w (b i) < elInt (t == .i) w (b j)) →
      ∃ l : List Nat, (∀ x, x ∈ l ↔ (∃ i, i < na ∧ a i = x) ∧ ∃ j, j < nb ∧ b j = x) ∧
        (l.Pairwise fun x y => elInt (t == .i) w x < elInt (t == .i) w y) ∧
        PackedAt r vd l (rdvVisect r k t vd va vb xs xn).v ∧
        ∃ st, (rdvVisect r k t vd va vb xs xn).x = some (xs, st) ∧ getField st 0 20 = l.length % 2 ^ 20))

/-- VWAIT (14 R357): alone at the head of the queue once its lanes have committed all before it. The active elements not yet satisfied
are read; when every one is, or its time is over, vq takes the unsatisfied elements, xd their number and the reason, and the thread
goes on or traps WAITTO, which of memory writes the trap block alone; else it waits, blocked. -/
def Obligations.VectorWait : Prop :=  ∀ (k : ECtl) (ty : ITy) (zero trapTo : Bool) (xd : XReg) (vq : VReg) (xa : XReg) (vb : VReg) (n : BitVec 32) (s : State) (t : Nat),
  let i := Instr.vwait k ty zero trapTo xd vq xa vb n
  let C := (s.th t).capture
  let is := (List.range C.vl).filter (isActive (s.th t).v C.lanes k.mask)
  let f := s.headOf t i
  let now := (s.cycleOf t).toNat
  let s0 := if (s.th t).run = .blocked .vwait then s.atHead t i
    else (s.atHead t i).modTh t fun th => { th with run := .blocked .vwait, waitStart := now, vwaitMet := [], vwaitOver := false }
  let late := (s0.th t).vwaitOver = true ∨ (n ≠ 0 ∧ n.toNat ≤ now - (s0.th t).waitStart)
  s.StrandGo t i → s.User t → s.Idle t → (s.th t).sys.sampOn = false → convoyTrap C f = none →
  (∀ x ∈ [xa, xd], x ∉ (s.atHead t i).pendingRegs t) → ∀ s1 held, s0.vwaitRead t C zero xa vb is = (s1, held, []) →
  let met := (s1.th t).vwaitMet
  let left := is.filter fun e => !NSet.mem e met
  let ends := fun (b : State) (v : Word) =>
    (∀ r, (b.th t).rx r = if r = xd ∧ r ≠ 0 then v else (s1.th t).rx r) ∧
    ∀ e ∈ is, vget1 (b.th t).v C.lanes 1 vq.toNat e = bitOf (!NSet.mem e met)
  (left = [] → Gives (exec i s) fun b => ends b 0 ∧ b.mem = s1.mem ∧ (b.th t).run = .running ∧ (b.th t).pc = f.next) ∧
  (left ≠ [] → late → held = false →
    let v := BitVec.ofNat 64 (left.length + 4 * 2 ^ 32)
    (trapTo = false → Gives (exec i s) fun b => ends b v ∧ b.mem = s1.mem ∧ (b.th t).run = .running ∧ (b.th t).pc = f.next) ∧
    (trapTo = true → Gives (exec i s) fun b => ends b v ∧ (b.th t).sys.trapcause = 0x0A ∧ (b.th t).refetch = f.next ∧
      ∀ q, q < (s.th t).sys.ctxarea.toNat ∨ (s.th t).sys.ctxarea.toNat + 0x120 ≤ q → Mem.get b.mem q = Mem.get s1.mem q)) ∧
  (left ≠ [] → ¬ late ∨ held = true → Gives (exec i s) fun b =>
    (b.th t).run = .blocked .vwait ∧ (b.th t).head = f ∧ (b.th t).pc = (s1.th t).pc ∧ (b.th t).vwaitMet = met ∧
    (b.th t).x = (s1.th t).x ∧ b.mem = s1.mem)

/-! ### Synchronisation, engines and messages (14) -/

/-- Semaphores (14 R351, R352): SEMTAS and SEMTRY take a free bit, SEMTRY answers 1 or 0, SEMSET and SEMCLR write it; SEMTAS of a bit it
cannot take waits, a strand at its head and a control word in its unit.
Boxes (14 R353).
A sem bit or a box beyond the member's range traps BOUNDS before any effect (03 R65, 14 R351, R353). -/
def Obligations.SemaphoresAndBoxes : Prop :=
  ((∀ (k : BitVec 6) (xd : XReg),
    SyncEffect (.semtas k) false [] (fun s t _ => TakeSem s t k.toNat) ∧
    SyncResult (.semtry xd k) false [] xd (fun s t _ s2 v => (v = 1 ∧ TakeSem s t k.toNat s2) ∨
      (v = 0 ∧ k.toNat < (s.mbOf t).nsem ∧ s.semFree t k.toNat = false ∧ s2 = s)) ∧
    SyncEffect (.semset k) true [] (fun s t _ => WriteSem s t k.toNat true) ∧
    SyncEffect (.semclr k) true [] (fun s t _ => WriteSem s t k.toNat false) ∧
    (∀ s t, s.SyncGo t (.semtas k) false [] → s.Idle t → k.toNat < (s.mbOf t).nsem → s.semFree t k.toNat = false →
      Blocks (.semtas k) s t (.semtas k.toNat) s)) ∧
  (∀ w : CW,
    let k := w.imm.toNat % 64
    WordVal (.ccSemtas w) 0x60 w true (fun s x s2 v => v = 0 ∧ TakeSem s x.t k s2) ∧
    WordVal (.ccSemtry w) 0x61 w true (fun s x s2 v => v = 1 ∧ TakeSem s x.t k s2) ∧
    WordVal (.ccSemtry w) 0x61 w false
      (fun s x s2 v => v = 0 ∧ k < (s.mbOf x.t).nsem ∧ s.semFree x.t k = false ∧ s2 = s) ∧
    WordEff (.ccSemset w) 0x62 w (fun s x => WriteSem s x.t k true) ∧
    WordEff (.ccSemclr w) 0x63 w (fun s x => WriteSem s x.t k false) ∧
    (∀ s t, s.WordGo t 0x60 w → k < (s.mbOf t).nsem → s.semFree t k = false →
      WordPends (.ccSemtas w) 0x60 w s t s (some (.semtas k)) true)) ∧
  (∀ (s : State) (m k j : Nat) (v : Bool), m < s.members.length → k < 64 → j < 64 →
    ((s.putSem m k v).mb m).sem.getLsbD j = if j = k then v else (s.mb m).sem.getLsbD j)) ∧
  ((∀ (box : BitVec 4) (xd xa : XReg),
    SyncResult (.boxr xd box) false [] xd (fun s t _ s2 v => ReadBox s t box.toNat v ∧ s2 = s) ∧
    SyncEffect (.boxw box xa) false [xa] (fun s t _ => WriteBox s t box.toNat ((s.th t).rx xa))) ∧
  (∀ w : CW,
    WordVal (.ccBoxr w) 0x64 w false (fun s x s2 v => ReadBox s x.t (w.imm.toNat % 16) v ∧ s2 = s) ∧
    WordEff (.ccBoxw w) 0x65 w (fun s x => WriteBox s x.t (w.imm.toNat % 16) x.a)) ∧
  (∀ (s : State) (t k : Nat) (v : Word) (s2 : State), (s.th t).member < s.members.length → k < 16 → WriteBox s t k v s2 →
    ∀ j, j < 16 → vget (s2.mbOf t).box j 0 = if j = k then v else vget (s.mbOf t).box j 0)) ∧
  (∀ (k : BitVec 6) (box : BitVec 4) (xd xa : XReg) (s : State) (t : Nat), s.Idle t →
  ((s.mbOf t).nsem ≤ k.toNat →
    (s.SyncGo t (.semtas k) false [] → Reruns (.semtas k) s t (causeTrap 0x0D)) ∧
    (s.SyncGo t (.semtry xd k) false [xd] → Reruns (.semtry xd k) s t (causeTrap 0x0D)) ∧
    (s.SyncGo t (.semset k) true [] → Reruns (.semset k) s t (causeTrap 0x0D)) ∧
    (s.SyncGo t (.semclr k) true [] → Reruns (.semclr k) s t (causeTrap 0x0D))) ∧
  ((s.mbOf t).nbox ≤ box.toNat →
    (s.SyncGo t (.boxr xd box) false [xd] → Reruns (.boxr xd box) s t (causeTrap 0x0D)) ∧
    (s.SyncGo t (.boxw box xa) false [xa] → Reruns (.boxw box xa) s t (causeTrap 0x0D))))

/-- BAR at the member or the team: the last to arrive goes on and its generation advances; FENCE with nothing outstanding has no further
effect, for a core of the model performs its accesses in order (14 R354, R355, assumption log 1).
CAPSTART opens a window, CAPSTOP writes the record of an open one and closes it (14 R372, 08 R216, R217).
SAMPLE without sampling has no effect; with it, it goes on with its MARK record appended to the stream (14 R372, 08 R218-R220). -/
def Obligations.BarriersAndCapture : Prop :=
  ((∀ (sc : Scope) (kind : BitVec 5),
    SyncEffect (.bar sc) true [] (fun s t _ => LeaveBarrier s t sc) ∧
    SyncEffect (.fence sc kind) true [] (fun s t _ s2 => FenceOpen s t sc (kind.getLsbD 4) ∧ s2 = s)) ∧
  (∀ w : CW,
    WordEff (.ccBar w) 0x66 w (fun s x => LeaveBarrier s x.t (ctlScope w 0)) ∧
    WordEff (.ccFence w) 0x27 w (fun s x s2 => FenceOpen s x.t (ctlScope w 0) (w.imm.getLsbD 7) ∧ s2 = s))) ∧
  ((∀ xa : XReg,
    SyncEffect .capstart true [] (fun s t _ => CaptureOpens s t) ∧
    SyncEffect (.capstop xa) true [xa] (fun s t _ => CaptureCloses s t ((s.th t).rx xa)) ∧
    SyncEffect (.sample xa) false [xa] (fun s t _ s2 => (s.th t).sys.sampOn = false ∧ s2 = s)) ∧
  (∀ w : CW,
    WordEff (.ccCapstart w) 0x6b w (fun s x => CaptureOpens s x.t) ∧
    WordEff (.ccCapstop w) 0x6c w (fun s x => CaptureCloses s x.t x.a) ∧
    WordEff (.ccSample w) 0x6d w (fun s x s2 => (s.th x.t).sys.sampOn = false ∧ s2 = s))) ∧
  (∀ (xa : XReg) (s : State) (t : Nat), let i := Instr.sample xa
    s.SyncGo t i false [xa] → t < s.threads.length → (s.th t).sys.sampOn = true → Gives (exec i s) fun b =>
      (b.th t).pc = (s.headOf t i).next ∧ (∀ r, (b.th t).rx r = (s.th t).rx r) ∧
      ((s.th t).sys.sampAdapt = false → 1 < (s.th t).countdown → (b.th t).countdown = (s.th t).countdown - 1 ∧
        (s.atHead t i).Appends t (s.markBytes t (s.site t i) ((s.th t).rx xa)) b)) ∧
  (∀ (w : CW) (s : State) (t : Nat), let x := s.wordIn t 0x6d w
    s.WordGo t 0x6d w → t < s.threads.length → (s.th t).sys.sampOn = true → Gives (exec (.ccSample w) s) fun b =>
      (b.th t).pc = s.wordNext t ∧ (∀ r, (b.th t).will r = (s.th t).will r) ∧
      ((s.th t).sys.sampAdapt = false → 1 < (s.th t).countdown → (b.th t).countdown = (s.th t).countdown - 1 ∧
        s.Appends t (s.markBytes t x.si x.a) b))

/-- MWAIT (14 R356, 07 R196): memory that already differs from the expected value ends it at once with code 0; else it waits with a
monitor entry; it ends for the first reason it receives, with that reason's code, after a resume without one with code 3, and with 4
when its time is over, which traps WAITTO when the instruction asks for it. -/
def Obligations.MonitoredWait : Prop :=  (∀ (xd : XReg) (a : AOp) (xb : XReg) (size : BitVec 2) (trapTo : Bool) (timeout : BitVec 32) (s : State) (t : Nat),
    let i := Instr.mwait xd a xb size trapTo timeout
    let s0 := s.atHead t i
    let n := 2 ^ size.toNat
    let fresh := s0.modTh t fun th => { th with waitStart := (s.cycleOf t).toNat, wake := none }
    let waits := ∃ w, (s.th t).run = .blocked w
    let late := timeout ≠ 0 ∧ timeout.toNat ≤ (s.cycleOf t).toNat - (s.th t).waitStart
    let ends := fun (v : Word) =>
      Does i s t (((match (s.th t).run with | .blocked _ => s0 | _ => fresh).dropMonitors 0 t).modTh t fun th => th.wx xd v)
    s.SyncGo t i trapTo (xd :: (a.regs ++ [xb])) → t < s.threads.length →
    (∀ s1 p, (∀ w, (s.th t).run ≠ .blocked w) → (s.th t).resumed = false → Monitors fresh t t (a.val (s.th t)) n p s1 →
      (Mem.readNat s1.mem p n ≠ ((s.th t).rx xb).toNat % 2 ^ (8 * n) →
        Does i s t ((s1.dropMonitors 0 t).modTh t fun th => th.wx xd 0)) ∧
      (Mem.readNat s1.mem p n = ((s.th t).rx xb).toNat % 2 ^ (8 * n) → s.Idle t → Blocks i s t (.mwait (p / 64)) s1)) ∧
    (waits ∨ (s.th t).resumed = true →
      ((s.th t).wake = some .write → ends 1) ∧ ((s.th t).wake = some .evict → ends 2) ∧ ((s.th t).wake = some .resume → ends 3) ∧
      ((s.th t).wake = none → (s.th t).resumed = true → ends 3) ∧
      ((s.th t).wake = some .timeout ∨ ((s.th t).wake = none ∧ (s.th t).resumed = false ∧ late) →
        (trapTo = false → ends 4) ∧
        (trapTo = true → s.Idle t → (s.th t).sys.sampOn = false → Gives (exec i s) fun b =>
          (∀ r, (b.th t).rx r = if r = xd ∧ r ≠ 0 then 4 else (s.th t).rx r) ∧ (b.th t).sys.trapcause = 0x0A ∧
          (b.th t).refetch = (s.headOf t i).next ∧
          (if (s.th t).sys.trapvec ≠ 0 then (b.th t).inh = true ∧ (b.th t).pc = (s.th t).sys.trapvec
           else (b.th t).run = .stopped ∧ (b.th t).pc = (s.headOf t i).next) ∧
          ∀ q, q < (s.th t).sys.ctxarea.toNat ∨ (s.th t).sys.ctxarea.toNat + 0x120 ≤ q → Mem.get b.mem q = Mem.get s.mem q)))) ∧
  (∀ (w : CW) (s : State) (t : Nat) (s1 : State) (p : Nat),
    let x := s.wordIn t 0x67 w
    let n := 2 ^ (w.imm.toNat % 4)
    s.WordGo t 0x67 w → Monitors s t (tagOwner t w.talloc) x.a n p s1 →
    (Mem.readNat s1.mem p n ≠ x.b.toNat % 2 ^ (8 * n) →
      WordGives (.ccMwait w) 0x67 w s t (s1.dropMonitors 0 (tagOwner t w.talloc)) 0 0 false) ∧
    (Mem.readNat s1.mem p n = x.b.toNat % 2 ^ (8 * n) → WordPends (.ccMwait w) 0x67 w s t s1 (some (.mwait (p / 64))) false))

/-- Watermarks, token queues and launches (14 R358-R360). -/
def Obligations.WatermarksTokensLaunch : Prop :=  (∀ (sc : Scope) (a : AOp) (entry : BitVec 8) (xd xb : XReg) (region : BitVec 12),
    SyncEffect (.wmpub sc a entry) true a.regs (fun s t _ => Publishes s t sc entry.toNat (a.val (s.th t))) ∧
    SyncResult (.wmchk xd entry) false [] xd (fun s t _ s2 v => WatermarkOf s t entry.toNat v ∧ s2 = s) ∧
    SyncEffect (.tkpost a xb) true (a.regs ++ [xb]) (fun s t _ => TokenPosted s t (a.val (s.th t)) ((s.th t).rx xb)) ∧
    SyncResult (.tktake xd a) true a.regs xd (fun s t _ s2 v => (∃ w, (s.th t).run = .blocked w) ∧ TokenTaken s t t (a.val (s.th t)) s2 v) ∧
    SyncResult (.tktake xd a) true a.regs xd (fun s t _ s2 v => (∀ w, (s.th t).run ≠ .blocked w) ∧
      TokenTaken (s.modTh t fun th => { th with waitStart := (s.cycleOf t).toNat, wake := none }) t t (a.val (s.th t)) s2 v) ∧
    SyncEffect (.launch a region) true a.regs (fun s t _ => Launched s t (a.val (s.th t)) region.toNat)) ∧
  (∀ w : CW,
    WordEff (.ccWmpub w) 0x68 w (fun s x => Publishes s x.t (ctlScope w 8) (w.imm.toNat % 256) x.a) ∧
    WordEff (.ccTkpost w) 0x69 w (fun s x => TokenPosted s x.t x.a x.b) ∧
    WordVal (.ccTktake w) 0x6a w true (fun s x => TokenTaken s x.t (tagOwner x.t w.talloc) x.a) ∧
    WordEff (.ccLaunch w) 0x75 w (fun s x => Launched s x.t x.a (w.imm.toNat % 4096)))

/-- The far atomics (14 R361): the old value is the result and the element takes the operation's; AMOCAS writes even when the
comparison fails; the flags of FAMO are ORed and never trap.
The atomics with REMOTE (14 R361, 07 R183): sent with a number of engine 8, a strand's stays at the head of its queue and a control
word in its unit until the answer comes; then the old value comes into xd and the number completes. -/
def Obligations.Atomics : Prop :=
  ((∀ (sc : Scope) (q : AmoCtl) (xd : XReg) (a : AOp) (xb xq : XReg),
    let n := if q.w64 then 8 else 4
    let d := fun (s : State) (t : Nat) => ((s.th t).rx xb).toNat % 2 ^ (8 * n)
    let e := fun (s : State) (t : Nat) => ((s.th t).rx xq).toNat % 2 ^ (8 * n)
    q.remote = false →
    (∀ (op : AmoOp) (ty : ITy), SyncResult (.amo op ty sc q xd a xb) true (a.regs ++ [xb]) xd fun s t _ =>
      AtomicDone s t (ty == .i) (a.val (s.th t)) n (fun o => amoNew op (ty == .i) (8 * n) o (d s t)) fun _ => 0) ∧
    (∀ ty : ITy, SyncResult (.amocas ty sc q xd a xb xq) true (a.regs ++ [xb, xq]) xd fun s t _ =>
      AtomicDone s t (ty == .i) (a.val (s.th t)) n (fun o => if o = e s t then d s t else o) fun _ => 0) ∧
    (∀ (op : FRedOp) (f64 : Bool), SyncResult (.famo op f64 sc q xd a xb) true (a.regs ++ [xb]) xd fun s t _ =>
      let m := if f64 then 8 else 4
      let d := ((s.th t).rx xb).toNat % 2 ^ (8 * m)
      AtomicDone s t false (a.val (s.th t)) m (fun o => (famoNew op f64 o d).bits) fun o => (famoNew op f64 o d).flags)) ∧
  (∀ w : CW,
    let n := ctlBytes w
    let d := fun (x : CIn) => x.b.toNat % 2 ^ (8 * n)
    (w.imm.getLsbD 6 = false → ∀ op, decAmoOp (w.imm.toNat % 16) = some op →
      WordVal (.ccAmo w) 0x24 w (w.imm.getLsbD 4) fun s x =>
        AtomicDone s x.t (ctlSigned w) x.a n (fun o => amoNew op (ctlSigned w) (8 * n) o (d x)) fun _ => 0) ∧
    (w.imm.getLsbD 7 = false → WordVal (.ccAmocas w) 0x25 w (w.imm.getLsbD 5) fun s x =>
        AtomicDone s x.t (ctlSigned w) x.a n (fun o => if o = x.c.toNat % 2 ^ (8 * n) then d x else o) fun _ => 0) ∧
    (w.imm.getLsbD 6 = false → n = 4 ∨ n = 8 → ∀ op, decFRedOp (w.imm.toNat % 4) = some op →
      WordVal (.ccFamo w) 0x26 w (w.imm.getLsbD 4) fun s x =>
        AtomicDone s x.t false x.a n (fun o => (famoNew op (n == 8) o (d x)).bits) fun o => (famoNew op (n == 8) o (d x)).flags))) ∧
  ((∀ (sc : Scope) (q : AmoCtl) (xd : XReg) (a : AOp) (xb xq : XReg), q.remote = true →
    let n := if q.w64 then 8 else 4
    let d := fun (s : State) (t : Nat) (n : Nat) => ((s.th t).rx xb).toNat % 2 ^ (8 * n)
    (∀ (op : AmoOp) (ty : ITy), SyncResult (.amo op ty sc q xd a xb) true (a.regs ++ [xb]) xd fun s t si =>
      RemoteAnswered s t si (ty == .i) n fun _ => 0) ∧
    (∀ ty : ITy, SyncResult (.amocas ty sc q xd a xb xq) true (a.regs ++ [xb, xq]) xd fun s t si =>
      RemoteAnswered s t si (ty == .i) n fun _ => 0) ∧
    (∀ (op : FRedOp) (f64 : Bool), SyncResult (.famo op f64 sc q xd a xb) true (a.regs ++ [xb]) xd fun s t si =>
      let m := if f64 then 8 else 4
      RemoteAnswered s t si false m fun o => (famoNew op f64 o.toNat (d s t m)).flags) ∧
    (∀ (op : AmoOp) (ty : ITy) (s : State) (t : Nat),
      let i := Instr.amo op ty sc q xd a xb
      let s0 := s.atHead t i
      s.SyncGo t i true (xd :: (a.regs ++ [xb])) → s.Idle t →
      (∀ r, s0.remoteOf t (s.headOf t i).seq = some r → r.answer = none →
        Gives (exec i s) fun b => (b.th t).head = s.headOf t i ∧ (b.th t).run = .running ∧ b.remotes = s.remotes ∧
          ∀ r, (b.th t).rx r = (s.th t).rx r) ∧
      (∀ s2, RemoteSent s0 t (s.site t i) (a.val (s.th t)) n (.amo op (ty == .i) (BitVec.ofNat 64 (d s t n))) s2 →
        Gives (exec i s) fun b => (b.th t).run = .running ∧ b.remotes = s2.remotes ∧ b.inbox = s2.inbox))) ∧
  (∀ (w : CW) (s : State) (t : Nat) (s2 : State),
    let n := ctlBytes w
    (∀ op, decAmoOp (w.imm.toNat % 16) = some op → w.imm.getLsbD 6 = true → s.WordGo t 0x24 w →
      let x := s.wordIn t 0x24 w
      RemoteSent s t x.si x.a n (.amo op (ctlSigned w) (BitVec.ofNat 64 (x.b.toNat % 2 ^ (8 * n)))) s2 →
      WordPends (.ccAmo w) 0x24 w s t s2 none (w.imm.getLsbD 4)) ∧
    (w.imm.getLsbD 7 = true → s.WordGo t 0x25 w →
      let x := s.wordIn t 0x25 w
      RemoteSent s t x.si x.a n
        (.cas (BitVec.ofNat 64 (x.c.toNat % 2 ^ (8 * n))) (BitVec.ofNat 64 (x.b.toNat % 2 ^ (8 * n)))) s2 →
      WordPends (.ccAmocas w) 0x25 w s t s2 none (w.imm.getLsbD 5))))

/-- XCOPY queues one transfer and answers its identifier; XCHAIN writes the chain register of a channel that has none (14 R363, R364,
06 R156, R158).
XSTAT answers a completed identifier or DONE; XWAIT goes on once its number, identifier or leading-element count has come (14 R364,
06 R157, 08 R211).
BIN and WALK are accepted with the next number of engines 3 and 2 (14 R365, 07 R204, 16 R399, R400). -/
def Obligations.CopyBinWalk : Prop :=
  ((∀ (sc : Scope) (xd : XReg) (a : AOp) (xb : XReg) (ch : BitVec 3) (sem : BitVec 6) (semv vlcap : Bool),
    SyncResult (.xcopy sc xd a xb ch sem semv vlcap) true (a.regs ++ [xb]) xd fun s t si =>
      CopyAccepted s t si sc (a.val (s.th t)) ((s.th t).rx xb) ch.toNat (if semv then some sem.toNat else none)
        (if vlcap then some (getField (s.th t).sys.vlen 0 32) else none)) ∧
  (∀ w : CW, WordVal (.ccXcopy w) 0x70 w false fun s x =>
    CopyAccepted s x.t x.si (ctlScope w 3) x.a x.b (w.imm.toNat % 8)
      (if w.imm.getLsbD 12 then some (w.imm.toNat / 64 % 64) else none) none) ∧
  (∀ (a : AOp) (ch : BitVec 3),
    SyncEffect (.xchain a ch) true a.regs fun s t si s2 =>
      let m := (s.th t).member
      ch.toNat < (s.mb m).nchan ∧ (a.val (s.th t)).toNat % 64 = 0 ∧ (s.channel m ch.toNat).chain = 0 ∧
      ∃ s1, s1 = (s.modChan m ch.toNat fun c =>
          { c with chain := a.val (s.th t), chainPc := si.pc, chainSeq := si.seq, chainThr := t, chainNum := s.nextCmd,
                   chainPos := 0, chainParked := false }).count t 0x021 1 ∧
        s2 = if a.val (s.th t) = 0 then s1 else s1.postOnce .chainRecordRead m ch.toNat)) ∧
  ((∀ (sc : Scope) (xd : XReg) (ch : BitVec 3) (e : BitVec 4) (a : AOp) (xb : XReg),
    SyncResult (.xstat sc xd (.chan ch)) false [] xd (fun s t _ s2 v => ChannelStatus s t ch.toNat v ∧ s2 = s) ∧
    SyncResult (.xstat sc xd (.eng e)) false [] xd (fun s t _ s2 v => v = ((s.th t).engCtr e.toNat).done.setWidth 64 ∧ s2 = s) ∧
    SyncEffect (.xwait sc a (.chan ch)) false (a.regs ++ []) (fun s t _ s2 => ChannelReached s t ch.toNat (a.val (s.th t)).toNat none ∧ s2 = s) ∧
    SyncEffect (.xwait sc a (.lead ch xb)) false (a.regs ++ [xb]) (fun s t _ s2 =>
      ChannelReached s t ch.toNat (a.val (s.th t)).toNat (some ((s.th t).rx xb).toNat) ∧ s2 = s) ∧
    SyncEffect (.xwait sc a (.eng e)) false (a.regs ++ []) (fun s t _ s2 =>
      EngineReached s t e.toNat ((a.val (s.th t)).setWidth 32) ∧ s2 = s)) ∧
  (∀ w : CW,
    WordVal (.ccXstat w) 0x71 w true (fun s x s2 v => s2 = s ∧
      if w.imm.getLsbD 6 then v = ((s.th x.t).engCtr (w.imm.toNat / 128 % 16)).done.setWidth 64
      else ChannelStatus s x.t (w.imm.toNat % 8) v) ∧
    WordEff (.ccXwait w) 0x72 w (fun s x s2 => s2 = s ∧
      if w.imm.getLsbD 6 then EngineReached s x.t (w.imm.toNat / 128 % 16) (x.a.setWidth 32)
      else ChannelReached s x.t (w.imm.toNat % 8) x.a.toNat (if w.imm.getLsbD 11 then some x.b.toNat else none)))) ∧
  ((∀ (sc : Scope) (a : AOp) (xb : XReg),
    SyncEffect (.bin sc a) true a.regs (fun s t si => BinAccepted s t si sc (a.val (s.th t))) ∧
    SyncEffect (.walk sc a xb) true (a.regs ++ [xb]) (fun s t si => WalkAccepted s t si sc (a.val (s.th t)) ((s.th t).rx xb))) ∧
  (∀ w : CW,
    WordEff (.ccBin w) 0x74 w (fun s x => BinAccepted s x.t x.si (ctlScope w 3) x.a) ∧
    WordEff (.ccWalk w) 0x73 w (fun s x => WalkAccepted s x.t x.si (ctlScope w 3) x.a x.b)))

/-- The stereotype commands are accepted with the next number of engine 5; STCHK leaves its register pending; a strand's STDROP with
mode 3 is ILLEGAL (14 R366). -/
def Obligations.StereotypeCommands : Prop :=  (∀ (xd : XReg) (a : AOp) (xb xq : XReg) (mode : BitVec 2),
    (∀ s t s2, s.SyncGo t (.stchk xd a xb xq) true (xd :: (a.regs ++ [xb, xq])) →
      CheckAccepted (s.atHead t (.stchk xd a xb xq)) t (s.site t (.stchk xd a xb xq)) (a.val (s.th t)) ((s.th t).rx xb)
        ((s.th t).rx xq) (some xd) s2 → Does (.stchk xd a xb xq) s t s2) ∧
    SyncEffect (.stkeep a xb xq) true (a.regs ++ [xb, xq]) (fun s t si =>
      KeepAccepted s t si (a.val (s.th t)) ((s.th t).rx xb) ((s.th t).rx xq)) ∧
    SyncEffect (.stdrop xq mode) true [xq] (fun s t si s2 => mode ≠ 3 ∧ DropAccepted s t si ((s.th t).rx xq) mode.toNat s2) ∧
    (∀ s t, s.SyncGo t (.stdrop xq 3) true [xq] → s.Idle t → Reruns (.stdrop xq 3) s t (causeTrap 0x01))) ∧
  (∀ w : CW,
    (∀ s t s2, s.WordGo t 0x7d w →
      let x := s.wordIn t 0x7d w
      CheckAccepted s t x.si x.a x.b x.c none s2 → WordPends (.ccStchk w) 0x7d w s t s2 none false) ∧
    WordEff (.ccStkeep w) 0x7e w (fun s x => KeepAccepted s x.t x.si x.a x.b x.c) ∧
    WordEff (.ccStdrop w) 0x7f w (fun s x => DropAccepted s x.t x.si x.c (w.imm.toNat % 4)))

/-- The messaging commands (14 R368-R371): MSEND and MPOST are accepted with the next number of engine 4; MPROBE, MTEST and MCANCEL take
one, complete at once and answer. -/
def Obligations.MessageCommands : Prop :=  (∀ (xd : XReg) (a : AOp) (xb xq : XReg) (ep : Option (BitVec 14)),
    SyncEffect (.msend a xb xq ep) true (a.regs ++ [xb, xq]) (fun s t si =>
      SendAccepted s t si (a.val (s.th t)) ((s.th t).rx xb) ((s.th t).rx xq) (ep.map (·.toNat))) ∧
    SyncEffect (.mpost a) true a.regs (fun s t si => PostAccepted s t si (a.val (s.th t))) ∧
    SyncResult (.mprobe xd a) true a.regs xd (fun s t si => Probed s t si (a.val (s.th t))) ∧
    SyncResult (.mtest xd a ep) true a.regs xd (fun s t si => Tested s t si (a.val (s.th t)) (ep.map (·.toNat))) ∧
    SyncResult (.mcancel xd a ep) true a.regs xd (fun s t si => Cancelled s t si (a.val (s.th t)) (ep.map (·.toNat)))) ∧
  (∀ w : CW,
    WordEff (.ccMsend w) 0x78 w (fun s x => SendAccepted s x.t x.si x.a x.b x.c
      (if w.imm.getLsbD 14 then some (w.imm.toNat % 16384) else none)) ∧
    WordEff (.ccMpost w) 0x79 w (fun s x => PostAccepted s x.t x.si x.a) ∧
    WordVal (.ccMprobe w) 0x7a w false (fun s x => Probed s x.t x.si x.a) ∧
    WordVal (.ccMtest w) 0x7b w false (fun s x => Tested s x.t x.si x.a none) ∧
    WordVal (.ccMcancel w) 0x7c w false (fun s x => Cancelled s x.t x.si x.a none))

/-! ### The walker (16) -/

/-- The register words of 16 R403: each writes its result, clears the flag of wd, and changes nothing else; WMOV copies the flag
(16 R413).
WLD, WLDV and WBMP (16 R405): a load inside the source range extends its bytes into wd; WLDV takes the value element of its format,
and carries poison into the flag of wd; a byte outside the range halts with BOUNDS and FADDR. -/
def Obligations.WalkerRegisters : Prop :=
  (∀ (wd wa wb : WReg) (imm : BitVec 14) (sh : BitVec 6),
  WalkResult (.wli wd imm) [] wd (fun _ => imm.signExtend 64) (fun _ => false) ∧
  WalkResult (.wmov wd wa) [] wd (fun w => w.rw wa) (fun w => w.poison.getLsbD wa.toNat) ∧
  WalkResult (.wadd wd wa wb) [wa, wb] wd (fun w => w.rw wa + w.rw wb) (fun _ => false) ∧
  WalkResult (.waddi wd wa imm) [wa] wd (fun w => w.rw wa + imm.signExtend 64) (fun _ => false) ∧
  WalkResult (.wsub wd wa wb) [wa, wb] wd (fun w => w.rw wa - w.rw wb) (fun _ => false) ∧
  WalkResult (.wshl wd wa sh) [wa] wd (fun w => w.rw wa <<< sh.toNat) (fun _ => false) ∧
  WalkResult (.wshr wd wa sh) [wa] wd (fun w => w.rw wa >>> sh.toNat) (fun _ => false) ∧
  WalkResult (.wand wd wa wb) [wa, wb] wd (fun w => w.rw wa &&& w.rw wb) (fun _ => false) ∧
  WalkResult (.wor wd wa wb) [wa, wb] wd (fun w => w.rw wa ||| w.rw wb) (fun _ => false) ∧
  WalkResult (.wcmp .eq wd wa wb) [wa, wb] wd (fun w => if w.rw wa = w.rw wb then 1 else 0) (fun _ => false) ∧
  WalkResult (.wcmp .lt wd wa wb) [wa, wb] wd (fun w => if (w.rw wa).toInt < (w.rw wb).toInt then 1 else 0) (fun _ => false) ∧
  WalkResult (.wcmp .ltn wd wa wb) [wa, wb] wd (fun w => if (w.rw wa).toNat < (w.rw wb).toNat then 1 else 0) (fun _ => false) ∧
  WalkResult (.wcmp .ne wd wa wb) [wa, wb] wd (fun w => if w.rw wa ≠ w.rw wb then 1 else 0) (fun _ => false)) ∧
  (∀ wd wa wb : WReg,
  (∀ (sz : BitVec 3) (imm : BitVec 14),
    WalkLoad (.wld wd wa sz imm) [wa] wd false (fun w _ => w.rw wa + imm.signExtend 64) (fun _ _ => 2 ^ (sz.toNat % 4)) fun _ _ v =>
      if sz.getLsbD 2 then BitVec.ofInt 64 (sintOf (8 * 2 ^ (sz.toNat % 4)) v) else BitVec.ofNat 64 v) ∧
  WalkLoad (.wldv wd wa wb) [wa, wb] wd true
    (fun w b => w.rw wa + BitVec.ofNat 64 (match b.tfmt with
      | 2 => (w.rw wb).toNat | 3 => b.mw * (w.rw wb).toNat / 8 | _ => 2 * (w.rw wb).toNat))
    (fun w b => match b.tfmt with
      | 2 => 1 | 3 => (b.mw * (w.rw wb).toNat + b.mw - 1) / 8 + 1 - b.mw * (w.rw wb).toNat / 8 | _ => 2)
    (fun w b v => match b.tfmt with
      | 3 => BitVec.ofNat 64 (v / 2 ^ (b.mw * (w.rw wb).toNat % 8) % 2 ^ b.mw) | _ => BitVec.ofNat 64 v) ∧
  WalkLoad (.wbmp wd wa wb) [wa, wb] wd false (fun w _ => w.rw wa + 8 * w.rw wb) (fun _ _ => 8) fun _ _ v => BitVec.ofNat 64 v)

/-- WFFS writes the index of the lowest 1 bit of wa, or 64 for zero; WPOPC the number of 1 bits; a word of either with a nonzero wb or
imm14 decodes to no instruction (16 R404). -/
def Obligations.WalkerBitCounts : Prop := ∀ wd wa : WReg,
  WalkResult (.wffs wd wa) [wa] wd (fun w => BitVec.ofNat 64 (((List.range 64).find? fun k => (w.rw wa).getLsbD k).getD 64)) (fun _ => false) ∧
  WalkResult (.wpopc wd wa) [wa] wd (fun w => BitVec.ofNat 64 ((List.range 64).filter fun k => (w.rw wa).getLsbD k).length)
    (fun _ => false) ∧
  ∀ w : Nat, w < 2 ^ 32 →
    (decodeWalker w = .ok (.wffs wd wa) ↔ w = 0x13 + wd.toNat * 2 ^ 6 + wa.toNat * 2 ^ 10) ∧
    (decodeWalker w = .ok (.wpopc wd wa) ↔ w = 0x14 + wd.toNat * 2 ^ 6 + wa.toNat * 2 ^ 10)

/-- WEMIT (16 R406): the element of row ROW and column nat(wb) takes the low bits of wa and EPOS advances; with EXP the exponent of the
block; outside the buffer it halts with BOUNDS, and EXP without a BFP format with ILLEGAL. Every other bit of the buffer stays. -/
def Obligations.WalkerEmit : Prop := ∀ (wa wb : WReg) (s : State) (k : Nat) (c : Cmd) (b : WalkBlk), s.WalkGo k c b [wb] →
  let w := (s.clu k).walker
  let col := (w.rw wb).toNat
  let base := b.at w.buf
  let bits := match b.tfmt with | 0 => 16 | 1 => 16 | 2 => 8 | _ => b.mw
  let wide := fun (o n : Nat) => (o % 8 + n + 7) / 8
  (w.row < b.rows → col < b.cols →
    s.engHeld c true (tileVa (base + w.row * b.rb + bits * col / 8)) (wide (bits * col) bits) = false →
    ∃ s1, s.emitBits c (base + w.row * b.rb) (bits * col) bits (w.rw wa).toNat (w.poison.getLsbD wa.toNat) = .ok s1 ∧
      WalkDoes (.wemit false wa wb) s k ((s1.modWalker k fun w => { w with epos := w.epos + 1 }).leadLocks c.thr c.locks
        (w.epos + 1).toNat) (s.walkNext k)) ∧
  (b.tfmt = 3 → w.row < b.rows → col < b.cols / lenOf b.lc →
    s.engHeld c true (tileVa (base + b.rows * b.rb + w.row * (b.cols / lenOf b.lc) + col)) 1 = false →
    ∃ s1, s.emitBits c (base + b.rows * b.rb + w.row * (b.cols / lenOf b.lc) + col) 0 8 (w.rw wa).toNat
        (w.poison.getLsbD wa.toNat) = .ok s1 ∧
      WalkDoes (.wemit true wa wb) s k s1 (s.walkNext k)) ∧
  ((b.rows ≤ w.row ∨ b.cols ≤ col) → WalkHalts (.wemit false wa wb) s k s 0x0D none) ∧
  (b.tfmt ≠ 3 → WalkHalts (.wemit true wa wb) s k s 0x01 none) ∧
  (b.tfmt = 3 → (b.rows ≤ w.row ∨ b.cols / lenOf b.lc ≤ col) → WalkHalts (.wemit true wa wb) s k s 0x0D none) ∧
  (∀ (at' o n v : Nat) (p : Bool) (s1 : State), (s.th c.thr).member < s.members.length →
    s.emitBits c at' o n v p = .ok s1 → ∀ j,
      Nat.testBit (Mem.get (s1.mb (s.th c.thr).member).tile (at' + j / 8)).toNat (j % 8) =
        if o ≤ j ∧ j < o + n then Nat.testBit v (j - o)
        else Nat.testBit (Mem.get (s.mb (s.th c.thr).member).tile (at' + j / 8)).toNat (j % 8))

/-- WROW adds one to ROW and changes nothing else; with ROW = ROWS it halts with BOUNDS; a word of op 0x21 with any other field nonzero
decodes to no instruction (16 R407). -/
def Obligations.WalkerRow : Prop :=  (∀ s k c b, s.WalkGo k c b [] →
    ((s.clu k).walker.row ≠ b.rows →
      WalkDoes .wrow s k (s.modWalker k fun w => { w with row := w.row + 1 }) (s.walkNext k)) ∧
    ((s.clu k).walker.row = b.rows → WalkHalts .wrow s k s 0x0D none)) ∧
  ∀ w : Nat, w < 2 ^ 32 → w % 64 = 0x21 → ((∃ i, decodeWalker w = .ok i) ↔ w = 0x21)

/-- WFLUSH sets FULL of the buffer, counts a tile, goes to the next buffer and waits to open it; WHALT zeroes the open buffer, sets its
EMPTY bit, completes the WALK and leaves the walker idle (16 R408, R410, R411).
The walker's branches (16 R409): the target is the word's own address and four times the immediate; WLOOP counts wd down and
branches while it is not zero.
A walker word that reads a poisoned register halts with POISON and has no effect, but for WMOV and the value of WEMIT (16 R413). -/
def Obligations.WalkerFlow : Prop :=
  (∀ s k c b, s.WalkGo k c b [] →
  let w := (s.clu k).walker
  let m := (s.th c.thr).member
  (let s1 := s.putSem m (b.sembase + w.buf) true
   WalkDoes .wflush s k ((s1.modWalker k fun x => { x with tcnt := w.tcnt + 1, buf := (w.buf + 1) % b.ntile }).waitBuffer k)
     (s.walkNext k)) ∧
  (let s1 := s.modWalker k fun x => { Walker.reset with waiting := x.waiting }
   Gives (exec .whalt s) (State.Same (((s1.zeroTile m (b.tbase + w.buf * b.tstride) b.tb).putSem m
     (b.sembase + b.ntile + w.buf) true).completeCmd c)))) ∧
  (∀ (wa : WReg) (imm : BitVec 14) s k c b,
  let w := (s.clu k).walker
  let target := w.pc + imm.signExtend 64 * 4
  (s.WalkGo k c b [wa] →
    WalkDoes (.wbr wa imm) s k s (if w.rw wa ≠ 0 then target else s.walkNext k) ∧
    WalkDoes (.wloop wa imm) s k (s.ww k wa (w.rw wa - 1) false) (if w.rw wa - 1 ≠ 0 then target else s.walkNext k)) ∧
  (s.WalkGo k c b [] → WalkDoes (.wjmp imm) s k s target)) ∧
  (∀ s k c b, s.WalkGo k c b [] → ∀ (wd wa wb : WReg) (imm : BitVec 14),
  ((s.clu k).walker.poison.getLsbD wb.toNat = true →
    WalkHalts (.wadd wd wa wb) s k s 0x08 none ∧ WalkHalts (.wsub wd wa wb) s k s 0x08 none ∧
    WalkHalts (.wand wd wa wb) s k s 0x08 none ∧ WalkHalts (.wor wd wa wb) s k s 0x08 none ∧
    WalkHalts (.wldv wd wa wb) s k s 0x08 none ∧ WalkHalts (.wbmp wd wa wb) s k s 0x08 none ∧
    WalkHalts (.wemit false wa wb) s k s 0x08 none ∧ WalkHalts (.wemit true wa wb) s k s 0x08 none ∧
    WalkHalts (.waddi wd wb imm) s k s 0x08 none ∧ WalkHalts (.wffs wd wb) s k s 0x08 none ∧
    WalkHalts (.wpopc wd wb) s k s 0x08 none ∧ WalkHalts (.wbr wb imm) s k s 0x08 none ∧
    WalkHalts (.wloop wb imm) s k s 0x08 none))

/-! ### Control words and the platen (15) -/

/-- The integer words of 15 R381: the result of 11 R278 on sources A and B, and LIT its immediate. -/
def Obligations.ControlIntegers : Prop := ∀ w : CW,
  IntWord (.ccAdd w) 0x01 w (fun a b => a + b) ∧
  IntWord (.ccSub w) 0x02 w (fun a b => a - b) ∧
  IntWord (.ccMul w) 0x03 w (fun a b => a * b) ∧
  IntWord (.ccMulh w) 0x04 w (fun a b => BitVec.ofInt 64 (a.toInt * b.toInt / 2 ^ 64)) ∧
  IntWord (.ccMulhn w) 0x05 w (fun a b => BitVec.ofNat 64 (a.toNat * b.toNat / 2 ^ 64)) ∧
  IntWord (.ccDiv w) 0x06 w (fun a b => if b = 0 then BitVec.allOnes 64 else BitVec.ofInt 64 (a.toInt.tdiv b.toInt)) ∧
  IntWord (.ccDivn w) 0x07 w (fun a b => if b = 0 then BitVec.allOnes 64 else BitVec.ofNat 64 (a.toNat / b.toNat)) ∧
  IntWord (.ccRem w) 0x08 w (fun a b => if b = 0 then a else BitVec.ofInt 64 (a.toInt.tmod b.toInt)) ∧
  IntWord (.ccRemn w) 0x09 w (fun a b => if b = 0 then a else BitVec.ofNat 64 (a.toNat % b.toNat)) ∧
  IntWord (.ccAnd w) 0x0a w (fun a b => a &&& b) ∧ IntWord (.ccOr w) 0x0b w (fun a b => a ||| b) ∧
  IntWord (.ccXor w) 0x0c w (fun a b => a ^^^ b) ∧
  IntWord (.ccShl w) 0x0d w (fun a b => a <<< (b.toNat % 64)) ∧ IntWord (.ccShr w) 0x0e w (fun a b => a >>> (b.toNat % 64)) ∧
  IntWord (.ccSha w) 0x0f w (fun a b => a.sshiftRight (b.toNat % 64)) ∧
  IntWord (.ccSlt w) 0x10 w (fun a b => if a.toInt < b.toInt then 1 else 0) ∧
  IntWord (.ccSltn w) 0x11 w (fun a b => if a.toNat < b.toNat then 1 else 0) ∧
  IntWord (.ccMin w) 0x12 w (fun a b => BitVec.ofInt 64 (min a.toInt b.toInt)) ∧
  IntWord (.ccMax w) 0x13 w (fun a b => BitVec.ofInt 64 (max a.toInt b.toInt)) ∧
  IntWord (.ccMinn w) 0x14 w (fun a b => BitVec.ofNat 64 (min a.toNat b.toNat)) ∧
  IntWord (.ccMaxn w) 0x15 w (fun a b => BitVec.ofNat 64 (max a.toNat b.toNat)) ∧
  IntWord (.ccClz w) 0x16 w (fun a _ => BitVec.ofNat 64 (((List.range 64).find? fun k => a.getLsbD (63 - k)).getD 64)) ∧
  IntWord (.ccCtz w) 0x17 w (fun a _ => BitVec.ofNat 64 (((List.range 64).find? fun k => a.getLsbD k).getD 64)) ∧
  IntWord (.ccPopc w) 0x18 w (fun a _ => BitVec.ofNat 64 ((List.range 64).filter fun k => a.getLsbD k).length) ∧
  IntWord (.ccLea w) 0x19 w (fun a b => a + b) ∧
  WordResult (.ccLit w) 0x1a w (fun x => x.imm) (fun _ => 0) fun _ => True

/-- The floating-point words of 15 R381, for every format the immediate names. -/
def Obligations.ControlFloats : Prop := ∀ w : CW,
  let f := fmtOf ((decFTy (w.imm.toNat % 8)).getD .f32)
  let m := fun x : CIn => modeOf x.th.sys.rmode
  let z := fun x : CIn => ftzOf x.th.sys.rmode
  let v := fun (x : CIn) (a : Word) => fload f (z x) a.toNat
  FloatWord (.ccFadd w) 0x30 w (fun x => addVal f (m x) (z x) (v x x.a) (v x x.b)) ∧
  FloatWord (.ccFsub w) 0x31 w (fun x => addVal f (m x) (z x) (v x x.a) (v x x.b).flip) ∧
  FloatWord (.ccFmul w) 0x32 w (fun x => mulVal f (m x) (z x) (v x x.a) (v x x.b)) ∧
  FloatWord (.ccFdiv w) 0x33 w (fun x => divVal f (m x) (z x) (v x x.a) (v x x.b)) ∧
  FloatWord (.ccFsqrt w) 0x34 w (fun x => sqrtVal f (m x) (z x) (v x x.a)) ∧
  FloatWord (.ccFmin w) 0x35 w (fun x => minmax f false (z x) (x.a.toNat % 2 ^ f.width) (x.b.toNat % 2 ^ f.width)) ∧
  FloatWord (.ccFmax w) 0x36 w (fun x => minmax f true (z x) (x.a.toNat % 2 ^ f.width) (x.b.toNat % 2 ^ f.width)) ∧
  FloatWord (.ccFfma w) 0x37 w (fun x => fmaVal f (m x) (z x) (v x x.a) (v x x.b) (v x x.c)) ∧
  FloatWord (.ccFcmp w) 0x38 w (fun x =>
    let q := fcmpVal ((decFCond (w.imm.toNat / 8 % 8)).getD .eq) (v x x.a) (v x x.b)
    ⟨if q.1 then 1 else 0, q.2⟩) ∧
  FloatWord (.ccFcvt w) 0x39 w (fun x => scalarConv ((decSType (w.imm.toNat % 8)).getD .i64) ((decSType (w.imm.toNat / 64 % 8)).getD .i64)
    (m x) (z x) x.a) ∧
  FloatWord (.ccFclass w) 0x3a w (fun x => ⟨fclassOf f (x.a.toNat % 2 ^ f.width), 0⟩)

/-- LD, LDA, ST and STL as control words (15 R381, 11 R281-R283): LDA and STL need an aligned address and take no offset, and LDA holds
later words until its result comes; a failing check traps. -/
def Obligations.ControlMemory : Prop := ∀ (w : CW) (s : State) (t : Nat),
  let ti := decTI (w.c.toNat % 8)
  (∀ (i : Instr) (op : Nat) (aligned : Bool), (i, op, aligned) ∈ [(Instr.ccLd w, 0x20, false), (Instr.ccLda w, 0x22, true)] →
    let x := s.wordIn t op w
    let va := x.a + (if aligned then 0 else x.imm)
    s.WordGo t op w → s.interlocked t false va ti.bytes = false →
    (∀ s1 v, s.readElem (s.ctxOf t) 0 .read aligned va ti.bytes = (s1, .ok v) → WordGives i op w s t s1 (ti.extend v) 0 aligned) ∧
    (∀ s1 tr, s.readElem (s.ctxOf t) 0 .read aligned va ti.bytes = (s1, .error tr) → WordTraps i s t s1 tr)) ∧
  (∀ (i : Instr) (op : Nat) (aligned : Bool), (i, op, aligned) ∈ [(Instr.ccSt w, 0x21, false), (Instr.ccStl w, 0x23, true)] →
    let x := s.wordIn t op w
    let va := x.a + (if aligned then 0 else x.imm)
    s.WordGo t op w → s.interlocked t true va ti.bytes = false →
    (∀ s1 c, s.writeElem (s.ctxOf t) 0 aligned va ti.bytes x.b.toNat [] = (s1, c, none) → WordEffect i op w s t s1) ∧
    (∀ s1 c tr, s.writeElem (s.ctxOf t) 0 aligned va ti.bytes x.b.toNat [] = (s1, c, some tr) → WordTraps i s t s1 tr))

/-- Sources (15 R376, R377, 10 R265): a register, the slot a distance back in the window, or the immediate.
Results in flight (15 R374-R376): a delivery never changes what a register will hold; the youngest writer of a register stands,
whichever of two results comes first.
What holds a word at issue (15 R265, R375, R377, R378): a tag that it waits for or would take twice keeps the thread where it is;
with the checker on, an early source traps STALLSHORT and a source without a result DISTANCE. -/
def Obligations.ControlResults : Prop :=
  (∀ (th : Thread) (imm : Word) (v : BitVec 6),
  (v.toNat < 32 → th.src imm v = th.rc (v.setWidth 5)) ∧
  (32 ≤ v.toNat → v.toNat < 48 →
    let k := (th.sys.cseq.toNat + 16 - (v.toNat - 31)) % 16
    ((vget th.rwin k (0, false)).2 = true → th.src imm v = (vget th.rwin k (0, false)).1) ∧
    ((vget th.rwin k (0, false)).2 = false → th.src imm v = 0 ∧ th.srcHole v = true)) ∧
  (v.toNat = 49 → th.src imm v = imm) ∧ (v.toNat = 48 → th.src imm v = 0)) ∧
  (∀ (th : Thread) (r : BitVec 5),
  (th.settleDue.will r = th.will r) ∧
  (∀ (q : BitVec 32) (th' : Thread), th.deliverV q = some th' → th'.will r = th.will r) ∧
  (∀ i, th.inflight = [i] → i.dreg = some r → (th.giveResult i).rc r = i.value) ∧
  (∀ i j, th.inflight = [i, j] → i ≠ j → i.dreg = some r → j.dreg = some r →
    ((th.giveResult i).giveResult j).rc r = j.value ∧ (∀ i', (th.giveResult j).inflight = [i'] → ((th.giveResult j).giveResult i').rc r = j.value))) ∧
  (∀ (w : CW) (s : State) (t : Nat),
  let op := 0x01
  let th := s.th t
  let srcs := ctlSources op w
  s.mgmt.powered = true → s.cur = .thread t → s.runnable t = true → th.kind = .control → th.engFault = [] → th.inh = false →
  s.ctlFirst t = true → th.nextIssue = s.ctlNow t → s.upsets = [] →
  (∀ i ∈ th.inflight, i.due.isSome = true ∨ unitOp i.op = false) → th.breaks th.pc = false →
  (th.twaits w ≠ [] → Gives (exec (.ccAdd w) s) fun b =>
    (b.th t).pc = th.pc ∧ (b.th t).sys.cseq = th.sys.cseq ∧ ∀ r, (b.th t).will r = th.will r) ∧
  (th.twaits w = [] → w.talloc ≠ 0 → (∃ i ∈ th.inflight, i.tag = w.talloc) → Gives (exec (.ccAdd w) s) fun b =>
    (b.th t).pc = th.pc ∧ (b.th t).sys.cseq = th.sys.cseq ∧ ∀ r, (b.th t).will r = th.will r) ∧
  (th.twaits w = [] → w.talloc = 0 → getBit th.sys.sbchk 0 = true →
    (∀ v l, srcs = v :: l → th.srcEarly v = true → WordTraps (.ccAdd w) s t s (causeTrap 0x0B)) ∧
    (∀ v l, srcs = v :: l → th.srcEarly v = false → th.srcHole v = true → WordTraps (.ccAdd w) s t s (causeTrap 0x0C))))

/-- The branch and jump words (15 R381): the target is the word's own address and eight times the immediate; JAL and JALR give the
address of the next word; a JALR target that is not a multiple of 8 traps BOUNDS with the target in TRAPADDR (10 R265).
The CSR words (15 R381, 11 R292): the old value is the result, and the register takes A, or the OR or AND NOT of the two; an access
that 03 R67 refuses traps.
NOP, SAFEPT, TRAP, ERET and DONE as control words (15 R379-R381): TRAP has issued when its trap is taken; ERET outside a handler and
DONE in one trap ILLEGAL; SAFEPT with a pre-emption pending stops the thread once its results are in and its platen queue is empty. -/
def Obligations.ControlFlow : Prop :=
  (∀ w : CW,
  BranchWord (.ccBeq w) 0x40 w (fun a b => a = b) ∧ BranchWord (.ccBne w) 0x41 w (fun a b => a ≠ b) ∧
  BranchWord (.ccBlt w) 0x42 w (fun a b => a.toInt < b.toInt) ∧ BranchWord (.ccBge w) 0x43 w (fun a b => b.toInt ≤ a.toInt) ∧
  BranchWord (.ccBltn w) 0x44 w (fun a b => a.toNat < b.toNat) ∧ BranchWord (.ccBgen w) 0x45 w (fun a b => b.toNat ≤ a.toNat) ∧
  (∀ s t, s.WordGo t 0x46 w → (s.th t).sys.sampOn = false →
    WordDoes (.ccJal w) 0x46 w s t s ((s.th t).pc + w.imm.signExtend 64 * 8)
      (some (s.resultOf t 0x46 w ((s.th t).pc + 8) 0 false)) 3) ∧
  (∀ s t, s.WordGo t 0x47 w → (s.th t).sys.sampOn = false →
    let a := (s.wordIn t 0x47 w).a + w.imm.signExtend 64 * 8
    (a.toNat % 8 = 0 → WordDoes (.ccJalr w) 0x47 w s t s a (some (s.resultOf t 0x47 w ((s.th t).pc + 8) 0 false)) 3) ∧
    (a.toNat % 8 ≠ 0 → WordTraps (.ccJalr w) s t s { cause := 0x0D, sub := 0, elem := 0, addr := a }))) ∧
  (∀ (w : CW) (s : State) (t : Nat) (i : Instr) (op : Nat) (c : CsrOp),
  (i, op, c) ∈ [(Instr.ccCsrr w, 0x50, CsrOp.read), (Instr.ccCsrw w, 0x51, .write), (Instr.ccCsrs w, 0x52, .set), (Instr.ccCsrc w, 0x53, .clear)] →
  s.WordGo t op w →
  let n := w.imm.toNat % 4096
  let old := s.csrGet t n
  let new := c.new old (s.wordIn t op w).a
  (c = .write → new = (s.wordIn t op w).a) ∧ (c = .set → new = old ||| (s.wordIn t op w).a) ∧
  (c = .clear → new = old &&& ~~~(s.wordIn t op w).a) ∧
  (∀ tr, (s.th t).csrTrap c n = some tr → WordTraps i s t s tr) ∧
  ((s.th t).csrTrap c n = none →
    (c = .read → WordGives i op w s t s old 0 false) ∧
    (c ≠ .read → ∀ s1, s.csrWrite t n new = (s1, none) → WordGives i op w s t s1 old 0 false))) ∧
  (∀ (w : CW) (s : State) (t : Nat), (s.th t).sys.sampOn = false →
  (s.WordGo t 0x57 w → WordEffect (.ccNop w) 0x57 w s t s) ∧
  (s.WordGo t 0x58 w →
    (s.preemptPending t = false ∨ (s.th t).inh = true → WordEffect (.ccSafept w) 0x58 w s t s) ∧
    (s.preemptPending t = true → (s.th t).inh = false → (s.th t).platen = [] → (∀ i ∈ (s.th t).inflight, i.blocks ≠ none) →
      Gives (exec (.ccSafept w) s) fun b =>
        (b.th t).run = .safept ((s.th t).pc + w.imm.signExtend 64 * 8) ∧ .post .safePointSave (s.th t).team 0 ∈ b.inbox ∧
        b.mem = s.mem ∧ b.members = s.members)) ∧
  (s.WordGo t 0x54 w → Gives (exec (.ccTrap w) s) fun b =>
    (b.th t).sys.trapcause = 0x13 ∧ (b.th t).sys.trappc = (s.th t).pc ∧
    (b.th t).sys.trapelem = BitVec.ofNat 64 (w.imm.toNat % 65536) ∧ (b.th t).refetch = s.wordNext t ∧
    (if (s.th t).sys.trapvec ≠ 0 ∧ (s.th t).inh = false then (b.th t).inh = true ∧ (b.th t).pc = (s.th t).sys.trapvec
     else (b.th t).run = .stopped ∧ (b.th t).pc = s.wordNext t) ∧
    (∀ r, (b.th t).will r = (s.th t).will r) ∧ b.mem = s.mem ∧ b.members = s.members) ∧
  (s.WordGo t 0x55 w →
    ((s.th t).inh = true → Gives (exec (.ccEret w) s) fun b =>
      (b.th t).inh = false ∧ (b.th t).pc = (s.th t).refetch ∧ (b.th t).sys.trapcause = (s.th t).sys.trapcause ∧
      (b.th t).sys.trappc = (s.th t).sys.trappc ∧ (∀ r, (b.th t).will r = (s.th t).will r) ∧ b.mem = s.mem ∧ b.members = s.members) ∧
    ((s.th t).inh = false → WordTraps (.ccEret w) s t s (causeTrap 0x01))) ∧
  (s.WordGo t 0x56 w →
    ((s.th t).inh = false → Gives (exec (.ccDone w) s) fun b =>
      (b.th t).run = .done ∧ (∀ r, (b.th t).will r = (s.th t).will r) ∧ b.mem = s.mem ∧ b.members = s.members) ∧
    ((s.th t).inh = true → WordTraps (.ccDone w) s t s (causeTrap 0x01))))

/-- ACCZERO (15 R391): its word decodes with A, B and C equal to 48 alone; when its operation completes every element of tile t, the number
in bits 3:0 of IMM17, is zero and none of its rows is poisoned; the other tiles and all memory keep their contents. -/
def Obligations.AccumulatorZero : Prop :=  (∀ (n : Nat) (w : CW), n < 2 ^ 64 → decodeControl n = .ok (.acczero w) → w.a = 48 ∧ w.b = 48 ∧ w.c = 48) ∧
  (∀ s t p, s.PlatenRuns t p → p.op = 0x87 → Gives (exec (.platenOpComplete t) s) fun b =>
    (∀ k, k < 16384 → b.accEl (s.th t).member (p.cw.imm.toNat % 16) k = 0) ∧
    (∀ r, r < 128 → (b.mb (s.th t).member).rowPoisoned (p.cw.imm.toNat % 16) r = false) ∧
    (∀ n k, n < 16 → n ≠ p.cw.imm.toNat % 16 → k < 16384 → b.accEl (s.th t).member n k = s.accEl (s.th t).member n k) ∧
    (b.mb (s.th t).member).tile = (s.mb (s.th t).member).tile ∧ b.mem = s.mem ∧ (b.th t).x = (s.th t).x ∧
    (b.th t).platen = (s.th t).platen.drop 1)

/-- The platen words (15 R382-R398): each operation, once its checks pass, joins the queue with its number and entries; SEQWAIT on an
engine or a word of memory issues once the value has come, and watches the word's sector until then.
Completed platen operations (15 R385-R391): a multiply and SCACC leave the tile that the products give and OR their flags; ACCLD and ACCST
move element k of the tile from and to row k / 128 at its pitch; SEQW stores its value. The head leaves the queue and its number
completes. -/
def Obligations.PlatenOperations : Prop :=
  (∀ w : CW,
  PlatenWord (.mma w) 0x80 w ∧ PlatenWord (.mmaz w) 0x81 w ∧ PlatenWord (.mmag w) 0x82 w ∧ PlatenWord (.scacc w) 0x83 w ∧
  PlatenWord (.accld w) 0x84 w ∧ PlatenWord (.accst w) 0x85 w ∧ PlatenWord (.acccvt w) 0x86 w ∧
  PlatenWord (.acczero w) 0x87 w ∧ PlatenWord (.hgemv w) 0x88 w ∧ PlatenWord (.hprep w) 0x89 w ∧ PlatenWord (.seqw w) 0x8a w ∧
  (∀ s t, s.WordGo t 0x8b w → w.imm.getLsbD 3 = true →
    (seqLe ((s.wordIn t 0x8b w).b.setWidth 32) ((s.th t).engCtr (w.imm.toNat / 16 % 16)).done = true →
      WordEffect (.seqwait w) 0x8b w s t s) ∧
    (seqLe ((s.wordIn t 0x8b w).b.setWidth 32) ((s.th t).engCtr (w.imm.toNat / 16 % 16)).done = false →
      Gives (exec (.seqwait w) s) fun b => (b.th t).pc = (s.th t).pc ∧ (b.th t).run = .blocked .seqwait ∧ b.mem = s.mem ∧
        ∀ r, (b.th t).will r = (s.th t).will r)) ∧
  (∀ s t s1 a c, s.WordGo t 0x8b w → w.imm.getLsbD 3 = false → s.interlocked t false (s.wordIn t 0x8b w).a 8 = false →
    s.access (s.ctxOf t) .monitored true (s.wordIn t 0x8b w).a 8 = (s1, .ok [⟨.phys a c, 8⟩]) →
    ((s.wordIn t 0x8b w).b.toNat ≤ Mem.readNat s1.mem a 8 →
      WordEffect (.seqwait w) 0x8b w s t ((s1.recall (s1.ridOf t) a).dropMonitors 0 t)) ∧
    (Mem.readNat s1.mem a 8 < (s.wordIn t 0x8b w).b.toNat → Gives (exec (.seqwait w) s) fun b =>
      (b.th t).pc = (s.th t).pc ∧ (b.th t).run = .blocked .seqwait ∧ b.mem = s1.mem ∧ ∀ r, (b.th t).will r = (s.th t).will r))) ∧
  (∀ s t p, s.PlatenRuns t p →
  let m := (s.th t).member
  let tile := p.cw.imm.toNat % 16
  let running := p.flags = 0
  ((p.op = 0x80 ∨ p.op = 0x81 ∨ p.op = 0x82) → running → Gives (exec (.platenOpComplete t) s) fun b =>
    let q := (s.mb m).multiply p
    (∀ n k, b.accEl m n k = NMap.get q.1.acc (n * 16384 + k)) ∧ (b.mb m).tile = (s.mb m).tile ∧ b.mem = s.mem ∧
    (b.th t).sys.fflags = (s.th t).sys.fflags ||| q.2.1.setWidth 64 ∧ (b.th t).platen = (s.th t).platen.drop 1) ∧
  (p.op = 0x83 → running → Gives (exec (.platenOpComplete t) s) fun b =>
    let q := (s.mb m).scacc p
    (∀ n k, b.accEl m n k = NMap.get q.1.acc (n * 16384 + k)) ∧ (b.mb m).tile = (s.mb m).tile ∧ b.mem = s.mem ∧
    (b.th t).sys.fflags = (s.th t).sys.fflags ||| q.2.setWidth 64 ∧ (b.th t).platen = (s.th t).platen.drop 1) ∧
  (∀ s1 k va, k < 16384 → p.op = 0x84 →
    exactAddr ((p.a.toNat : Int) + (k / 128 : Nat) * p.b.toInt + (4 * (k % 128) : Nat)) = .ok va →
    s.heldBefore t p.id false va 4 = false → ∀ a c, s.access (s.ctxOf t) .carried false va 4 = (s1, .ok [⟨.phys a c, 4⟩]) →
    (State.accldElem t p s k).2 = .run ∧ (State.accldElem t p s k).1.accEl m tile k = Mem.readNat s1.mem a 4 ∧
    (State.accldElem t p s k).1.mem = s1.mem) ∧
  (∀ s1 k va, k < 16384 → p.op = 0x85 →
    exactAddr ((p.a.toNat : Int) + (k / 128 : Nat) * p.b.toInt + (4 * (k % 128) : Nat)) = .ok va →
    s.heldBefore t p.id true va 4 = false → ∀ a c, s.access (s.ctxOf t) .write false va 4 = (s1, .ok [⟨.phys a c, 4⟩]) →
    (State.accstElem t p s k).2 = .run ∧ Mem.readNat (State.accstElem t p s k).1.mem a 4 = s.accEl m tile k % 2 ^ 32 ∧
    ∀ q, q < a ∨ a + 4 ≤ q → Mem.get (State.accstElem t p s k).1.mem q = Mem.get s1.mem q) ∧
  (∀ (op : Nat) (f : State → Nat → State × EStat), (op, f) ∈ [(0x84, State.accldElem t p), (0x85, State.accstElem t p)] → p.op = op →
    exec (.platenOpComplete t) s = .next ((s.platenOn t).platenLoop t p f 16384 1)) ∧
  (p.op = 0x86 → exec (.platenOpComplete t) s = .next (if p.cw.imm.toNat / 16 % 8 = 3 then
    (s.platenOn t).platenLoop t p (State.cvtBlock t p) (16384 / (32 * 2 ^ (p.cw.imm.toNat / 4096 % 4)))
      (32 * 2 ^ (p.cw.imm.toNat / 4096 % 4))
    else (s.platenOn t).platenLoop t p (State.cvtElem t p) 16384 1)) ∧
  (∀ h, p.hdr = some h →
    (p.op = 0x88 → exec (.platenOpComplete t) s = .next ((s.platenOn t).platenLoop t p (State.gemvRow t p h) h.rows 1)) ∧
    (p.op = 0x89 → exec (.platenOpComplete t) s = .next ((s.platenOn t).platenLoop t p (State.prepRow t p h) h.rows 1))) ∧
  (let s0 := s.platenOn t
   p.op = 0x8a → s0.heldBefore t p.id true p.a 8 = false → ∀ s1 a c,
    s0.access (s0.ctxOf t) .write true p.a 8 = (s1, .ok [⟨.phys a c, 8⟩]) →
    Gives (exec (.platenOpComplete t) s) fun b => (b.th t).platen = (s.th t).platen.drop 1 ∧
      Mem.readNat b.mem a 8 = p.b.toNat ∧ ∀ q, q < a ∨ a + 8 ≤ q → Mem.get b.mem q = Mem.get s1.mem q))

/-! ### Events of the clusters (02-08, 15, 16) -/

/-- Fetch (06 R146): a convoy joins the queue with the next number, the unit at the place where fetch goes on when it stands alone, or the
mark of its fault. The arbiter (06 R148): the one strand that is ready, with credit, broadcasts its head convoy; the others wait.
A lane (02 R46): it executes the convoy at its commit pointer and commits it, or keeps its fault; a VADD writes its sums.
A slot (02 R51): FULL, it writes its result and becomes EMPTY. A record (02 R49, 03 R78): of the oldest convoy in which lanes have
stopped, with the earliest fault of it and the trap block.
An engine's fault (03 R77) stops its command and waits for its thread; at the boundary it is recorded, for an ended thread at once.
A resume (01 R24, 02 R50) by a supervisor core of the die starts every stopped thread of the member again. -/
def Obligations.ClusterEvents : Prop :=
  ((∀ t, let can := fun (s : State) => s.runnable t = true ∧ (s.th t).kind ≠ .control ∧ s.canFetch t = true
    let joins := fun (s b : State) (us : List CUnit) (fault : Option Trap) =>
      (b.th t).queue = (s.th t).queue ++ [⟨(s.th t).fetchPc, (s.th t).sys.cseq.setWidth 32, us, fault⟩]
    Happens (.convoyFetch t) can (fun s b => b = s.fetch t ∧ (∃ us fault, joins s b us fault) ∧ (b.th t).pc = (s.th t).pc ∧
      (b.th t).x = (s.th t).x ∧ (b.th t).sys.cseq =
        if (s.th t).inh then (s.th t).sys.cseq else ((s.th t).sys.cseq.setWidth 32 + 1).setWidth 64) ∧
    (∀ s1 i ws, Happens (.convoyFetch t) (fun s => can s ∧ s.fetchUnit t (s.th t).fetchPc = (s1, .ok (i, ws)) ∧ unitC ws = false)
      (fun s b => joins s b [⟨i, 4 * ws.length⟩] none ∧ b.mem = s1.mem)) ∧
    (∀ s1 tr, Happens (.convoyFetch t) (fun s => can s ∧ s.fetchUnit t (s.th t).fetchPc = (s1, .error tr))
      (fun s b => joins s b [] (some tr) ∧ b.mem = s1.mem)) ∧
    CannotHappen (.convoyFetch t) (fun s => s.runnable t = false ∨ (s.th t).kind = .control ∨ s.canFetch t = false)) ∧
  (∀ d c t, let all := fun (s : State) => s.strandsOn (cluKey d c)
    Happens (.broadcast d c) (fun s => ∃ u ∈ all s, s.ready (all s) u = true) (fun s b => b = s.arbitrate (cluKey d c)) ∧
    CannotHappen (.broadcast d c) (fun s => ∀ u ∈ all s, s.ready (all s) u = false) ∧
    Happens (.broadcast d c) (fun s => t ∈ all s ∧ s.ready (all s) t = true ∧ (∀ u ∈ all s, u ≠ t → s.ready (all s) u = false) ∧
        0 < (s.th t).credit ∧ (s.th t).engFault = [] ∧ (s.th t).breaks (s.th t).head.pc = false ∧ (s.th t).stepReq = false ∧
        convoyTrap (s.th t).capture (s.th t).head = none ∧
        (∃ q, (s.issueTraps t (s.th t).capture (s.th t).head.units).2 = .ok q) ∧
        (s.th t).engBreak (s.th t).head.pc 8 0 ((s.th t).nextEseq 8) = false)
      (fun s b => (b.th t).queue = (s.th t).queue.drop 1 ∧ (b.th t).pc = (s.th t).head.next ∧
        (∃ w, (b.th t).window = (s.th t).window ++ [w] ∧ w.seq = (s.th t).head.seq ∧ w.pc = (s.th t).head.pc ∧
          w.units = (s.th t).head.units ∧ w.cap = (s.th t).capture) ∧
        (b.th t).credit = (s.th t).credit - 1 ∧ (b.th t).waitCnt = 0 ∧ (b.th t).x = (s.th t).x ∧ (b.th t).v = (s.th t).v ∧
        (b.th t).cp = (s.th t).cp ∧ b.mem = (s.issueTraps t (s.th t).capture (s.th t).head.units).1.mem ∧
        ∀ u ∈ all s, u ≠ t → (b.th u).queue = (s.th u).queue ∧ (b.th u).window = (s.th u).window ∧
          (b.th u).waitCnt = if s.hasWork u then min ((s.th u).waitCnt + 1) 63 else 0)) ∧
  (∀ t j, Happens (.laneCommit t j) (fun s => s.runnable t = true ∧ (s.th t).inh = false ∧ j < (s.th t).lanes ∧
      Tbl.find j (s.th t).laneFault = none ∧ (s.th t).window.any (fun w => w.seq == vget (s.th t).cp j 0) = true)
    (fun s b => b = s.laneStep t j)) ∧
  (∀ t j w i inf,
    (∀ s1 fl, let s2 := s1.modWin t w.seq fun y => { y with ran := NMap.set y.ran j (fl.toNat + 1) }
      Happens (.laneCommit t j) (fun s => s.LaneAt t j w i inf ∧ laneSem s (w.env t j) 0 i = .ok s1 fl ∧ s1.upsets = [] ∧
          vget (s1.th t).cp j 0 = w.seq ∧ (s1.th t).laneFault = [] ∧ (∃ y ∈ (s1.th t).window, y.seq = w.seq) ∧
          s2.outstanding t w.seq j = false ∧ (s2.th t).nextSeq ≠ w.seq ∧
          ∀ y ∈ (s2.th t).window, Tbl.find j y.rfault = none ∧ (y.seq ≠ w.seq → NMap.get y.ran j = 0))
        (fun _ b => State.Same (((s2.orFlags t fl).modTh t fun th => { th with cp := vset th.cp j (th.cpAfter w.seq) }).pruneWindow t) b)) ∧
    (∀ s1 tr, Happens (.laneCommit t j) (fun s => s.LaneAt t j w i inf ∧ laneSem s (w.env t j) 0 i = .fault s1 tr ∧
        vget (s1.th t).cp j 0 = w.seq) (fun _ b => State.Same (s1.faultLane t j { idx := 0, trap := tr }) b)) ∧
    (∀ k ty vd va vb, Happens (.laneCommit t j)
      (fun s => s.LaneAt t j w i inf ∧ i = .vadd k ty vd va vb ∧ (s.th t).nextSeq ≠ w.seq)
      (fun s b =>
        let C := w.cap
        let el := fun r e => elInt (ty == .i) C.sew (vget1 (s.th t).v C.lanes C.sew (r : VReg).toNat e)
        LaneWrote C k.mask vd C.sew (C.top12 C.sew) j (fun e =>
          wrapTo C.sew (if k.sat then clampTo (ty == .i) C.sew (el va e + el vb e) else el va e + el vb e)) (s.th t).v (b.th t).v ∧
        vget (b.th t).cp j 0 = (s.th t).cpAfter w.seq ∧ (b.th t).x = (s.th t).x ∧ b.mem = s.mem ∧ b.members = s.members))) ∧
  (∀ t k i cap, Happens (.rendezvousDelivery t k) (fun s => t < s.threads.length ∧ k < 4 ∧
      (vget (s.th t).slots k Slot.reset).state = .full ∧ (vget (s.th t).slots k Slot.reset).instr = some i ∧
      (vget (s.th t).slots k Slot.reset).cap = some cap)
    (fun s b =>
      let d := rdvSem { cap, v := (s.th t).v, carry := (s.th t).sys.vcarry, parts := (vget (s.th t).slots k Slot.reset).parts } i
      vget (b.th t).slots k Slot.reset = Slot.reset ∧ (b.th t).v = d.v ∧ (b.th t).sys.vcarry = d.carry ∧
      (b.th t).sys.fflags = (s.th t).sys.fflags ||| d.flags.setWidth 64 ∧ b.mem = s.mem ∧
      ∀ r, (b.th t).rx r = match d.x with
        | some (x, v) => if r = x ∧ r ≠ 0 then v else (s.th t).rx r
        | none => (s.th t).rx r)) ∧
  (∀ t q w j lf, Happens (.trapRecord t) (fun s => s.runnable t = true ∧ s.User t ∧ (s.th t).run = .running ∧
      (s.th t).lanes ≤ 32 ∧ (∀ k, k < (s.th t).lanes → (Tbl.find k (s.th t).laneFault).isSome) ∧
      (∀ e ∈ (s.th t).laneFault, e.1 < (s.th t).lanes) ∧ s.awaitsRemote t = false ∧
      (∀ k, k < 4 → (vget (s.th t).slots k Slot.reset).state ≠ .full) ∧ (s.th t).faultSeq = some q ∧
      (s.th t).window.find? (·.seq == q) = some w ∧ (j, lf) ∈ (s.th t).laneFault ∧ vget (s.th t).cp j 0 = q ∧
      ∀ e ∈ (s.th t).laneFault, vget (s.th t).cp e.1 0 = q → e.2 ≠ lf → e.2.before lf = false ∧ lf.before e.2 = true)
    (fun s b => (b.th t).sys.trapcause = BitVec.ofNat 64 (lf.trap.sub.toNat * 2 ^ 8 + lf.trap.cause.toNat) ∧
      (b.th t).sys.trappc = w.pc ∧ (b.th t).sys.trapseq = q.setWidth 64 ∧ (b.th t).sys.trapelem = BitVec.ofNat 64 (lf.trap.elem % 2 ^ 32) ∧
      (b.th t).sys.trapaddr = lf.trap.addr ∧
      (∀ k, k < 32 → ((b.th t).sys.traplanes.getLsbD k = true ↔ ∃ e ∈ (s.th t).laneFault, e.1 = k ∧ vget (s.th t).cp k 0 = q)) ∧
      (b.th t).refetch = (s.th t).pc ∧ (b.th t).laneFault = [] ∧ (b.th t).cp = (s.th t).cp ∧ (b.th t).x = (s.th t).x ∧
      (b.th t).v = (s.th t).v ∧ (if (s.th t).toHandler lf.trap.cause then (b.th t).inh = true ∧ (b.th t).pc = (s.th t).sys.trapvec
        else (b.th t).run = .stopped ∧ (b.th t).pc = (s.th t).pc) ∧
      (∀ k, k < (s.th t).lanes → Mem.readNat b.mem ((s.th t).sys.ctxarea.toNat + 4 * k) 4 = (vget (s.th t).cp k 0).toNat) ∧
      ∀ a, a < (s.th t).sys.ctxarea.toNat ∨ (s.th t).sys.ctxarea.toNat + 0x120 ≤ a → Mem.get b.mem a = Mem.get s.mem a)) ∧
  (∀ t, CannotHappen (.trapRecord t) (fun s => (s.th t).laneFault = []))) ∧
  ((∀ n rep c, Happens (.engineFault n rep) (fun s => s.cmd n = some c ∧ c.finished = false ∧ c.fault = none ∧
      c.thr < s.threads.length ∧ (s.th c.thr).run ≠ .done)
    (fun s b =>
      let tr : Trap := { cause := rep.cause, sub := rep.sub, elem := rep.elem, addr := rep.addr }
      b.cmd n = some { c with fault := some tr } ∧ b.mem = s.mem ∧
      ∃ f, (b.th c.thr).engFault = (s.th c.thr).engFault ++ [f] ∧ f.cmd = c.id ∧ f.eng = c.eng ∧ f.eseq = BitVec.ofNat 32 c.eseq ∧
        f.pc = c.pc ∧ f.cseq = c.cseq ∧ f.trap = tr)) ∧
  (∀ t e rest,
    Happens (.engineFaultReport t) (fun s => s.runnable t = true ∧ (s.th t).engFault = e :: rest ∧ (s.th t).run = .running ∧
        ((s.th t).kind = .control ∨ (s.User t ∧ s.Idle t))) (fun s b => s.EngRecorded t e rest b) ∧
    Happens (.engineFaultReport t) (fun s => t < s.threads.length ∧ (s.th t).engFault = e :: rest ∧ (s.th t).run = .done ∧
        s.memberStopped (s.th t).member = false ∧ ∀ u ∈ s.threadsOf (s.th t).member, u ≠ t → (s.th u).kind = .strand → s.Idle u)
      (fun s b => s.EngRecorded t e rest b)) ∧
  (∀ t, CannotHappen (.engineFaultReport t) (fun s => (s.th t).engFault = [])) ∧
  (∀ m d, Happens (.memberResume m) (fun s => s.memberStopped m = true ∧ (s.tm (s.mb m).team).state ≠ .saved ∧
        s.servedBy m = some d ∧ s.supervised d = true)
      (fun s b => b = s.resumeMember m ∧ b.memberStopped m = false ∧ b.mem = s.mem ∧ ∀ t ∈ s.threadsOf m,
        (b.th t).pc = (s.th t).pc ∧ (b.th t).x = (s.th t).x ∧ ((s.th t).run = .stopped → (b.th t).run = .running) ∧
        ((s.th t).run = .endedStopped → (b.th t).run = .done)) ∧
    CannotHappen (.memberResume m) (fun s => s.memberStopped m = false ∨ (s.servedBy m = some d ∧ s.supervised d = false))))

/-- The copy engine (05 R126, R127, 06 R157): an element that nothing holds comes to its destination byte for byte and no other byte of
memory changes; with its last element a transfer completes, and its channel's C and its sem bit say so.
A chain register's record (06 R158): without OWN the engine parks and watches it; with it, the transfer joins the channel.
A walker's buffer opens zeroed, with its EMPTY bit taken (16 R411). A waiting STKEEP whose tiles now fit makes its entry (07 R202).
A platen operation starts at the head of its queue, when no other of its cluster runs (15 R383); the result of a unit reaches its
register, and its flags are ORed (15 R375). -/
def Obligations.EngineEvents : Prop :=
  ((∀ n c s1, Happens (.engineCompletion n) (fun s => s.cmd n = some c ∧ s.runCmd c = some s1) (fun s b => b = s1.writeRegs s c.thr)) ∧
  (∀ n, CannotHappen (.engineCompletion n) (fun s => ∀ c, s.cmd n = some c → c.finished = true ∨ c.fault ≠ none)) ∧
  (∀ n c src dst k ch sem lead va vb s1 s2 a b' ca cb, Happens (.engineCompletion n) (fun s => s.cmd n = some c ∧ c.finished = false ∧
      c.fault = none ∧ (s.tm (s.th c.thr).team).state ≠ .saved ∧ s.keyHeld c = false ∧ s.inProgress c = true ∧
      c.body = .copy src dst k ch sem lead ∧ c.pos + 1 = k ∧ exactAddr (src.addr c.pos) = .ok va ∧
      exactAddr (dst.addr c.pos) = .ok vb ∧ s.engHeld c false va src.bytes = false ∧ s.engHeld c true vb dst.bytes = false ∧
      s.access (s.descCtx c.thr src) .carried false va src.bytes = (s1, .ok [⟨.phys a ca, src.bytes⟩]) ∧
      s1.access (s.descCtx c.thr dst) .write false vb src.bytes = (s2, .ok [⟨.phys b' cb, src.bytes⟩]) ∧
      (∀ d ∈ s.cmds, d.id = n → d = c) ∧ (∀ d ∈ s.cmds, s.chanOf d = some ((s.th c.thr).member, ch) → d.finished = false) ∧
      (s.th c.thr).member < s.members.length ∧ ch < 8 ∧ c.eseq = (s.channel (s.th c.thr).member ch).completed + 1)
    (fun s b =>
      let m := (s.th c.thr).member
      (∀ j, j < src.bytes → Mem.get b.mem (b' + j) = Mem.get s2.mem (a + j)) ∧
      (∀ q, q < b' ∨ b' + src.bytes ≤ q → Mem.get b.mem q = Mem.get s2.mem q) ∧
      (b.channel m ch).completed = c.eseq ∧ b.cmd n = none ∧ (∀ e, sem = some e → e < 64 → (b.mb m).sem.getLsbD e = true))) ∧
  (∀ (s : State) (c : Cmd) (src dst : Desc) (k : Nat) (va vb : Word) (s1 s2 : State) (a b : Nat) (ca cb : Bool),
    exactAddr (src.addr k) = .ok va → exactAddr (dst.addr k) = .ok vb → s.engHeld c false va src.bytes = false →
    s.engHeld c true vb dst.bytes = false →
    s.access (s.descCtx c.thr src) .carried false va src.bytes = (s1, .ok [⟨.phys a ca, src.bytes⟩]) →
    s1.access (s.descCtx c.thr dst) .write false vb src.bytes = (s2, .ok [⟨.phys b cb, src.bytes⟩]) →
    (State.copyElem c src dst s k).2 = .run ∧
    (∀ j, j < src.bytes → Mem.get (State.copyElem c src dst s k).1.mem (b + j) = Mem.get s2.mem (a + j)) ∧
    ∀ q, q < b ∨ b + src.bytes ≤ q → Mem.get (State.copyElem c src dst s k).1.mem q = Mem.get s2.mem q) ∧
  (∀ m ch, let x := fun (s : State) => s.channel m ch
    let s0 := fun (s : State) => s.modChan m ch fun y => { y with chainParked := false }
    let can := fun (s : State) => (s.tm (s.mb m).team).state ≠ .saved ∧ ch < (s.mb m).nchan ∧ m < s.members.length ∧ (x s).chain ≠ 0 ∧
      (∀ c ∈ s.cmds, c.body ≠ .chain ch ∨ (s.th c.thr).member ≠ m) ∧ s.queued m ch < 16 ∧
      s.heldBefore (x s).chainThr (x s).chainNum true (x s).chain 8 = false ∧
      s.heldBefore (x s).chainThr (x s).chainNum false (x s).chain 512 = false
    (∀ s1 a cc, Happens (.chainRecordRead m ch) (fun s => can s ∧
        (s0 s).access (s.ctxOf (x s).chainThr) .read false (x s).chain 8 = (s1, .ok [⟨.phys a cc, 8⟩]) ∧
        Mem.readNat s1.mem a 8 % 2 = 0 ∧ ∃ h, s1.homeOf (a / 64 * 64) = some h ∧ h.1 < 4)
      (fun s b => b.channel m ch = { x s with chainParked := true } ∧ b.mem = s1.mem ∧ b.cmds = s.cmds ∧
        b.watching 2 (m * 8 + ch) = true)) ∧
    (∀ s1 sp s2 bs sc sem next src dst s3 old, Happens (.chainRecordRead m ch) (fun s => can s ∧
        (s0 s).access (s.ctxOf (x s).chainThr) .read false (x s).chain 8 = (s1, .ok sp) ∧
        (let q := s1.readSpans (s.ctxOf (x s).chainThr) 0 sp
         leNat q.2 % 2 = 1 ∧ q.1.readBlock (s.ctxOf (x s).chainThr) (x s).chain 512 = (s2, .ok bs)) ∧
        parseRecord bs = some (sc, sem, next, src, dst) ∧ (∀ k, sem = some k → k < (s2.mb m).nsem) ∧
        s2.atomicElem (s2.ctxOf (s2.channel m ch).chainThr) (s2.channel m ch).chain 8 (fun o => some (o / 2 * 2)) = (s3, .ok old) ∧
        m < s3.members.length)
      (fun _ b =>
        let y := s2.channel m ch
        (b.channel m ch).issued = y.issued + 1 ∧ (b.channel m ch).chain = BitVec.ofNat 64 next ∧
        (b.channel m ch).chainPos = y.chainPos + 1 ∧ b.mem = s3.mem ∧
        ∃ c, b.cmds = s3.cmds ++ [c] ∧ c.body = .copy src dst src.count ch sem true ∧ c.eseq = y.issued + 1 ∧ c.thr = y.chainThr ∧
          c.pc = y.chainPc ∧ c.scope = sc ∧ c.pos = 0 ∧ .post .engineCompletion c.id 0 ∈ b.inbox)) ∧
    CannotHappen (.chainRecordRead m ch) (fun s => (x s).chain = 0)) ∧
  (∀ d c cmd blk, Happens (.walkerBufferOpen d c) (fun s =>
      let k := cluKey d c
      let w := (s.clu k).walker
      s.walkOf k = some (cmd, blk) ∧ w.state = .waiting ∧ (s.th cmd.thr).member < s.members.length ∧
      (s.mb (s.th cmd.thr).member).sem.getLsbD (blk.empty w.buf) = true ∧ s.engHeld cmd true (tileVa (blk.at w.buf)) blk.tb = false)
    (fun s b =>
      let k := cluKey d c
      let m := (s.th cmd.thr).member
      let w := (s.clu k).walker
      (b.clu k).walker.state = .running ∧ (b.clu k).walker.row = 0 ∧ (b.clu k).walker.w = w.w ∧ b.mem = s.mem ∧
      (b.mb m).sem.getLsbD (blk.empty w.buf) = false ∧
      (∀ q, Mem.get (b.mb m).tile q = if blk.at w.buf ≤ q ∧ q < blk.at w.buf + blk.tb then 0 else Mem.get (s.mb m).tile q))) ∧
  (∀ d c src dst bk tl st mt w s1 x i s2 y j s3 p q,
    let rid := fun (s : State) => s.ridOf c.thr
    let f := getField mt 8 3
    let n1 := src.count * stBytes f
    let n2 := dst.count * stBytes f
    let can := fun (s : State) => s.waitingKeeps d = [c] ∧ s.keyHeld c = false ∧ c.body = .stkeep src dst bk tl st mt w ∧
      State.readTile c src (List.range src.count) s [] = (s1, x, i, .run) ∧
      State.readTile c dst (List.range dst.count) s1 [] = (s2, y, j, .run)
    let room := fun (s : State) =>
      let busy := (s2.stTags d (rid s)).filter fun g => decide (0 < g.readers)
      s2.stRoom d (rid s) n1 n2 busy ((s2.stTags d (rid s)).length - busy.length)
    Happens (.stkeepSpaceFree d) (fun s => can s ∧ room s ≠ none ∧ d < 4 ∧
        State.makeRoom d (rid s) n1 n2 (s2.stTags d (rid s)).length s2 = (s3, some (p, q)))
      (fun s b => (∀ e ∈ b.cmds, e.id ≠ c.id) ∧
        ∃ g ∈ (b.die d).tags, g.v = true ∧ g.isKey (rid s) bk tl = true ∧ g.inoff = p ∧ g.inn = src.count ∧ g.outoff = q ∧
          g.outn = dst.count ∧ ∀ h ∈ (b.die d).tags, h.v = true → h.isKey (rid s) bk tl = true → h = g) ∧
    Happens (.stkeepSpaceFree d) (fun s => can s ∧ room s = none)
      (fun _ b => (b.die d).tags = (s2.die d).tags ∧ b.mem = s2.mem ∧ b.inbox = s2.inbox) ∧
    CannotHappen (.stkeepSpaceFree d) (fun s => s.waitingKeeps d = []))) ∧
  ((∀ t p l, Happens (.platenOpStart t) (fun s => t < s.threads.length ∧ (s.th t).platen = p :: l ∧ p.started = false ∧
      s.memberStopped (s.th t).member = false ∧ (s.tm (s.th t).team).state ≠ .saved ∧ (s.tm (s.th t).team).halted = false ∧
      (p.op = 0x8a → ∀ c ∈ s.cmds, c.id ∈ p.waited → c.finished = true) ∧
      (∀ u ∈ s.platenPeers t, ∀ q k, (s.th u).platen = q :: k → q.started = false ∨ q.fault ≠ none) ∧
      ((∀ u ∈ s.platenPeers t, u ≠ t → s.platenReady u = false) ∨ (s.clu ((s.cluOf t).getD 0)).platenTurn ≠ t + 1))
    (fun s b => (∃ r, (b.th t).platen = { p with started := true, startAt := (s.cycleOf t).toNat, resid := r } :: l ∧
        (p.op ≠ 0x86 → r = 0)) ∧ b.mem = s.mem ∧ (b.th t).x = (s.th t).x ∧ .post .platenOpComplete t 0 ∈ b.inbox)) ∧
  (∀ t, CannotHappen (.platenOpStart t) (fun s => (s.tm (s.th t).team).halted = true ∨ s.platenReady t = false)) ∧
  (∀ t seq i, Happens (.resultDelivery t seq) (fun s => (s.th t).kind = .control ∧ (s.th t).active = true ∧
      (s.th t).inflight.find? (fun i => i.seq == BitVec.ofNat 32 seq && kindOf i.op == .v && i.due.isSome) = some i)
    (fun s b => b = (s.modTh t fun _ => (s.th t).giveResult i) ∧
      (b.th t).sys.fflags = (s.th t).sys.fflags ||| i.flags.setWidth 64 ∧ b.mem = s.mem ∧
      ∀ r, (b.th t).rc r = if i.dreg = some r then i.value else (s.th t).rc r)))

/-- Samples and waits (07 R196, 08 R218, R219, 14 R356, R357): a countdown at 0 appends its record and starts again; a consumer moves
SAMPTAIL within the written stream, outside it the write traps BOUNDS; a monitor entry ends for a reason, which its waiter keeps when it
is the first; an MWAIT whose time has run out cancels its entries. A VWAIT that waits for one element reads it again: satisfied, it is
noted; at the end of its time the results are written. -/
def Obligations.SampleAndWaitEvents : Prop :=  (∀ t, Happens (.sampleRecord t) (fun s => t < s.threads.length ∧ (s.th t).active = true ∧ (s.th t).sys.sampOn = true ∧ (s.th t).countdown = 0)
    (fun s b => (b.th t).countdown = 2 ^ (s.th t).sys.pexp ∧ (b.th t).x = (s.th t).x ∧ (b.th t).pc = (s.th t).pc ∧
      ((s.th t).sys.sampAdapt = false → (let q := s.sampleOf t ((s.th t).sys.cseq.setWidth 32 - 1) (s.th t).pc
       q.1.Appends t q.2 b))) ∧
    CannotHappen (.sampleRecord t) (fun s => (s.th t).active = false ∨ (s.th t).sys.sampOn = false ∨ (s.th t).countdown ≠ 0)) ∧
  (∀ t (v : Word), let can := fun (s : State) => s.runnable t = true ∧ (s.th t).kind ≠ .supervisor
    Happens (.samptailWrite t v) (fun s => can s ∧ (s.th t).sys.samptail.toNat ≤ v.toNat ∧ v.toNat ≤ (s.th t).sys.samphead.toNat)
      (fun s b => (b.th t).sys.samptail = v ∧ (b.th t).x = (s.th t).x ∧ (b.th t).pc = (s.th t).pc ∧
        ((s.th t).sys.sampAdapt = false → (b.th t).sys.samphead = (s.th t).sys.samphead ∧ b.mem = s.mem)) ∧
    Happens (.samptailWrite t v) (fun s => can s ∧ s.Idle t ∧ (s.th t).laneFault = [] ∧
        (v.toNat < (s.th t).sys.samptail.toNat ∨ (s.th t).sys.samphead.toNat < v.toNat))
      (fun s b => (b.th t).sys.trapcause = 0x0D ∧ (b.th t).run = .stopped ∧ (b.th t).sys.samptail = (s.th t).sys.samptail) ∧
    CannotHappen (.samptailWrite t v) (fun s => s.runnable t = false ∨ (s.th t).kind = .supervisor)) ∧
  (∀ d sl k why m, Happens (.monitorWake d sl k why)
    (fun s => d < 4 ∧ ((s.die d).monitors.filter fun m => s.homeOf (m.sector * 64) == some (d, sl))[k]? = some m)
    (fun s b => (b.die d).monitors = (s.die d).monitors.erase m ∧ b.mem = s.mem ∧
      (m.kind = 0 → m.owner < 2 ^ 20 → m.owner < s.threads.length → (b.th m.owner).wake = (s.th m.owner).wake.or (some why)))) ∧
  (∀ t, Happens (.mwaitTimeout t) (fun s => t < s.threads.length ∧ s.mwaitOver t = true)
      (fun s b => (b.th t).wake = (s.th t).wake.or (some .timeout) ∧ b.mem = s.mem ∧
        ∀ d, d < 4 → (b.die d).monitors = (s.die d).monitors.filter fun m => !(m.kind == 0 && m.owner == t)) ∧
    CannotHappen (.mwaitTimeout t) (fun s => s.mwaitOver t = false ∧ s.mwaitsOver t = []) ∧
    (∀ i, Happens (.mwaitTimeout t) (fun s => t < s.threads.length ∧ s.mwaitOver t = false ∧ s.mwaitsOver t = [i])
      (fun s b => (b.th t).inflight = (s.th t).inflight.map (fun j =>
          if j.seq = i.seq ∧ j.due.isNone then { j with reason := j.reason.or (some .timeout) } else j) ∧ b.mem = s.mem ∧
        ∀ d, d < 4 → (b.die d).monitors = (s.die d).monitors.filter fun m => !(m.kind == 0 && m.owner == tagOwner t i.tag)))) ∧
  (∀ t, CannotHappen (.vwaitPoll t) (fun s => (s.th t).run ≠ .blocked .vwait) ∧
    CannotHappen (.vwaitTimeout t) (fun s => (s.th t).run ≠ .blocked .vwait)) ∧
  (∀ t (k : ECtl) (ty : ITy) (zero trapTo : Bool) (xd : XReg) (vq : VReg) (xa : XReg) (vb : VReg) (n : BitVec 32) len us e s1 a c,
    let C := fun (s : State) => (s.th t).capture
    let is := fun (s : State) => (List.range (C s).vl).filter (isActive (s.th t).v (C s).lanes k.mask)
    let env := fun (s : State) => ({ t, seq := 0, cap := C s, lane := e % (C s).lanes, start := 0, dist := none } : LEnv)
    let va := fun (s : State) => indexAddr (env s) (s.th t).v xa vb (C s).sew e
    let here := fun (s s0 : State) => (s.th t).run = .blocked .vwait ∧ s.runnable t = true ∧
      (s.th t).head.units = ⟨.vwait k ty zero trapTo xd vq xa vb n, len⟩ :: us ∧
      (is s).filter (fun i => !NSet.mem i (s.th t).vwaitMet) = [e] ∧ s.interlocked t false (va s) ((C s).sew / 8) = false ∧
      s0.access ((env s).cx s0) .read true (va s) ((C s).sew / 8) = (s1, .ok [⟨.phys a c, (C s).sew / 8⟩])
    let met := fun (s : State) => (Mem.readNat s1.mem a ((C s).sew / 8) == 0) == zero
    let after := fun (s : State) => if met s then NSet.add e (s.th t).vwaitMet else (s.th t).vwaitMet
    Happens (.vwaitPoll t) (fun s => here s s) (fun s b => (b.th t).vwaitMet = after s ∧ (b.th t).run = .blocked .vwait ∧
      (b.th t).x = (s.th t).x ∧ (b.th t).v = (s.th t).v ∧ b.mem = s1.mem) ∧
    Happens (.vwaitTimeout t) (fun s => here s (s.modTh t fun th => { th with vwaitOver := true }) ∧ n ≠ 0 ∧
        n.toNat ≤ (s.cycleOf t).toNat - (s.th t).waitStart ∧ trapTo = false ∧ s1.Quiet t)
      (fun s b => (∀ r, (b.th t).rx r = if r = xd ∧ r ≠ 0 then (if met s then 0 else BitVec.ofNat 64 (1 + 4 * 2 ^ 32)) else (s.th t).rx r) ∧
        (∀ i ∈ is s, vget1 (b.th t).v (C s).lanes 1 vq.toNat i = bitOf (!NSet.mem i (after s))) ∧
        (b.th t).run = .running ∧ (b.th t).pc = (s.th t).head.next ∧ b.mem = s1.mem))

/-! ### Events of the schedulers and tables (02, 04, 06, 07, 08) -/

/-- Launches (06 R149-R152): a doorbell moves the tail of a bound leaf, marks an overrun, and is discarded elsewhere; a read of the host ring
appends its tokens in order; the head token is checked once: it is refused with the code of the first check it fails, and a token
without a dependence that passes them waits for slots alone. A doorbell cannot happen in recovery (01 R31).
The scheduler's pass (06 R166, 18 R442): the next is due 256 cycles later; during a thermal stop no new team starts. -/
def Obligations.LaunchAndPass : Prop :=
  ((∀ fn rid tail q,
    let bound := fun (s : State) => fn = .pf ∨ ∃ n w, fn = .vf n ∧ Tbl.find n s.mgmt.vfbind = some w ∧ getBit w 31 = true ∧
      getField w 0 16 ∈ s.chain rid
    let ahead := fun (s : State) => (tail % 65536 + 65536 - q.head % 65536) % 65536 ≤ 2 ^ (s.region rid).hrlog
    Happens (.launchDoorbell fn rid tail) (fun s => s.mgmt.recovery = false ∧ Tbl.find rid s.lqueues = some q ∧ bound s ∧ (s.region rid).leaf = true ∧ ahead s)
      (fun _ b => b.lqueue rid = { q with tail := tail % 65536 } ∧ .post .hostRingRead rid 0 ∈ b.inbox) ∧
    Happens (.launchDoorbell fn rid tail) (fun s => s.mgmt.recovery = false ∧ Tbl.find rid s.lqueues = some q ∧ bound s ∧ (s.region rid).leaf = true ∧ ¬ ahead s)
      (fun s b => b.lqueue rid = { q with ovf := true } ∧ b.inbox = s.inbox) ∧
    Happens (.launchDoorbell fn rid tail) (fun s => s.mgmt.recovery = false ∧ (Tbl.find rid s.lqueues = none ∨ ¬ bound s ∨ (s.region rid).leaf = false))
      (fun s b => b = { s with mgmt := { s.mgmt with badDb := s.mgmt.badDb + 1 } }) ∧
    CannotHappen (.launchDoorbell fn rid tail) (fun s => s.mgmt.recovery = true)) ∧
  (∀ rid, Happens (.hostRingRead rid) (fun s => Tbl.find rid s.lqueues ≠ none ∧ (s.lqueue rid).head ≠ (s.lqueue rid).tail ∧
      s.lqRoom rid = true)
    (fun s b => ∃ rest, (b.lqueue rid).tokens = (s.lqueue rid).tokens ++
      { parseToken (Mem.read s.mem ((s.region rid).hring + (s.lqueue rid).head % 2 ^ (s.region rid).hrlog * 64) 64) with
        enq := (s.die (s.region rid).home).sched, num := s.launches } :: rest ∧ b.mem = s.mem)) ∧
  (∀ rid k rest s1 c x, let waits := fun (s : State) => (s.lqueue rid).tokens = k :: rest ∧ (s.lqueue rid).depMet = false ∧
      (s.lqueue rid).desc = none
    Happens (.launchQueueHead rid) (fun s => waits s ∧ s.checkToken rid k = (s1, .error c)) (fun _ b => b = s1.refuse rid c) ∧
    Happens (.launchQueueHead rid) (fun s => waits s ∧ s.checkToken rid k = (s1, .ok x) ∧ k.depk ≠ 1 ∧ k.depk ≠ 2)
      (fun _ b => b.lqueue rid = { s1.lqueue rid with desc := some x, depMet := true } ∧ b.mem = s1.mem)) ∧
  (∀ rid k rest, Happens (.launchQueueHead rid) (fun s => (s.lqueue rid).tokens = k :: rest ∧ (s.lqueue rid).depMet = false ∧
      (s.lqueue rid).desc ≠ none) (fun s b => b = s.dependence rid k))) ∧
  (∀ d, Happens (.schedulingPass d) (fun s => d < 4 ∧ (s.die d).off = false)
  (fun s b => b = s.pass d ∧ (b.die d).passLeft = 256 ∧ (s.mgmt.thermalStop = true → b.teams.length = s.teams.length)))

/-- Saves and resumes (02 R56-R59, 06 R165, R170-R172): a team asked to leave is saved when every thread is at a safe point, or by force
when its deadline has passed first; its threads leave their cores; once its space is cleared others may start there; it resumes where
it finds slots, and one that has endpoints marks them MOVING before it goes to another die (assumption log 60).
Ends (02 R32, 06 R153, 07 R179): a member ends when all its threads are done and no command is left; its team with the last, with code 0;
a team that a trap has stopped ends with code 0x11 and the others of its fault domain with 0x10. -/
def Obligations.SaveAndEnd : Prop :=
  (∀ k,
  let gone := fun (s b : State) => (b.tm k).state = .saved ∧ ∀ t ∈ s.teamThreads k, (s.mbOf t).ended = false → (b.th t).active = false
  let late := fun (s : State) => (s.tm k).state = .preempting false ∧ s.teamSafe k = false ∧
    (s.region (s.tm k).rid).deadline ≤ (s.die (s.mb ((s.tm k).members.headD 0)).die).sched - (s.tm k).reqAt
  let drained := fun (s : State) => s.teamAwaits k = false ∧ ∀ t ∈ s.teamThreads k, (s.th t).kind = .strand →
    (s.th t).inh = true ∨ (s.th t).run = .stopped ∨ (s.th t).run = .endedStopped ∨ (s.th t).run = .done
  Happens (.safePointSave k) (fun s => (s.tm k).state = .preempting false ∧ s.teamSafe k = true ∧ s.teamAwaits k = false)
    (fun s b => b = s.saveTeam k false ∧ gone s b) ∧
  Happens (.forcedSave k) (fun s => late s) (fun s b => b = s.forceSave k) ∧
  Happens (.forcedSave k) (fun s => (late s ∨ (s.tm k).state = .preempting true) ∧ drained s)
    (fun s b => b = s.saveTeam k true ∧ gone s b) ∧
  CannotHappen (.safePointSave k) (fun s => (s.tm k).state ≠ .preempting false ∨ s.teamSafe k = false) ∧
  CannotHappen (.forcedSave k) (fun s => s.preempting k = false) ∧
  Happens (.saveComplete k) (fun s => (s.tm k).state = .saved ∧ (∃ m ∈ (s.tm k).members, (s.mb m).placed = true) ∧
      ∀ t ∈ s.teamThreads k, (s.mbOf t).ended = false → (s.th t).inflight = [])
    (fun s b => s.endSave k = some b ∧ (b.tm k).state = .saved ∧
      ∀ m ∈ (s.tm k).members, (s.mb m).ended = false → (b.mb m).placed = false) ∧
  Happens (.spaceClearingEnd k) (fun s => s.clusters.any (fun e => e.2.clearing.any (·.1 == k)) = true)
    (fun s b => b.mem = s.mem ∧ b.threads = s.threads ∧ ∀ c, (b.clu c).clearing = (s.clu c).clearing.filter (·.1 != k)) ∧
  (let away := fun (s : State) => (s.tm k).state = .saved ∧ ∀ m ∈ (s.tm k).members, (s.mb m).placed = false
   let old := fun (s : State) => (s.mb ((s.live k).headD 0)).die
   (∀ slots, Happens (.teamResume k) (fun s => away s ∧ s.resumeSlots k false = some slots ∧ s.teamCtxs k (old s) = [])
      (fun s b => s.resumeTeam k = some b ∧ (b.tm k).state = .running)) ∧
   (∀ slots, Happens (.teamResume k) (fun s => away s ∧ s.resumeSlots k false = some slots ∧ (slots.headD (0, 0, 0)).1 ≠ old s ∧
        s.allMoving (s.teamCtxs k (old s)) = false)
      (fun s b => (b.tm k).state = .saved ∧ b.mem = s.mem ∧ b.threads = s.threads ∧ .post .teamResume k 0 ∈ b.inbox ∧
        ∀ n p, Tbl.find n s.endpoints = some p → p.mctx ∈ s.teamCtxs k (old s) →
          Tbl.find n b.endpoints = some { p with moving := true })) ∧
   CannotHappen (.teamResume k) (fun s => (s.tm k).state ≠ .saved))) ∧
  ((∀ m, Happens (.memberEnd m) (fun s => (s.mb m).ended = false ∧ (s.mb m).placed = true ∧ (s.tm (s.mb m).team).state ≠ .saved ∧
      (∀ t ∈ s.threadsOf m, (s.th t).run = .done ∧ (s.th t).platen = []) ∧ ∀ c ∈ s.cmds, c.thr ∉ s.threadsOf m)
    (fun s b => (b.mb m).ended = true ∧ (b.mb m).placed = false ∧ b.mem = s.mem ∧ ∀ t ∈ s.threadsOf m, (b.th t).active = false)) ∧
  (∀ k, Happens (.teamEnd k) (fun s => ((s.tm k).state = .running ∨ s.preempting k = true) ∧ (s.tm k).members ≠ [] ∧
      ∀ m ∈ (s.tm k).members, (s.mb m).ended = true)
    (fun s b => (b.tm k).state = .ended ∧ (b.tm k).endCode = some 0 ∧
      ∀ s3, (s.tm k).token.donerec ≠ 0 → (s.tm k).token.donerec.toNat % 16 = 0 →
        (s.modTm k fun tm => { tm with state := .ended, endCode := some 0 }).writeBlock (s.regionCtx (s.tm k).rid) (s.tm k).token.donerec
          (bytesOf 8 0 ++ bytesOf 8 (s.tm k).token.tag.toNat) = (s3, none) →
        b.mem = s3.mem ∧ b.mgmt.msix = s3.mgmt.msix ++ [(s3.functionOf (s.tm k).rid, (s.tm k).rid % 64)])) ∧
  (∀ k, Happens (.faultDomainEnd k) (fun s => (s.tm k).state ≠ .ended ∧ ∃ m ∈ (s.tm k).members, s.memberStopped m = true)
    (fun s b => (b.tm k).state = .ended ∧ (b.tm k).endCode = some 0x11 ∧
      ∀ j ∈ s.faultDomain k, j ≠ k → (b.tm j).state = .ended ∧ (b.tm j).endCode = some 0x10)))

/-- A table command, on its registers as they stood at GO (assumption log 36), ends with ERR in TBLSTAT and BUSY clear: a write or an
invalidation leaves what its table's rules give and clears an error of the entry (04 R111), a failed one changes nothing else, and a
read stores the entry's image (07 R173); a message forme has none (07 R183).
A table entry is what its last write gave: a forme or a distribution entry that a write has put where none was is the image's, and no
other index changes; an image with V = 0 invalidates; an index beyond the table, a field beyond its limits and a region that is not valid
have their codes (07 R173, R181, R185). -/
def Obligations.Tables : Prop :=
  (∀ d, d < 4 →
  let heal := fun (s : State) (r : Except Nat State) => r.map fun x => State.healEntry x d (s.tableArgs d).1 (s.tableArgs d).2
  (∀ r : State → Except Nat State, ∀ i : Instr, (i, r) ∈ [
      (.tableWrite d, fun s =>
        let img := fun (n : Nat) => Mem.read s.mem (s.die d).tblRun.2.toNat n
        heal s <| match (s.tableArgs d).1 with
        | 0 => s.writeRegion (s.tableArgs d).2 (img 128) | 1 => s.writeForme (s.tableArgs d).2 (img 64)
        | 2 => s.writeDist d (s.tableArgs d).2 (img 32) | 3 => s.writeWm d (s.tableArgs d).2 (img 32)
        | 4 => s.writeEndpoint (s.tableArgs d).2 (leNat (img 8)) | _ => s.writeMctx (s.tableArgs d).2 (leNat (img 8))),
      (.tableInvalidate d, fun s => heal s <| match (s.tableArgs d).1 with
        | 0 => s.dropRegion (s.tableArgs d).2 | 1 => s.dropForme (s.tableArgs d).2 | 2 => s.dropDist d (s.tableArgs d).2
        | 3 => s.dropWm d (s.tableArgs d).2 | 4 => s.dropEndpoint (s.tableArgs d).2 | _ => s.dropMctx (s.tableArgs d).2),
      (.tableRead d, fun s => match s.tableImage d (s.tableArgs d).1 (s.tableArgs d).2 with
        | .error c => .error c | .ok bs => .ok (s.physWrite (s.die d).tblRun.2.toNat bs))] →
    Happens i (fun s => s.tableBusy d (match i with | .tableWrite _ => 0 | .tableInvalidate _ => 1 | _ => 2) = true) fun s b =>
      getBit (b.die d).tblstat 0 = false ∧
      (∀ s1, r s = .ok s1 → b = s1.modDie d fun x => { x with tblstat := putField (putBit x.tblstat 0 false) 8 8 0 }) ∧
      ∀ c, r s = .error c → getField (b.die d).tblstat 8 8 = c % 256 ∧ b.mem = s.mem ∧ b.regions = s.regions ∧ b.formes = s.formes ∧
        b.endpoints = s.endpoints ∧ b.mctxs = s.mctxs ∧ ∀ e, e ≠ d → b.die e = s.die e) ∧
  (∀ (s : State) k f, Tbl.find k s.formes = some f → f.msg = true → s.tableImage d 1 k = .error 5) ∧
  CannotHappen (.tableWrite d) (fun s => s.tableBusy d 0 = false)) ∧
  (∀ (s s1 : State) (idx : Nat) (bs : List Byte),
  (s.writeForme idx bs = .ok s1 → Tbl.find idx s.formes = none → bitAt (leAt bs 0 2) 0 = true →
    Tbl.find idx s1.formes = some (parseForme bs) ∧ (∀ j, j ≠ idx → Tbl.find j s1.formes = Tbl.find j s.formes) ∧ s1.mem = s.mem) ∧
  (∀ d, d < 4 → s.writeDist d idx bs = .ok s1 → Tbl.find idx (s.die d).dist = none → bitAt (leAt bs 0 2) 0 = true →
    Tbl.find idx (s1.die d).dist = some (parseDist bs) ∧ (∀ j, j ≠ idx → Tbl.find j (s1.die d).dist = Tbl.find j (s.die d).dist) ∧
    s1.mem = s.mem) ∧
  (s.writeForme idx bs = .ok s1 → Tbl.find idx s.formes ≠ none → bitAt (leAt bs 0 2) 0 = false → Tbl.find idx s1.formes = none) ∧
  (16384 ≤ idx → s.writeForme idx bs = .error 2) ∧
  (idx < 16384 → s.formeForm bs = true → s.validRegion (parseForme bs).rid = false → s.writeForme idx bs = .error 3) ∧
  (idx < 16384 → s.formeForm bs = false → s.writeForme idx bs = .error 1))

/-- Translation invalidation (04 R106, R107): ALL empties the TLBs of every level and the walk caches, REGION drops those of one region,
RANGE those whose page overlaps the range; BUSY clears, and memory, so every table in it, stays.
Debug entries (08 R226, 17 R431): a write puts the assigned bits of DBGW0 and DBGW1 into the entry of the context that DBGSEL names, a
read answers them; a context not there, or an entry beyond 11, sets ERR. -/
def Obligations.TranslationAndDebug : Prop :=
  (∀ d, d < 4 →
  let busy := fun (s : State) (sc : Nat) => getBit (s.die d).xlistat 0 = true ∧ getField (s.die d).xliRun.1 1 2 = sc
  let region := fun (s : State) => getField (s.die d).xliRun.1 16 16
  let ends := fun (s b : State) (keep walk : Nat → Bool) => getBit (b.die d).xlistat 0 = false ∧ b.mem = s.mem ∧
    (∀ e, e < 4 → (b.die e).tlb = (s.die e).tlb.filter (fun x => keep x.1) ∧
      (b.die e).walks = (s.die e).walks.filter fun x => walk (x.1 / 2 ^ 38)) ∧
    ∀ c, (b.clu c).utlb = (s.clu c).utlb.map (fun j => (j.1, j.2.filter fun x => keep x.1)) ∧
      (b.clu c).gtlb = (s.clu c).gtlb.map fun j => (j.1, j.2.filter fun x => keep x.1)
  Happens (.tlbInvalidateAll d) (busy · 0) (fun s b => ends s b (fun _ => false) fun _ => false) ∧
  Happens (.tlbInvalidateRegion d) (busy · 1) (fun s b => ends s b (fun k => k / 64 / 2 ^ 36 != region s) fun r => r != region s) ∧
  Happens (.tlbInvalidateRange d) (busy · 2) (fun s b => ends s b (fun k => !tlbOverlaps (region s)
    (s.die d).xliRun.2.1.toNat ((s.die d).xliRun.2.1.toNat + (s.die d).xliRun.2.2.toNat * 4096) k) fun r => r != region s) ∧
  CannotHappen (.tlbInvalidateAll d) (fun s => getBit (s.die d).xlistat 0 = false)) ∧
  (∀ d, d < 4 →
  let asks := fun (s : State) (op : Bool) => getBit (s.die d).dbgctl 3 = true ∧ getBit (s.die d).dbgRun.1 1 = op
  let e := fun (s : State) => (s.die d).dbgRun.2.2.1.toNat
  let here := fun (s : State) (t : Nat) => s.dbgThread d = some t ∧ e s < 12 ∧ (s.tm (s.th t).team).state ≠ .saved
  let w := fun (s : State) => dbgMask (e s) (s.die d).dbgRun.2.2.2.1 (s.die d).dbgRun.2.2.2.2
  let done := fun (b : State) (err : Bool) => getBit (b.die d).dbgctl 3 = false ∧ getBit (b.die d).dbgctl 2 = err
  (∀ t, Happens (.debugEntryWrite d) (fun s => asks s false ∧ here s t) (fun s b => done b false ∧ b.mem = s.mem ∧
      (∀ k, k < 8 → vget (b.th t).dbgPc k (0, 0) = if k = e s then w s else vget (s.th t).dbgPc k (0, 0)) ∧
      (∀ k, k < 4 → vget (b.th t).dbgEng k (0, 0) = if k + 8 = e s then w s else vget (s.th t).dbgEng k (0, 0)) ∧
      (b.th t).x = (s.th t).x)) ∧
  (∀ t, Happens (.debugEntryRead d) (fun s => asks s true ∧ here s t) (fun s b => done b false ∧ b.mem = s.mem ∧ b.threads = s.threads ∧
      ((b.die d).dbgw0, (b.die d).dbgw1) =
        if e s < 8 then vget (s.th t).dbgPc (e s) (0, 0) else vget (s.th t).dbgEng (e s - 8) (0, 0))) ∧
  (∀ i ∈ [Instr.debugEntryWrite d, .debugEntryRead d], Happens i
    (fun s => asks s (i == .debugEntryRead d) ∧ (s.dbgThread d = none ∨ 12 ≤ e s))
    (fun s b => done b true ∧ b.mem = s.mem ∧ b.threads = s.threads)))

/-! ### Events of the fabric and the host (05, 06, 07, 08, 17) -/

/-- Ports (01 R31, 08 R225, 17 R415, R428): training brings a port UP at its width, or finds it MISWIRED, or leaves it DOWN, withdrawn and
reported; one
that goes down loses its queue; one that narrows goes on or keeps to management; WDRAW and the digests are written.
Routing tables and their swap (17 R421, R425, R426): an entry that keeps the rules enters STANDBY and no other of its entries changes, one
that breaks them sets ERR alone; a read stores the ACTIVE entry; a swap begins with SWAPSTART to every neighbour, relayed once; with
the last DRAINED STANDBY becomes ACTIVE and GENACT advances. -/
def Obligations.PortsAndRouting : Prop :=
  (∀ n, n < 32 →
  let p := fun (s : State) => vget s.ports n Port.reset
  let can := fun (s : State) (v : Nat) => s.expected n = some v ∧ (p s).state ≠ .off ∧ (p s).state ≠ .up
  let others := fun (s b : State) => ∀ k, k ≠ n → vget b.ports k Port.reset = vget s.ports k Port.reset
  (∀ v nbr w, (w = 1 ∨ w = 2 ∨ w = 4) →
    Happens (.portTraining n nbr w true) (fun s => can s v ∧ nbr = v) (fun s b => (p b).state = .up ∧ (p b).width = w ∧ others s b) ∧
    Happens (.portTraining n nbr w true) (fun s => can s v ∧ nbr ≠ v) (fun s b => (p b).state = .miswired ∧ (p b).width = w ∧ others s b ∧
      b.mgmt.alerts = s.mgmt.alerts ++ [unitKey 6 n])) ∧
  (∀ v nbr w, Happens (.portTraining n nbr w false) (can · v)
    (fun s b => (p b).state = .down ∧ (p b).wdraw = true ∧ others s b ∧ b.mgmt.alerts = s.mgmt.alerts ++ [unitKey 5 n])) ∧
  Happens (.portDown n) (fun s => (p s).state ≠ .down ∧ (p s).state ≠ .off ∧ (p s).queue = [])
    (fun s b => (p b).state = .down ∧ (p b).queue = [] ∧ others s b) ∧
  (∀ w held, (w = 1 ∨ w = 2) → Happens (.portWidthLoss n w held) (fun s => (p s).state = .up ∧ w < (p s).width)
    (fun s b => (p b).width = w ∧ (p b).state = (if held then .up else .mgmt) ∧ (p b).queue = (p s).queue ∧ others s b)) ∧
  (∀ v, Happens (.portstatWdrawWrite n v) (fun _ => True) (fun s b => (p b).wdraw = v ∧ (p b).state = (p s).state ∧ others s b)) ∧
  Happens (.digestClear n) (fun _ => True)
    (fun s b => (p b).ord = 0 ∧ (p b).sum = 0 ∧ (p b).cnt = 0 ∧ (p b).state = (p s).state ∧ others s b)) ∧
  (let dst := fun (s : State) => getField s.fab.rtRun.1 22 10
  (∀ bs, Happens .rtWriteStandby (fun s => s.rtBusy 0 = true ∧ Mem.read s.mem s.fab.rtRun.2.toNat 32 = bs ∧ s.routeOk (dst s) bs = true)
      (fun s b => Tbl.find (dst s) b.fab.standby = parseRoute bs ∧ (∀ k, k ≠ dst s → Tbl.find k b.fab.standby = Tbl.find k s.fab.standby) ∧
        b.fab.active = s.fab.active ∧ getBit b.fab.rtstat 0 = false ∧ getBit b.fab.rtctl 1 = false) ∧
    Happens .rtWriteStandby (fun s => s.rtBusy 0 = true ∧ Mem.read s.mem s.fab.rtRun.2.toNat 32 = bs ∧ s.routeOk (dst s) bs = false)
      (fun s b => b.fab.standby = s.fab.standby ∧ b.fab.active = s.fab.active ∧ getBit b.fab.rtstat 0 = false ∧
        getBit b.fab.rtctl 1 = true)) ∧
  Happens .rtReadActive (fun s => s.rtBusy 1 = true ∧ ∀ r, Tbl.find (dst s) s.fab.active = some r → r.slots.length ≤ 8) (fun s b => getBit b.fab.rtstat 0 = false ∧ b.fab.active = s.fab.active ∧
    Mem.read b.mem s.fab.rtRun.2.toNat 32 =
      match Tbl.find (dst s) s.fab.active with | some r => r.bytes | none => List.replicate 32 0) ∧
  Happens .rtBeginSwap (fun s => s.rtBusy 2 = true) (fun s b => getBit b.fab.rtstat 2 = true ∧ getBit b.fab.rtstat 0 = false ∧
    b.fab.sentMgmt = s.fab.sentMgmt ++ [(false, s.moduleNo)] ∧ b.fab.active = s.fab.active ∧ b.fab.standby = s.fab.standby) ∧
  (∀ m, Happens (.swapstart m) (fun s => NSet.mem m s.fab.swapStarts = false)
      (fun s b => NSet.mem m b.fab.swapStarts = true ∧ b.fab.sentMgmt = s.fab.sentMgmt ++ [(false, m)] ∧ b.fab.active = s.fab.active) ∧
    Happens (.swapstart m) (fun s => NSet.mem m s.fab.swapStarts = true) (fun s b => b = s) ∧
    Happens (.drained m) (fun s => NSet.mem m s.fab.draineds = true) (fun s b => b = s) ∧
    Happens (.drained m) (fun s => NSet.mem m s.fab.draineds = false ∧
        (getBit s.fab.rtstat 2 = false ∨ ∃ k ∈ s.present, NSet.mem k (NSet.add m s.fab.draineds) = false))
      (fun s b => NSet.mem m b.fab.draineds = true ∧ b.fab.sentMgmt = s.fab.sentMgmt ++ [(true, m)] ∧ b.fab.active = s.fab.active) ∧
    Happens (.drained m) (fun s => NSet.mem m s.fab.draineds = false ∧ getBit s.fab.rtstat 2 = true ∧
        ∀ k ∈ s.present, NSet.mem k (NSet.add m s.fab.draineds) = true)
      (fun s b => b.fab.active = s.fab.standby ∧ b.fab.sentMgmt = s.fab.sentMgmt ++ [(true, m)] ∧ getBit b.fab.rtstat 2 = false ∧
        getField b.fab.rtstat 16 8 = (getField s.fab.rtstat 16 8 + 1) % 256)) ∧
  Happens .oldGenerationDrained (fun s => ((List.range 32).foldl State.transmit s).oldDrained = true)
    (fun s b => b.fab.sentMgmt = s.fab.sentMgmt ++ [(true, s.moduleNo)] ∧ b.mem = s.mem))

/-- Remote operations at their source (05 R134, 13 R332, 17 R424, R427): an answer ends the element, with its value in its register or its
trap in its convoy; NOT-READY keeps an ORD store for a retry; a timeout and an unreachable module trap FABRIC, and an answer after it is
discarded.
Remote operations at their target (07 R183, 17 R424): a request of another module that passes the checks is performed on the element
its forme names and answered; one that a check refuses changes no byte and is answered with the check; ORD stores are performed in
their order. -/
def Obligations.RemoteEvents : Prop :=
  (∀ (n : Nat) (r : RemoteOut),
  let out := fun (s : State) => s.remotes.find? (fun x => x.tagno == n && x.answer.isNone) = some r
  (∀ v, Happens (.remoteResponse ⟨n, .ok v⟩) out (fun s b => b = s.answerRemote r (.val v))) ∧
  (∀ u, Happens (.remoteResponse ⟨n, .forme u⟩) out (fun s b => b = s.answerRemote r (.trap (remoteTrap 0x0E u r.dst r.forme r.elem r.idx)))) ∧
  Happens (.remoteResponse ⟨n, .notReady⟩) out (fun s b => .post .ordStoreRetry n 0 ∈ b.inbox ∧ b.mem = s.mem ∧ b.threads = s.threads) ∧
  Happens (.remoteTimeout n) out (fun s b => b = s.answerRemote r (.trap (remoteTrap 0x0F 0x00 r.dst r.forme r.elem r.idx))) ∧
  Happens (.ordStoreRetry n) (fun s => out s ∧ r.retries ≠ 0)
    (fun s b => b = s.emit (s.packetTo r.dst 0 (remoteBody r.dst r.forme r.elem r.width r.kind))) ∧
  (n < 2 ^ 40 → Happens (.nak n) (fun s => out s ∧ s.reaches r.dst = true)
      (fun s b => b = s.emit (s.packetTo r.dst 0 (remoteBody r.dst r.forme r.elem r.width r.kind))) ∧
    Happens (.nak n) (fun s => out s ∧ s.reaches r.dst = false)
      (fun s b => b = s.answerRemote r (.trap (remoteTrap 0x0F 0x02 r.dst r.forme r.elem r.idx)))) ∧
  CannotHappen (.remoteTimeout n) (fun s => ∀ x ∈ s.remotes, x.tagno ≠ n) ∧
  (∀ a, Happens (.remoteResponse ⟨n, a⟩) (fun s => n < s.nextTag ∧ ∀ x ∈ s.remotes, x.tagno = n → x.answer ≠ none) (fun s b => b = s)) ∧
  (∀ (s : State) (v : Word) (d : Nat), r.eseq = none → r.vd = some d → r.thr < s.threads.length →
    (s.tm (s.th r.thr).team).state ≠ .saved →
    ((s.answerRemote r (.val v)).th r.thr).v = vput1 (s.th r.thr).v (s.th r.thr).lanes r.ew d r.idx v.toNat ∧
    (s.answerRemote r (.val v)).remotes = s.remotes.filter (fun x => x.tagno != r.tagno) ∧ (s.answerRemote r (.val v)).mem = s.mem)) ∧
  ((∀ q : RemoteReq, (∀ d m c, q.kind ≠ .ordStore d m c) → (∀ n, q.kind ≠ .payload n) →
    Happens (.remoteRequest q) (fun s => q.src ≠ s.moduleNo) (fun s b => b = (s.performRemote q).1.answerTo q (s.performRemote q).2)) ∧
  (∀ (q : RemoteReq) (s : State),
    (Tbl.find q.forme s.formes = none → s.performRemote q = (s, .forme 0x00)) ∧
    (∀ f, Tbl.find q.forme s.formes = some f →
      (s.struck (.table ((s.region f.rid).home % 4) 1 q.forme) = true → s.performRemote q = (s, .forme 0x05)) ∧
      (s.struck (.table ((s.region f.rid).home % 4) 1 q.forme) = false →
      (s.srcPermitted f q.src = false → s.performRemote q = (s, .forme 0x03)) ∧
      (s.srcPermitted f q.src = true → f.permits q.kind = false → s.performRemote q = (s, .forme 0x02)) ∧
      (s.srcPermitted f q.src = true → f.permits q.kind = true → f.count ≤ q.elem → s.performRemote q = (s, .forme 0x01)) ∧
      (s.srcPermitted f q.src = true → f.permits q.kind = true → q.elem < f.count → q.width ≠ 2 ^ f.esize →
        s.performRemote q = (s, .forme 0x02)) ∧
      (s.srcPermitted f q.src = true → f.permits q.kind = true → q.elem < f.count → q.width = 2 ^ f.esize →
        f.addr q.elem < 0 ∨ (2 ^ 64 : Int) ≤ f.addr q.elem → s.performRemote q = (s, .forme 0x04)) ∧
      (s.srcPermitted f q.src = true → f.permits q.kind = true → q.elem < f.count → q.width = 2 ^ f.esize →
        0 ≤ f.addr q.elem → f.addr q.elem < (2 ^ 64 : Int) → ∀ s1 a c,
        s.access (s.formeCtx f) (remoteAKind q.kind) (decide (remoteAKind q.kind = .atomic)) (BitVec.ofInt 64 (f.addr q.elem)) q.width =
          (s1, .ok [⟨.phys a c, q.width⟩]) →
        (q.kind = .load → (s.performRemote q).1.mem = s1.mem ∧
          (s.performRemote q).2 = .ok (BitVec.ofNat 64 (Mem.readNat s1.mem a q.width))) ∧
        (∀ d, q.kind = .store d →
          (∀ k, k < q.width → Mem.get (s.performRemote q).1.mem (a + k) = d.extractLsb' (8 * k) 8) ∧
          ∀ p, p < a ∨ a + q.width ≤ p → Mem.get (s.performRemote q).1.mem p = Mem.get s1.mem p) ∧
        (∀ op sg d, q.kind = .amo op sg d →
          (s.performRemote q).2 = .ok (BitVec.ofNat 64 (Mem.readNat s1.mem a q.width)) ∧
          Mem.readNat (s.performRemote q).1.mem a q.width =
            amoNew op sg (8 * q.width) (Mem.readNat s1.mem a q.width) (d.toNat % 2 ^ (8 * q.width)) % 2 ^ (8 * q.width) ∧
          ∀ p, p < a ∨ a + q.width ≤ p → Mem.get (s.performRemote q).1.mem p = Mem.get s1.mem p))))) ∧
  (∀ (q : RemoteReq) (d : Word) (m c : Nat), q.kind = .ordStore d m c → Happens (.remoteRequest q) (fun s => q.src ≠ s.moduleNo)
    (fun s b => b = s.ordArrive (match Tbl.find q.forme s.formes with | some f => (s.region f.rid).home % 4 | none => 0) q m c)) ∧
  (∀ (q : RemoteReq) (n : Nat), q.kind = .payload n → Happens (.remoteRequest q) (fun s => q.src ≠ s.moduleNo)
    (fun s b => b = s.payloadRead q n)) ∧
  (∀ q, CannotHappen (.remoteRequest q) (fun s => q.src = s.moduleNo)))

/-- Packets (17 R415, R422, R427): one of a type not used is discarded and counted at its port; one on its way to another module leaves by the port its generation's table names, with HOP one higher; one that
cannot, or that has taken four hops, is answered NAK.
Messages (06 R161-R164, 14 R486, 17 R417): one from another module is taken by its receive engine and answered; an acceptance or a payload
completes its MSEND; a NOT-READY backs it off, and it sends again when its time has come; a DEFER lends a forme, or waits for one. -/
def Obligations.PacketsAndMessages : Prop :=
  (∀ p : Packet,
  Happens (.packetForward p) (fun s => p.dst ≠ s.moduleNo ∧ p.cls < 3 ∧ p.hop < 3 ∧
      s.forward { p with phase := p.phase || p.via == s.moduleNo, hop := p.hop + 1 } = none)
    (fun s b => b = s.nakPacket p) ∧
  Happens (.packetForward p) (fun s => p.dst ≠ s.moduleNo ∧ p.cls < 3 ∧ p.hop = 3) (fun s b => b = s.nakPacket p) ∧
  (∀ r, let q := fun (s : State) => { p with phase := p.phase || p.via == s.moduleNo, hop := p.hop + 1 }
    Happens (.packetForward p) (fun s => p.dst ≠ s.moduleNo ∧ p.cls < 3 ∧ p.hop < 3 ∧ r.minport < 32 ∧
        Tbl.find (if (q s).phase = true ∨ p.via = 0x3FF then p.dst else p.via) (s.genTable p.gen) = some r ∧
        (vget s.ports r.minport Port.reset).state = .up)
      (fun s b => b.outbox ++ (vget b.ports r.minport Port.reset).queue =
          s.outbox ++ (vget s.ports r.minport Port.reset).queue ++ [q s] ∧ b.mem = s.mem ∧
        ∀ k, k ≠ r.minport → vget b.ports k Port.reset = vget s.ports k Port.reset)) ∧
  (3 ≤ p.cls → p.port < 32 → Happens (.packetForward p) (fun _ => True) (fun s b =>
    (vget b.ports p.port Port.reset).errcnt = min 0xFFFF ((vget s.ports p.port Port.reset).errcnt + 1) ∧ b.outbox = s.outbox ∧
    b.mem = s.mem ∧ ∀ k, k ≠ p.port → vget b.ports k Port.reset = vget s.ports k Port.reset)) ∧
  CannotHappen (.packetForward p) (fun s => p.cls < 3 ∧ p.dst = s.moduleNo)) ∧
  ((∀ m : Msg, Happens (.messageArrival m) (fun s => m.src ≠ s.moduleNo) (fun s b => b = (s.arrive m).1.replyMsg m (s.arrive m).2) ∧
    CannotHappen (.messageArrival m) (fun s => m.src = s.moduleNo) ∧
    ∀ s : State, Tbl.find m.dep s.endpoints = none → s.arrive m = (s, .err 0x01)) ∧
  (∀ n c, let is := fun (s : State) => s.cmd n = some c
    Happens (.messageRetry n) (fun s => is s ∧ s.retryDue c = true) (fun s b => b = s.runSend c) ∧
    (∀ a l dm dep sep tg q f dl du ph, c.body = .send a l dm dep sep tg q f dl du ph →
      Happens (.messageRetry n) (fun s => is s ∧ s.retryDue c = false ∧ dm ≠ s.moduleNo ∧ (ph = 1 ∨ ph = 2) ∧ c.fault = none)
        (fun s b => b = s.answerSend c .notReady) ∧
      (f = none → ph = 1 → Happens (.messageAcceptAck n) (fun s => is s ∧ dm ≠ s.moduleNo)
        (fun s b => b = s.sendDone c)) ∧
      (∀ k bs tr po, f = some k → ph = 2 → Happens (.messagePayloadDone n bs tr po) (fun s => is s ∧ dm ≠ s.moduleNo ∧ c.fault = none)
        (fun s b => b = s.sendDone c)) ∧
      (f = none → ph = 1 ∨ ph = 3 → Happens (.deferAnswer n) is (fun s b => s.defer c = some b ∧
        (∀ k, s.canLend (s.ridOf c.thr) = some k → (Tbl.find k b.formes).any (fun x => x.msg && x.lent == some c.id) = true) ∧
        (s.canLend (s.ridOf c.thr) = none → b = s.modSend c.id 3 dl 0)))) ∧
    (∀ k b m p bs tr po, c.body = .recv k b (some m) true p → m.path ≠ 0 →
      bs.length = min m.len b.limit ∨ (bs.length < min m.len b.limit ∧ tr = true) →
      Happens (.messagePayloadDone n bs tr po) is (fun s b => s.payloadIn c bs tr po = some b))))

/-- BAR2 and the device registers (17 R429-R432, R436): a host write stores its bytes in HBM and no other byte changes; an access to a page
marked to a confidential region changes no memory, and a marked page reads as all ones; a register takes what its agent may write; a
nonce is drawn afresh. -/
def Obligations.HostAccesses : Prop :=  (∀ a n, Happens (.hostMemoryRead a n) (fun s => hostSpan a n = true ∧ s.mgmt.recovery = false ∧ s.marked a = false)
      (fun s b => b.mem = s.mem ∧ b.threads = s.threads ∧ s.hostBytes a n = Mem.read s.mem a n) ∧
    Happens (.hostMemoryRead a n) (fun s => hostSpan a n = true ∧ s.mgmt.recovery = false ∧ s.marked a = true)
      (fun s b => b = { s with mgmt := { s.mgmt with cperr := cperrUp s.mgmt.cperr 0 } } ∧ s.hostBytes a n = List.replicate n 0xFF)) ∧
  (∀ a bs, Happens (.hostMemoryWrite a bs) (fun s => hostSpan a bs.length = true ∧ s.mgmt.recovery = false ∧ s.marked a = false ∧
        s.physKind a = .hbm)
      (fun s b => Mem.read b.mem a bs.length = bs ∧ ∀ q, q < a ∨ a + bs.length ≤ q → Mem.get b.mem q = Mem.get s.mem q) ∧
    Happens (.hostMemoryWrite a bs) (fun s => hostSpan a bs.length = true ∧ s.mgmt.recovery = false ∧ s.marked a = true)
      (fun s b => b = { s with mgmt := { s.mgmt with cperr := cperrUp s.mgmt.cperr 32 } }) ∧
    CannotHappen (.hostMemoryWrite a bs) (fun s => hostSpan a bs.length = false ∨ s.mgmt.recovery = true)) ∧
  (∀ who o v, (∀ n, who ≠ .host (.vf n)) →
    Happens (.registerWrite who o v) (fun s => s.mgmt.recovery = false ∨ (0x2000 ≤ o ∧ o ≤ 0x2068)) (fun s b => b = s.devWrite who o v) ∧
    Happens (.registerWrite who o v) (fun s => s.mgmt.recovery = true ∧ (o < 0x2000 ∨ 0x2068 < o)) (fun s b => b = s)) ∧
  (∀ n o v, 0 < n → n < 256 → Happens (.registerWrite (.host (.vf n)) o v) (fun s => s.mgmt.recovery = false)
    (fun s b => b = s.vfWrite n o v)) ∧
  Happens .dbgnonceRead (fun _ => True) (fun s b => b.mgmt.nonceUsed = false ∧ b.mem = s.mem ∧
    ∀ k, k < 4 → vget b.mgmt.nonce k 0 = Config.freeWord (4 * s.tick + k))

/-- The mailbox of function fn (17 R432): a command that it has started ends with BUSY clear and a result; one that fails has changed nothing
but the mailbox. The physical function alone may give all but KEYLOAD. -/
def Obligations.MailboxCommands : Prop := ∀ fn : HostFn,
  let n := fnNum fn
  let fails := fun (s b : State) (code : Nat) => b = s.mbDone n code (vget (s.mailbox n).res 0 0)
  let ends := fun (b : State) (res : Word) => getBit (b.mailbox n).mbstat 0 = false ∧ getField (b.mailbox n).mbstat 8 8 = 0 ∧
    vget (b.mailbox n).res 0 0 = res
  let open' := fun (s : State) (code : Nat) => s.mbBusy n code = true ∧ s.mgmt.recovery = false
  (∀ a t st : Word, n = 0 → 1 ≤ a.toNat → a.toNat ≤ 6 → t &&& ~~~(svcMask a.toNat) = 0 →
      (a.toNat = 1 ∨ a.toNat = 2 → getField t 0 7 < 68) → st.toNat % 16 = 0 →
    Happens (.svcreq fn a t st) (fun s => open' s 0x01 ∧ s.readable st.toNat 16 = true) (fun s b => ends b (BitVec.ofNat 64 s.mgmt.svcNext) ∧
      b.mgmt.svc = s.mgmt.svc ++ [⟨s.mgmt.svcNext, a.toNat, t, st, 0, 0⟩] ∧ b.mgmt.svcNext = s.mgmt.svcNext + 1)) ∧
  (∀ k r, n = 0 → Happens (.svcstat fn k) (fun s => open' s 0x02 ∧ s.mgmt.svc.find? (fun r => r.num == k.toNat) = some r)
    (fun _ b => ends b (BitVec.ofNat 64 r.state))) ∧
  (∀ k, n = 0 → Happens (.svcstat fn k) (fun s => open' s 0x02 ∧ ∀ r ∈ s.mgmt.svc, r.num ≠ k.toNat) (fun s b => fails s b 2)) ∧
  (∀ rid blob owner p, n = 0 → Happens (.keyload fn rid blob owner) (fun s => open' s 0x10 ∧ s.validRegion rid.toNat = true ∧
        s.readable blob.toNat 512 = true ∧ s.readable owner.toNat 516 = true ∧ (s.region rid.toNat).conf = true ∧
        Tbl.find (s.region rid.toNat).keyidx s.mgmt.keys = none ∧ s.hasTeam rid.toNat = false ∧
        Config.oaepDecrypt (Mem.read s.mem blob.toNat 512) = some p ∧ p.length = 0x90 ∧ leAt p 0x80 2 = rid.toNat ∧ zerosAt p 0x82 14 = true ∧
        Config.sha512 (Mem.read s.mem owner.toNat 516) = (p.drop 0x40).take 64)
      (fun s b => ends b 0 ∧ Tbl.find (s.region rid.toNat).keyidx b.mgmt.keys = some (p.take 64) ∧
        Tbl.find (s.region rid.toNat).keyidx b.mgmt.owners = some (Mem.read s.mem owner.toNat 516))) ∧
  (∀ rid page pages, n = 0 →
    let cells := fun (s b : State) (r : Nat) => ends b 0 ∧
      (∀ q, page.toNat ≤ q → q < page.toNat + pages.toNat * 4096 → Mem.get b.mem q = 0 ∧ NMap.get b.mgmt.cpmap (q / 4096) = r) ∧
      ∀ q, q < page.toNat ∨ page.toNat + pages.toNat * 4096 ≤ q → Mem.get b.mem q = Mem.get s.mem q ∧
        NMap.get b.mgmt.cpmap (q / 4096) = NMap.get s.mgmt.cpmap (q / 4096)
    Happens (.cpassign fn rid page pages) (fun s => open' s 0x11 ∧ s.cpArgs rid page pages = true) (fun s b => cells s b (rid.toNat + 1)) ∧
    Happens (.cprelease fn rid page pages) (fun s => open' s 0x12 ∧ s.cpArgs rid page pages = true) (fun s b => cells s b 0) ∧
    Happens (.cpassign fn rid page pages) (fun s => open' s 0x11 ∧ s.cpArgs rid page pages = false) (fun s b => fails s b 2)) ∧
  (∀ im len fl, n = 0 → (fl = 0 ∨ fl = 1) → len ≠ 0 → im.toNat + len.toNat ≤ 2 ^ 52 →
    let ok := fun (s : State) => open' s 0x20 ∧ s.readable im.toNat len.toNat = true
    let bytes := fun (s : State) => Mem.read s.mem im.toNat len.toNat
    Happens (.fwload fn im len fl) (fun s => ok s ∧ Config.rsaVerify (bytes s) = false) (fun s b => fails s b 4) ∧
    Happens (.fwload fn im len fl) (fun s => ok s ∧ Config.rsaVerify (bytes s) = true ∧ Config.fwVersion (bytes s) < s.mgmt.fusedMin)
      (fun s b => fails s b 3) ∧
    Happens (.fwload fn im len fl) (fun s => ok s ∧ Config.rsaVerify (bytes s) = true ∧ s.mgmt.fusedMin ≤ Config.fwVersion (bytes s) ∧
        s.mgmt.bankActive < 2)
      (fun s b => ends b (BitVec.ofNat 64 (Config.fwVersion (bytes s))) ∧ b.mgmt.bankActive = 1 - s.mgmt.bankActive ∧
        vget b.mgmt.banks (1 - s.mgmt.bankActive) ⟨[], false⟩ = ⟨bytes s, true⟩ ∧
        b.mgmt.fusedMin = if fl = 1 then Config.fwVersion (bytes s) else s.mgmt.fusedMin)) ∧
  (∀ code, code ∉ [0x01, 0x02, 0x10, 0x11, 0x12, 0x20] →
    Happens (.unknownCommandCode fn code) (open' · code) (fun s b => fails s b (if n = 0 then 1 else 5))) ∧
  (n ≠ 0 → ∀ a b c : Word, ∀ i ∈ [(Instr.svcreq fn a b c, 0x01), (.svcstat fn a, 0x02), (.cpassign fn a b c, 0x11),
    (.cprelease fn a b c, 0x12), (.fwload fn a b c, 0x20)], Happens i.1 (open' · i.2) (fun s b => fails s b 5))

/-- SPDM requests (17 R434): each is answered by one response and changes nothing else; in recovery none is.
iddify (08 R227, R228, 17 R438): an attach sets DBG in every thread of its team; to a confidential team it needs its owner's signature over
a fresh nonce, and without one changes nothing; a halt stops the team's threads until a resume; a step lets one thread go on for one
convoy; a step to align brings the lanes to the recorded convoy. -/
def Obligations.AttestationAndDebugger : Prop :=
  ((∀ (offer nonce : List Byte) (slot off len : Nat), ∀ i ∈ [
      (Instr.getVersion, Config.spdmHeader 0x84 []), (.getCapabilities, Config.spdmHeader 0xE1 []),
      (.negotiateAlgorithms offer, Config.spdmHeader 0xE3 offer),
      (.getDigests, Config.spdmHeader 0x81 [] ++ Config.sha512 (Config.certChain 0)),
      (.getCertificate slot off len, Config.spdmHeader 0x82 (bytesOf 4 slot) ++ ((Config.certChain slot).drop off).take len),
      (.challenge nonce, signed (Config.spdmHeader 0x83 nonce ++ Config.sha512 (Config.certChain 0)))],
    Happens i.1 (fun s => s.mgmt.recovery = false) (fun s b => b = { s with mgmt := { s.mgmt with spdm := s.mgmt.spdm ++ [i.2] } }) ∧
    CannotHappen i.1 (fun s => s.mgmt.recovery = true)) ∧
  (∀ k nonce m, Happens (.getMeasurements k nonce) (fun s => s.mgmt.recovery = false ∧ s.measurement k = some m)
    (fun s b => b = { s with mgmt := { s.mgmt with
      spdm := s.mgmt.spdm ++ [signed (Config.spdmHeader 0xE0 (bytesOf 1 k ++ nonce) ++ m)] } }))) ∧
  (∀ k,
  let live := fun (s : State) => k < s.teams.length ∧ (s.tm k).state ≠ .ended
  let attached := fun (s b : State) => (b.tm k).dbg = true ∧ ∀ t ∈ s.teamThreads k, getBit (b.th t).sys.status stDBG = true
  Happens (.iddifyAttach k) (fun s => live s ∧ (s.region (s.tm k).rid).conf = false) attached ∧
  CannotHappen (.iddifyAttach k) (fun s => (s.region (s.tm k).rid).conf = true) ∧
  (∀ sig key, let conf := fun (s : State) => live s ∧ (s.region (s.tm k).rid).conf = true ∧
      Tbl.find (s.region (s.tm k).rid).keyidx s.mgmt.owners = some key
    let signs := fun (s : State) => Config.pssVerify key (bytesOf 2 (s.tm k).rid ++ wordsBytes s.mgmt.nonce.toList) sig
    Happens (.confidentialAttach k sig) (fun s => conf s ∧ s.mgmt.nonceUsed = false ∧ signs s = true)
      (fun s b => attached s b ∧ b.mgmt.nonceUsed = true) ∧
    Happens (.confidentialAttach k sig) (fun s => conf s ∧ (s.mgmt.nonceUsed = true ∨ signs s = false)) (fun s b => b = s)) ∧
  Happens (.debugHalt k) (fun s => live s ∧ (s.tm k).dbg = true ∧ (s.tm k).halted = false ∧ (s.tm k).state ≠ .saved)
    (fun s b => (b.tm k).halted = true ∧ ∀ t ∈ s.teamThreads k, (b.th t).stepReq = false → b.runnable t = false) ∧
  Happens (.debugResume k) (fun s => live s ∧ (s.tm k).halted = true)
    (fun s b => (b.tm k).halted = false ∧ b.threads = s.threads ∧ b.mem = s.mem) ∧
  (∀ t, Happens (.convoyStep t) (fun s => t < s.threads.length ∧ (s.th t).team < s.teams.length ∧ (s.tm (s.th t).team).state ≠ .ended ∧
      (s.tm (s.th t).team).dbg = true ∧ (s.tm (s.th t).team).state ≠ .saved ∧ (s.th t).kind ≠ .supervisor ∧ (s.th t).stepReq = false ∧
      (s.th t).run ≠ .done ∧ (s.th t).run ≠ .endedStopped ∧ (s.th t).active = true)
    (fun s b => (b.th t).stepReq = true ∧ (b.th t).run ≠ .stopped ∧ (b.th t).x = (s.th t).x ∧ b.mem = s.mem)) ∧
  (∀ t, Happens (.stepToAlign t) (fun s => (s.th t).kind = .strand ∧ (s.th t).active = true ∧ (s.th t).run = .stopped ∧
      (s.tm (s.th t).team).dbg = true)
    (fun s b => b = (State.alignRounds ((s.th t).sys.trapseq.setWidth 32) t ((s.th t).window.length + 2) s).modTh t
      fun th => th.alignBlock.rewind)))

/-! ### Power, service and reset (01, 04, 17, 18) -/

/-- Power (18 R439-R443): a capping window records the power and leaves every die's step within its limits, at 16 during a thermal stop; a
thermal limit raises its die by one step at once, the stop raises every die to 16; a stretch is counted; a power-off loses every
context and keeps the sensor in the service record.
The patrol scrub (04 R112, 18 R444) changes no byte of memory and clears no poison; a DIRTY sector is skipped; an uncorrectable error poisons
its sector. -/
def Obligations.PowerAndScrub : Prop :=
  (let calm := fun (s : State) => ∀ d, d < 4 → vget s.mgmt.thermal d 0 = 0
  let limits := fun (s : State) => ∀ d, d < 4 → s.minStep d ≤ s.maxStep d ∧ s.maxStep d ≤ 16
  (∀ w dp, Happens (.cappingWindow w dp) (fun s => limits s ∧ calm s ∧ s.mgmt.thermalStop = false)
      (fun s b => getField b.mgmt.pwrstat 32 32 = w % 2 ^ 32 ∧ b.mem = s.mem ∧
        ∀ d, d < 4 → s.minStep d ≤ b.curStep d ∧ b.curStep d ≤ s.maxStep d) ∧
    Happens (.cappingWindow w dp) (fun s => s.mgmt.thermalStop = true) (fun _ b => ∀ d, d < 4 → b.curStep d = 16) ∧
    (∀ x, x < 4 → Happens (.cappingWindow w dp) (fun s => limits s ∧ calm s ∧ s.mgmt.thermalStop = false ∧
        getBit s.mgmt.pwrcap 31 = false ∧ getField s.mgmt.pwrcap 0 13 < w ∧ (∀ d, d < 4 → s.curStep d < s.maxStep d) ∧
        (∀ d, d < 4 → s.minStep d ≤ s.curStep d) ∧
        (∀ d, d < 4 → d ≠ x → dp.getD d 0 < dp.getD x 0))
      (fun s b => getBit b.mgmt.pwrstat 0 = true ∧ ∀ d, d < 4 → b.curStep d = if d = x then s.curStep d + 1 else s.curStep d))) ∧
  (∀ d, d < 4 → Happens (.thermalLimit d true) (fun s => s.mgmt.restarting = false ∧ vget s.mgmt.thermal d 0 = 0)
      (fun s b => b.curStep d = min 16 (s.curStep d + 1) ∧ (s.curStep d < 16 → getBit b.mgmt.pwrstat 1 = true) ∧
        ∀ e, e ≠ d → b.die e = s.die e) ∧
    Happens (.thermalLimit d false) (fun s => s.mgmt.restarting = false)
      (fun s b => vget b.mgmt.thermal d 0 = 0 ∧ b.dies = s.dies)) ∧
  Happens .thermalStop (fun s => s.mgmt.restarting = false) (fun s b => b.mgmt.thermalStop = true ∧ b.teams = s.teams ∧
    ∀ d, d < 4 → b.curStep d = 16) ∧
  Happens .thermalStopEnd (fun s => s.mgmt.thermalStop = true ∧ s.mgmt.restarting = false)
    (fun s b => b.mgmt.thermalStop = false ∧ b.dies = s.dies ∧ ∀ d, d < 4 → .post .schedulingPass d 0 ∈ b.inbox) ∧
  (∀ n, Happens (.thermalPowerOff n) (fun s => s.mgmt.restarting = false) (fun s b => b.mgmt.powered = false ∧ b.threads = [] ∧
      b.mgmt.record = s.mgmt.record ++ [n]) ∧
    ∀ (i : Instr) (s s' : State), s.mgmt.powered = true → s.mgmt.restarting = false → exec (.thermalPowerOff n) s = .next s' →
      i ∈ [Instr.thermalStop, .dbgnonceRead, .getVersion, .hostMemoryRead 0 1] → exec i s' = .fault .poweredOff) ∧
  (∀ d c n, d < 4 → c < 68 → Happens (.droopStretch d c n) (fun s => Tbl.find (cluKey d c) s.clusters ≠ none)
    (fun s b => (b.clu (cluKey d c)).stretches = (s.clu (cluKey d c)).stretches + n ∧ b.mem = s.mem ∧ b.threads = s.threads))) ∧
  (∀ w out d sl,
  Happens (.patrolScrub w out) (fun s => s.homeOf (w * 64) = some (d, sl) ∧ s.physKind (w * 64) ≠ .absent) (fun s b =>
    b.mem = s.mem ∧ b.threads = s.threads ∧ (∀ k, NSet.mem k s.poison = true → NSet.mem k b.poison = true) ∧
    (s.dirtyIn d w = true → b = s) ∧ (out = .clean → b = s) ∧
    (s.dirtyIn d w = false → out = .uncorrectable → NSet.mem w b.poison = true)))

/-- Service actions (17 R433, 18 R445-R448): the next request of its queue, on a unit that is in use and empty, ends with its result and its
status record: a lane gives way to its group's spare, a cluster to a spare cluster, a slice to its partner, a pseudo-channel that no
page maps leaves use, a port is withdrawn, a firmware bank that verifies becomes active. A unit not in use has result 1. -/
def Obligations.ServiceActions : Prop := ∀ (n ms : Nat) (r : SvcReq),
  let turn := fun (s : State) (act : Nat) => s.svcTurn n act = some r
  let ended := fun (b : State) (res : Nat) => ∃ x ∈ b.mgmt.svc, x.num = n ∧ x.state = 2 ∧ x.result = res
  let k := svcCluster r.target
  let g := getField r.target 12 2
  Happens (.laneSparing n ms) (fun s => turn s 1 ∧ (s.clu k).enabled = true ∧ s.teamsOn k = [] ∧ (s.clu k).spareUsed.getLsbD g = false)
    (fun _ b => ended b 0 ∧ (b.clu k).spareUsed.getLsbD g = true ∧ (b.clu k).enabled = true ∧
      (b.clu k).retiredLanes.getLsbD (g * 8 + getField r.target 16 3) = true) ∧
  Happens (.clusterRetirement n ms) (fun s => turn s 2 ∧ (s.clu k).enabled = false) (fun s b => ended b 1 ∧ b.clusters = s.clusters) ∧
  (∀ c, Happens (.clusterRetirement n ms) (fun s => turn s 2 ∧ (s.clu k).enabled = true ∧ s.teamsOn k = [] ∧
      (List.range 68).find? (fun c => (s.clu (cluKey (k / 128) c)).spare && !(s.clu (cluKey (k / 128) c)).retired) = some c ∧
      cluKey (k / 128) c ≠ k ∧ Tbl.find (cluKey (k / 128) c) s.clusters ≠ none)
    (fun _ b => ended b 0 ∧ (b.clu k).enabled = false ∧ (b.clu k).retired = true ∧ (b.clu k).redirect = some (cluKey (k / 128) c) ∧
      (b.clu (cluKey (k / 128) c)).enabled = true)) ∧
  (∀ tm, Happens (.clusterRetirement n ms) (fun s => turn s 2 ∧ (s.clu k).enabled = true ∧ tm ∈ s.teamsOn k ∧ (s.tm tm).state = .running ∧
      tm < s.teams.length)
    (fun s b => (b.tm tm).state = .preempting false ∧ (b.clu k).enabled = true ∧ b.mem = s.mem)) ∧
  Happens (.sliceRetirement n ms) (fun s => turn s 3 ∧ NSet.mem (getField r.target 20 6) (s.die (getField r.target 8 2)).remap = false ∧
      NSet.mem (getField r.target 20 6 ^^^ 32) (s.die (getField r.target 8 2)).remap = false ∧ 2 * (s.die (getField r.target 8 2)).ns ≤ 24)
    (fun _ b => ended b 0 ∧ NSet.mem (getField r.target 20 6) (b.die (getField r.target 8 2)).remap = true) ∧
  Happens (.pseudoChannelRetirement n ms) (fun s => turn s 4 ∧
      s.regions.any (fun e => s.tableMaps (getField r.target 32 5 * 64 + getField r.target 40 6) 3 (s.region e.1).root) = false)
    (fun _ b => ended b 0 ∧ NSet.mem (getField r.target 32 5 * 64 + getField r.target 40 6) b.mgmt.pcRetired = true) ∧
  Happens (.portWithdrawal n ms) (turn · 5) (fun _ b => ended b 0 ∧ (vget b.ports (getField r.target 48 5) Port.reset).wdraw = true) ∧
  (let bank := fun (s : State) => vget s.mgmt.banks s.inactiveBank ⟨[], false⟩
   let good := fun (s : State) => (bank s).valid = true ∧ Config.rsaVerify (bank s).image = true ∧
     s.mgmt.fusedMin ≤ Config.fwVersion (bank s).image
   Happens (.firmwareUpdateAction n ms) (fun s => turn s 6 ∧ good s) (fun s b => ended b 0 ∧ b.mgmt.bankActive = 1 - s.mgmt.bankActive) ∧
   Happens (.firmwareUpdateAction n ms) (fun s => turn s 6 ∧ ¬ good s) (fun s b => ended b 1 ∧ b.mgmt.bankActive = s.mgmt.bankActive)) ∧
  (∀ i ∈ [Instr.laneSparing n ms, .clusterRetirement n ms, .sliceRetirement n ms, .pseudoChannelRetirement n ms, .portWithdrawal n ms,
    .firmwareUpdateAction n ms], CannotHappen i (fun s => ∀ x ∈ s.mgmt.svc, x.num ≠ n))

/-- A module reset (01 R31), from any state: no team, member, command, region or table entry is left, HBM reads zero (the model's
choice, assumption log 3), host memory stays the host's, retired units stay retired, and the bank that verifies runs. -/
def Obligations.ModuleReset : Prop := ∀ (ok0 ok1 : Bool) (dead : BitVec 4) (bad : List (Nat × Nat)) (s : State),
  Gives (exec (.moduleReset ok0 ok1 dead bad) s) fun b =>
    b.teams = [] ∧ b.members = [] ∧ b.cmds = [] ∧ b.regions = [] ∧ b.formes = [] ∧ b.endpoints = [] ∧
    b.fab = State.reset.fab ∧ b.mgmt.keys = [] ∧ b.mgmt.svc = [] ∧ b.mgmt.record = s.mgmt.record ∧ b.mgmt.fusedMin = s.mgmt.fusedMin ∧
    b.mgmt.powered = true ∧ b.mgmt.recovery = (!ok0 && !ok1) ∧
    (s.mgmt.bankActive = 0 → ok0 = true → b.mgmt.bankActive = 0) ∧ (s.mgmt.bankActive = 0 → ok0 = false → ok1 = true → b.mgmt.bankActive = 1) ∧
    (∀ a, Mem.get b.mem a = if hostBase ≤ a then Mem.get s.mem a else 0) ∧
    (∀ k, (b.clu k).retired = (s.clu k).retired ∧ (b.clu k).enabled = (s.clu k).enabled ∧ (b.clu k).redirect = (s.clu k).redirect ∧
      (b.clu k).cycle = 0) ∧
    (∀ d, d < 4 → (dead.getLsbD d = true → (b.die d).off = true) ∧ (b.die d).remap = (s.die d).remap ∧ (b.die d).tlb = [] ∧
      (b.die d).ns = 0) ∧
    (∀ e ∈ bad, e.1 < 32 → e.2 < 64 → NSet.mem (e.1 * 64 + e.2) b.mgmt.pcRetired = true)

/-! ### Steps and encodings (02, 06, 10, 15, 16) -/

/-- A step runs the decoded instruction: when strand t moves, the first unit at the head of its queue, which is filled first when it is empty,
runs, and the counts that depend on timing pass (assumption log 9); with an empty queue that unit is what the words at the PC decode
to. A control thread runs its word, a walker its word, a waiting event happens; a word that decodes to nothing traps ILLEGAL or halts the
walker. -/
def Obligations.StepRunsDecoded : Prop :=  (∀ s s1 t, s.nextMove = (s1, .agent (.thread t)) →
    let s2 : State := { s1 with cur := .thread t }
    s2.unanswered t = false →
    ((s2.th t).kind ≠ .control →
      (∀ u us, ((s2.filled t).th t).head.units = u :: us → step s = withCounts t (exec u.instr (s2.filled t))) ∧
      (∀ s3 i ws, (s2.th t).queue = [] → s2.fetchUnit t (s2.th t).pc = (s3, .ok (i, ws)) →
        (isVector i = false ∧ unitC ws = false) ∨ (isVector i = true ∧ unitC ws = false) →
        step s = withCounts t (exec i (s3.modTh t fun th => th.enqueue (s2.th t).pc [⟨i, 4 * ws.length⟩] none))) ∧
      (∀ s3 tr, (s2.th t).queue = [] → s2.fetchUnit t (s2.th t).pc = (s3, .error tr) →
        step s = withCounts t (execMarked (s3.modTh t fun th => th.enqueue (s2.th t).pc [] (some tr)) t))) ∧
    ((s2.th t).kind = .control → ∀ s3 w, s2.fetchCtl t = (s3, .ok w) →
      (∀ i, decodeControl w = .ok i → step s = withCounts t (exec i s3)) ∧
      (∀ e, decodeControl w = .error e → step s = withCounts t (execBadWord (causeTrap 0x01) s3)))) ∧
  (∀ s s1 k s3 w, s.nextMove = (s1, .agent (.walker k)) → State.fetchWalker { s1 with cur := .walker k } k = (s3, .ok w) →
    (∀ i, decodeWalker w = .ok i → step s = exec i s3) ∧
    (∀ e, decodeWalker w = .error e → step s = .next ((s3.haltWalker k 0x01 none).tickWalker k))) ∧
  (∀ s s1 i, s.nextMove = (s1, .event (.ext i)) → step s = exec i s1) ∧
  (∀ (s s1 : State) t pc a c,
    s.access (s.ctxOf t) .fetch false pc 4 = (s1, .ok [⟨.phys a c, 4⟩]) →
    ∀ i, decodeStrand [Mem.readNat s1.mem a 4] = .ok i → (s.fetchUnit t pc).2 = .ok (i, [Mem.readNat s1.mem a 4])) ∧
  (∀ (s s1 : State) t a c, s.access (s.ctxOf t) .fetch false (s.th t).pc 8 = (s1, .ok [⟨.phys a c, 8⟩]) →
    (s.fetchCtl t).2 = .ok (Mem.readNat s1.mem a 8))

/-- Words of the spec's own tables decode to what they stand for (10 R265 and its examples, 11, 12, 13 and 20's assembled words). -/
def Obligations.DecodeWords : Prop :=  decodeStrand [0xFFE02020] = .ok (.addi 4 0 0x7FF) ∧ decodeStrand [0x028A28C0] = .ok (.ld .i32 5 10 2) ∧
  decodeStrand [0x80E62910] = .ok (.fadd .f32 5 6 7) ∧ decodeStrand [0xFFA52220] = .ok (.blt 4 5 0x7FD) ∧
  decodeStrand [0x00004FE2, 0x89ABCDEF, 0x01234567] = .ok (.lit 9 0x0123456789ABCDEF) ∧
  decodeStrand [0x94411BD0] = .ok (.vfadd ⟨false, true, false, true, none⟩ .f32 3 1 2) ∧
  decodeStrand [0x606A2520] = .ok (.vstxo ⟨false, false, false, false, none⟩ 3 10 4) ∧
  decodeStrand [0] = .error .zeroWord ∧ decodeStrand [0x80A41BD8] = .error .orphanFirst ∧
  decodeControl 0x000281070C611C05 = .ok (.ccAdd ⟨7, 33, 49, 48, 1, 0, 1, 5⟩) ∧
  decodeControl 0x000000405C031881 = .ok (.ccLd ⟨6, 3, 48, 5, 0, 2, 0, 0⟩) ∧
  decodeWalker 0xAF10 = .ok (.wld 0xC 0xB 2 0) ∧ decodeWalker 0xFFE80232 = .ok (.wloop 8 0x3FFA) ∧ decodeWalker 0 = .error .illegal

/-- Strand base words below MAJOR 0x30 (10 R253, R256, R261-R263): every well-formed instruction decodes from its word.
Vector words, with and without a prefix (10 R254, R255): every well-formed instruction decodes from its words.
Units of three and of five words (10 R264, 11 R280): every well-formed instruction decodes from its words. -/
def Obligations.EncodingStrand : Prop :=
  (∀ (i : Instr) (w : Nat), WellFormed i = true → isWalkerWord i = false → encode i = [w] →
  fld w 4 7 < 0x30 → decodeStrand [w] = .ok i) ∧
  (∀ i : Instr, WellFormed i = true → isWalkerWord i = false → opOf i = none →
  ((∃ w, encode i = [w] ∧ 0x30 ≤ fld w 4 7) ∨ (encode i).length = 2) → decodeStrand (encode i) = .ok i) ∧
  (∀ i : Instr, WellFormed i = true → 3 ≤ (encode i).length → decodeStrand (encode i) = .ok i)

/-- Control words and walker words (10 R265-R267): every well-formed instruction decodes from its word, which has 64 or 32 bits. -/
def Obligations.EncodingControlWalker : Prop :=  (∀ (i : Instr) (op : Nat) (c : CW), opOf i = some (op, c) → WellFormed i = true →
    encCW op c < 2 ^ 64 ∧ decodeControl (encCW op c) = .ok i ∧ encode i = [encCW op c % 2 ^ 32, encCW op c / 2 ^ 32]) ∧
  (∀ i : Instr, isWalkerWord i = true → ∃ w, w < 2 ^ 32 ∧ encode i = [w] ∧ decodeWalker w = .ok i)
end

