-- ==== Sys2Proof/Laws/Memory.lean ====
section
/-! SUPPORT. Sparse tables and byte memories: what a read finds after an update, and that every operation keeps the canonical
form. -/

namespace Sys2Proof.Machine

variable {α : Type}

/-! ### Tables -/

theorem Tbl.above_of_lt {b c : Nat} (t : Tbl α) (h : b ≤ c) (hc : Tbl.above (some c) t = true) : Tbl.above (some b) t = true := by
  cases t with
  | nil => rfl
  | cons e t => simp only [Tbl.above, Bool.and_eq_true, decide_eq_true_eq] at hc ⊢; exact ⟨by omega, hc.2⟩

theorem Tbl.above_insert (k : Nat) (v : α) : ∀ (t : Tbl α) (b : Option Nat), Tbl.above b t = true →
    (∀ n, b = some n → n < k) → Tbl.above b (Tbl.insert k v t) = true
  | [], b, _, hb => by cases b <;> simp_all [Tbl.insert, Tbl.above]
  | (j, w) :: t, b, h, hb => by
    simp only [Tbl.above, Bool.and_eq_true] at h
    simp only [Tbl.insert]
    split
    · next hlt =>
      simp only [Tbl.above, Bool.and_eq_true, decide_eq_true_eq]
      refine ⟨?_, hlt, h.2⟩
      cases b with
      | none => rfl
      | some n => simpa using hb n rfl
    · split
      · next e =>
        subst e
        simp only [Tbl.above, Bool.and_eq_true]
        exact h
      · next h1 h2 =>
        simp only [Tbl.above, Bool.and_eq_true]
        exact ⟨h.1, Tbl.above_insert k v t (some j) h.2 (by intro n hn; cases hn; omega)⟩

theorem Tbl.above_none_of {b : Option Nat} (t : Tbl α) (h : Tbl.above b t = true) : Tbl.above none t = true := by
  cases t with
  | nil => rfl
  | cons e t => simp only [Tbl.above, Bool.and_eq_true] at h ⊢; exact ⟨trivial, h.2⟩

theorem Tbl.above_erase (k : Nat) : ∀ (t : Tbl α) (b : Option Nat), Tbl.above b t = true → Tbl.above b (Tbl.erase k t) = true
  | [], _, _ => rfl
  | (j, w) :: t, b, h => by
    simp only [Tbl.above, Bool.and_eq_true] at h
    simp only [Tbl.erase]
    have h2 := Tbl.above_erase k t (some j) h.2
    split
    · cases b with
      | none => exact Tbl.above_none_of _ h2
      | some n => exact Tbl.above_of_lt _ (Nat.le_of_lt (by simpa using h.1)) h2
    · simp only [Tbl.above, Bool.and_eq_true]; exact ⟨h.1, h2⟩

theorem Tbl.sorted_insert (k : Nat) (v : α) (t : Tbl α) (h : Tbl.sorted t = true) : Tbl.sorted (Tbl.insert k v t) = true :=
  Tbl.above_insert k v t none h (by intro n hn; cases hn)

theorem Tbl.sorted_erase (k : Nat) (t : Tbl α) (h : Tbl.sorted t = true) : Tbl.sorted (Tbl.erase k t) = true :=
  Tbl.above_erase k t none h

theorem Tbl.above_filter (p : Nat × α → Bool) : ∀ (t : Tbl α) (b : Option Nat), Tbl.above b t = true →
    Tbl.above b (t.filter p) = true
  | [], _, _ => rfl
  | (j, w) :: t, b, h => by
    simp only [Tbl.above, Bool.and_eq_true] at h
    rw [List.filter_cons]
    split
    · simp only [Tbl.above, Bool.and_eq_true]; exact ⟨h.1, Tbl.above_filter p t (some j) h.2⟩
    · have := Tbl.above_filter p t (some j) h.2
      cases b with
      | none => revert this; cases t.filter p with
        | nil => simp [Tbl.above]
        | cons e r => simp [Tbl.above]
      | some n => exact Tbl.above_of_lt _ (by simpa using Nat.le_of_lt (by simpa using h.1)) this

/-- An updated table finds the new entry at its key. -/
theorem Tbl.find_insert (k : Nat) (v : α) : ∀ t : Tbl α, Tbl.find k (Tbl.insert k v t) = some v
  | [] => by simp [Tbl.insert, Tbl.find]
  | (j, w) :: t => by
    simp only [Tbl.insert]
    split
    · simp [Tbl.find]
    · split
      · simp [Tbl.find]
      · next h1 h2 => simp only [Tbl.find]; rw [if_neg h2]; exact Tbl.find_insert k v t

/-- Every other key finds what it found. -/
theorem Tbl.find_insert_ne (k : Nat) (v : α) (q : Nat) (hq : q ≠ k) : ∀ t : Tbl α, Tbl.find q (Tbl.insert k v t) = Tbl.find q t
  | [] => by simp [Tbl.insert, Tbl.find, hq]
  | (j, w) :: t => by
    simp only [Tbl.insert]
    split
    · simp [Tbl.find, hq]
    · split
      · next h => subst h; simp [Tbl.find, hq]
      · simp only [Tbl.find]; rw [Tbl.find_insert_ne k v q hq t]

/-- An erased key is not found. -/
theorem Tbl.find_erase (k : Nat) : ∀ t : Tbl α, Tbl.find k (Tbl.erase k t) = none
  | [] => rfl
  | (j, w) :: t => by
    simp only [Tbl.erase]
    split
    · exact Tbl.find_erase k t
    · next h => simp only [Tbl.find]; rw [if_neg h]; exact Tbl.find_erase k t

/-- Every other key finds what it found. -/
theorem Tbl.find_erase_ne (k q : Nat) (hq : q ≠ k) : ∀ t : Tbl α, Tbl.find q (Tbl.erase k t) = Tbl.find q t
  | [] => rfl
  | (j, w) :: t => by
    simp only [Tbl.erase]
    split
    · next h => subst h; simp only [Tbl.find]; rw [if_neg hq]; exact Tbl.find_erase_ne k q hq t
    · simp only [Tbl.find]; rw [Tbl.find_erase_ne k q hq t]

/-- Keeping the entries of some keys: those keys find what they found, no other key finds anything. -/
theorem Tbl.find_keep (p : Nat → Bool) (q : Nat) : ∀ t : Tbl α,
    Tbl.find q (Tbl.keep (fun k _ => p k) t) = if p q then Tbl.find q t else none
  | [] => by simp [Tbl.keep, Tbl.find]
  | (j, w) :: t => by
    have ih := Tbl.find_keep p q t
    unfold Tbl.keep at ih ⊢
    rw [List.filter_cons]
    by_cases e : q = j
    · subst e
      cases hp : p q <;> simp_all [Tbl.find]
    · simp only [Tbl.find, if_neg e]
      split
      · simp only [Tbl.find, if_neg e]; exact ih
      · exact ih

/-! ### Number maps -/

theorem NMap.get_set (m : NMap) (k v : Nat) : NMap.get (NMap.set m k v) k = v := by
  unfold NMap.get NMap.set
  split
  · next e => rw [Tbl.find_erase, e]; rfl
  · rw [Tbl.find_insert]; rfl

theorem NMap.get_set_ne (m : NMap) (k q v : Nat) (hq : q ≠ k) : NMap.get (NMap.set m k v) q = NMap.get m q := by
  unfold NMap.get NMap.set
  split
  · rw [Tbl.find_erase_ne k q hq]
  · rw [Tbl.find_insert_ne k v q hq]

/-! ### Memories -/

theorem Mem.sorted_of_wf {m : Mem} (h : Mem.wf m = true) : Tbl.sorted m = true := by
  simp only [Mem.wf, Bool.and_eq_true] at h; exact h.1

/-- Writing a byte keeps the canonical form. -/
theorem Mem.wf_set (m : Mem) (a : Nat) (b : Byte) (h : Mem.wf m = true) : Mem.wf (Mem.set m a b) = true := by
  simp only [Mem.wf, Bool.and_eq_true] at h ⊢
  unfold Mem.set
  split
  · refine ⟨Tbl.sorted_erase a m h.1, ?_⟩
    have : ∀ (t : Mem), (t.all fun c => c.2 != 0) = true → ((Tbl.erase a t).all fun c => c.2 != 0) = true := by
      intro t
      induction t with
      | nil => intro h; exact h
      | cons e t ih =>
        intro h
        simp only [List.all_cons, Bool.and_eq_true] at h
        simp only [Tbl.erase]
        split
        · exact ih h.2
        · simp only [List.all_cons, Bool.and_eq_true]; exact ⟨h.1, ih h.2⟩
    exact this m h.2
  · next hb =>
    refine ⟨Tbl.sorted_insert a b m h.1, ?_⟩
    have : ∀ (t : Mem), (t.all fun c => c.2 != 0) = true → ((Tbl.insert a b t).all fun c => c.2 != 0) = true := by
      intro t
      induction t with
      | nil => intro _; simp only [Tbl.insert, List.all_cons, List.all_nil, Bool.and_true]; simpa using hb
      | cons e t ih =>
        intro h
        simp only [List.all_cons, Bool.and_eq_true] at h
        simp only [Tbl.insert]
        have hb' : (b != 0) = true := by simpa using hb
        split
        · simp only [List.all_cons, Bool.and_eq_true]; exact ⟨hb', h⟩
        · split
          · simp only [List.all_cons, Bool.and_eq_true]; exact ⟨hb', h.2⟩
          · simp only [List.all_cons, Bool.and_eq_true]; exact ⟨h.1, ih h.2⟩
    exact this m h.2

/-- The byte just written is read back. -/
theorem Mem.get_set (m : Mem) (a : Nat) (b : Byte) : Mem.get (Mem.set m a b) a = b := by
  unfold Mem.get Mem.set
  split
  · next e => rw [Tbl.find_erase, e]; rfl
  · rw [Tbl.find_insert]; rfl

/-- Every other byte reads as before. -/
theorem Mem.get_set_ne (m : Mem) (a q : Nat) (b : Byte) (hq : q ≠ a) : Mem.get (Mem.set m a b) q = Mem.get m q := by
  unfold Mem.get Mem.set
  split
  · rw [Tbl.find_erase_ne a q hq]
  · rw [Tbl.find_insert_ne a b q hq]

/-- Writing bytes keeps the canonical form. -/
theorem Mem.wf_write (bs : List Byte) : ∀ (m : Mem) (a : Nat), Mem.wf m = true → Mem.wf (Mem.write m a bs) = true := by
  induction bs with
  | nil => intro m a h; exact h
  | cons b bs ih => intro m a h; exact ih _ _ (Mem.wf_set m a b h)

theorem Mem.wf_writeNat (m : Mem) (a n v : Nat) (h : Mem.wf m = true) : Mem.wf (Mem.writeNat m a n v) = true :=
  Mem.wf_write _ m a h

/-- A byte below or above the bytes written reads as before. -/
theorem Mem.get_write_out (bs : List Byte) : ∀ (m : Mem) (a q : Nat), (q < a ∨ a + bs.length ≤ q) →
    Mem.get (Mem.write m a bs) q = Mem.get m q := by
  induction bs with
  | nil => intro m a q _; rfl
  | cons b bs ih =>
    intro m a q hq
    have hl : (b :: bs).length = bs.length + 1 := rfl
    rw [hl] at hq
    show Mem.get (Mem.write (Mem.set m a b) (a + 1) bs) q = _
    rw [ih _ _ _ (by omega), Mem.get_set_ne m a q b (by omega)]

/-- Byte k of the bytes written is read back. -/
theorem Mem.get_write (bs : List Byte) : ∀ (m : Mem) (a k : Nat) (hk : k < bs.length),
    Mem.get (Mem.write m a bs) (a + k) = bs[k] := by
  induction bs with
  | nil => intro m a k hk; exact absurd hk (by simp)
  | cons b bs ih =>
    intro m a k hk
    show Mem.get (Mem.write (Mem.set m a b) (a + 1) bs) (a + k) = _
    cases k with
    | zero => rw [Mem.get_write_out bs _ _ _ (by omega)]; exact Mem.get_set m a b
    | succ k =>
      have := ih (Mem.set m a b) (a + 1) k (by simpa using hk)
      rw [show a + (k + 1) = a + 1 + k by omega, this]; rfl

theorem Mem.wf_filter (m : Mem) (p : Nat × Byte → Bool) (h : Mem.wf m = true) : Mem.wf (m.filter p) = true := by
  simp only [Mem.wf, Bool.and_eq_true] at h ⊢
  refine ⟨Tbl.above_filter p m none h.1, ?_⟩
  simp only [List.all_eq_true] at h ⊢
  intro c hc
  exact h.2 c (List.mem_filter.mp hc).1

/-- Clearing a range keeps the canonical form. -/
theorem Mem.wf_clear (m : Mem) (lo n : Nat) (h : Mem.wf m = true) : Mem.wf (Mem.clear m lo n) = true := Mem.wf_filter m _ h

/-- A byte of a cleared range reads zero, every other as before. -/
theorem Mem.get_clear (m : Mem) (lo n q : Nat) :
    Mem.get (Mem.clear m lo n) q = if q < lo ∨ lo + n ≤ q then Mem.get m q else 0 := by
  unfold Mem.get Mem.clear
  rw [Tbl.find_keep (fun a => a < lo || lo + n ≤ a)]
  simp only [Bool.or_eq_true, decide_eq_true_eq]
  split <;> rfl

/-- The memory with nothing listed is canonical. -/
theorem Mem.wf_nil : Mem.wf [] = true := rfl

end Sys2Proof.Machine
end

