-- ==== Sys2Proof/Laws/State.lean ====
section
/-! SUPPORT. What each update of the state leaves alone, field by field, and what it does to the part it changes. -/

namespace Sys2Proof.Machine

/-! ### modTh -/

@[simp] theorem State.modTh_inbox (s : State) (t : Nat) (f : Thread → Thread) : (s.modTh t f).inbox = s.inbox := rfl
@[simp] theorem State.modTh_sched (s : State) (t : Nat) (f : Thread → Thread) : (s.modTh t f).sched = s.sched := rfl
@[simp] theorem State.modTh_cur (s : State) (t : Nat) (f : Thread → Thread) : (s.modTh t f).cur = s.cur := rfl
@[simp] theorem State.modTh_tick (s : State) (t : Nat) (f : Thread → Thread) : (s.modTh t f).tick = s.tick := rfl
@[simp] theorem State.modTh_mem (s : State) (t : Nat) (f : Thread → Thread) : (s.modTh t f).mem = s.mem := rfl
@[simp] theorem State.modTh_poison (s : State) (t : Nat) (f : Thread → Thread) : (s.modTh t f).poison = s.poison := rfl
@[simp] theorem State.modTh_members (s : State) (t : Nat) (f : Thread → Thread) : (s.modTh t f).members = s.members := rfl
@[simp] theorem State.modTh_teams (s : State) (t : Nat) (f : Thread → Thread) : (s.modTh t f).teams = s.teams := rfl
@[simp] theorem State.modTh_clusters (s : State) (t : Nat) (f : Thread → Thread) : (s.modTh t f).clusters = s.clusters := rfl
@[simp] theorem State.modTh_dies (s : State) (t : Nat) (f : Thread → Thread) : (s.modTh t f).dies = s.dies := rfl
@[simp] theorem State.modTh_regions (s : State) (t : Nat) (f : Thread → Thread) : (s.modTh t f).regions = s.regions := rfl
@[simp] theorem State.modTh_stcounts (s : State) (t : Nat) (f : Thread → Thread) : (s.modTh t f).stcounts = s.stcounts := rfl
@[simp] theorem State.modTh_lqueues (s : State) (t : Nat) (f : Thread → Thread) : (s.modTh t f).lqueues = s.lqueues := rfl
@[simp] theorem State.modTh_formes (s : State) (t : Nat) (f : Thread → Thread) : (s.modTh t f).formes = s.formes := rfl
@[simp] theorem State.modTh_endpoints (s : State) (t : Nat) (f : Thread → Thread) : (s.modTh t f).endpoints = s.endpoints := rfl
@[simp] theorem State.modTh_mctxs (s : State) (t : Nat) (f : Thread → Thread) : (s.modTh t f).mctxs = s.mctxs := rfl
@[simp] theorem State.modTh_pairSend (s : State) (t : Nat) (f : Thread → Thread) : (s.modTh t f).pairSend = s.pairSend := rfl
@[simp] theorem State.modTh_ordSend (s : State) (t : Nat) (f : Thread → Thread) : (s.modTh t f).ordSend = s.ordSend := rfl
@[simp] theorem State.modTh_ports (s : State) (t : Nat) (f : Thread → Thread) : (s.modTh t f).ports = s.ports := rfl
@[simp] theorem State.modTh_fab (s : State) (t : Nat) (f : Thread → Thread) : (s.modTh t f).fab = s.fab := rfl
@[simp] theorem State.modTh_mgmt (s : State) (t : Nat) (f : Thread → Thread) : (s.modTh t f).mgmt = s.mgmt := rfl
@[simp] theorem State.modTh_cmds (s : State) (t : Nat) (f : Thread → Thread) : (s.modTh t f).cmds = s.cmds := rfl
@[simp] theorem State.modTh_nextCmd (s : State) (t : Nat) (f : Thread → Thread) : (s.modTh t f).nextCmd = s.nextCmd := rfl
@[simp] theorem State.modTh_remotes (s : State) (t : Nat) (f : Thread → Thread) : (s.modTh t f).remotes = s.remotes := rfl
@[simp] theorem State.modTh_nextTag (s : State) (t : Nat) (f : Thread → Thread) : (s.modTh t f).nextTag = s.nextTag := rfl
@[simp] theorem State.modTh_outbox (s : State) (t : Nat) (f : Thread → Thread) : (s.modTh t f).outbox = s.outbox := rfl

/-! ### modMb -/

@[simp] theorem State.modMb_inbox (s : State) (m : Nat) (f : Member → Member) : (s.modMb m f).inbox = s.inbox := rfl
@[simp] theorem State.modMb_sched (s : State) (m : Nat) (f : Member → Member) : (s.modMb m f).sched = s.sched := rfl
@[simp] theorem State.modMb_cur (s : State) (m : Nat) (f : Member → Member) : (s.modMb m f).cur = s.cur := rfl
@[simp] theorem State.modMb_tick (s : State) (m : Nat) (f : Member → Member) : (s.modMb m f).tick = s.tick := rfl
@[simp] theorem State.modMb_mem (s : State) (m : Nat) (f : Member → Member) : (s.modMb m f).mem = s.mem := rfl
@[simp] theorem State.modMb_poison (s : State) (m : Nat) (f : Member → Member) : (s.modMb m f).poison = s.poison := rfl
@[simp] theorem State.modMb_threads (s : State) (m : Nat) (f : Member → Member) : (s.modMb m f).threads = s.threads := rfl
@[simp] theorem State.modMb_teams (s : State) (m : Nat) (f : Member → Member) : (s.modMb m f).teams = s.teams := rfl
@[simp] theorem State.modMb_clusters (s : State) (m : Nat) (f : Member → Member) : (s.modMb m f).clusters = s.clusters := rfl
@[simp] theorem State.modMb_dies (s : State) (m : Nat) (f : Member → Member) : (s.modMb m f).dies = s.dies := rfl
@[simp] theorem State.modMb_regions (s : State) (m : Nat) (f : Member → Member) : (s.modMb m f).regions = s.regions := rfl
@[simp] theorem State.modMb_stcounts (s : State) (m : Nat) (f : Member → Member) : (s.modMb m f).stcounts = s.stcounts := rfl
@[simp] theorem State.modMb_lqueues (s : State) (m : Nat) (f : Member → Member) : (s.modMb m f).lqueues = s.lqueues := rfl
@[simp] theorem State.modMb_formes (s : State) (m : Nat) (f : Member → Member) : (s.modMb m f).formes = s.formes := rfl
@[simp] theorem State.modMb_endpoints (s : State) (m : Nat) (f : Member → Member) : (s.modMb m f).endpoints = s.endpoints := rfl
@[simp] theorem State.modMb_mctxs (s : State) (m : Nat) (f : Member → Member) : (s.modMb m f).mctxs = s.mctxs := rfl
@[simp] theorem State.modMb_pairSend (s : State) (m : Nat) (f : Member → Member) : (s.modMb m f).pairSend = s.pairSend := rfl
@[simp] theorem State.modMb_ordSend (s : State) (m : Nat) (f : Member → Member) : (s.modMb m f).ordSend = s.ordSend := rfl
@[simp] theorem State.modMb_ports (s : State) (m : Nat) (f : Member → Member) : (s.modMb m f).ports = s.ports := rfl
@[simp] theorem State.modMb_fab (s : State) (m : Nat) (f : Member → Member) : (s.modMb m f).fab = s.fab := rfl
@[simp] theorem State.modMb_mgmt (s : State) (m : Nat) (f : Member → Member) : (s.modMb m f).mgmt = s.mgmt := rfl
@[simp] theorem State.modMb_cmds (s : State) (m : Nat) (f : Member → Member) : (s.modMb m f).cmds = s.cmds := rfl
@[simp] theorem State.modMb_nextCmd (s : State) (m : Nat) (f : Member → Member) : (s.modMb m f).nextCmd = s.nextCmd := rfl
@[simp] theorem State.modMb_remotes (s : State) (m : Nat) (f : Member → Member) : (s.modMb m f).remotes = s.remotes := rfl
@[simp] theorem State.modMb_nextTag (s : State) (m : Nat) (f : Member → Member) : (s.modMb m f).nextTag = s.nextTag := rfl
@[simp] theorem State.modMb_outbox (s : State) (m : Nat) (f : Member → Member) : (s.modMb m f).outbox = s.outbox := rfl

/-! ### modTm -/

@[simp] theorem State.modTm_inbox (s : State) (k : Nat) (f : Team → Team) : (s.modTm k f).inbox = s.inbox := rfl
@[simp] theorem State.modTm_sched (s : State) (k : Nat) (f : Team → Team) : (s.modTm k f).sched = s.sched := rfl
@[simp] theorem State.modTm_cur (s : State) (k : Nat) (f : Team → Team) : (s.modTm k f).cur = s.cur := rfl
@[simp] theorem State.modTm_tick (s : State) (k : Nat) (f : Team → Team) : (s.modTm k f).tick = s.tick := rfl
@[simp] theorem State.modTm_mem (s : State) (k : Nat) (f : Team → Team) : (s.modTm k f).mem = s.mem := rfl
@[simp] theorem State.modTm_poison (s : State) (k : Nat) (f : Team → Team) : (s.modTm k f).poison = s.poison := rfl
@[simp] theorem State.modTm_threads (s : State) (k : Nat) (f : Team → Team) : (s.modTm k f).threads = s.threads := rfl
@[simp] theorem State.modTm_members (s : State) (k : Nat) (f : Team → Team) : (s.modTm k f).members = s.members := rfl
@[simp] theorem State.modTm_clusters (s : State) (k : Nat) (f : Team → Team) : (s.modTm k f).clusters = s.clusters := rfl
@[simp] theorem State.modTm_dies (s : State) (k : Nat) (f : Team → Team) : (s.modTm k f).dies = s.dies := rfl
@[simp] theorem State.modTm_regions (s : State) (k : Nat) (f : Team → Team) : (s.modTm k f).regions = s.regions := rfl
@[simp] theorem State.modTm_stcounts (s : State) (k : Nat) (f : Team → Team) : (s.modTm k f).stcounts = s.stcounts := rfl
@[simp] theorem State.modTm_lqueues (s : State) (k : Nat) (f : Team → Team) : (s.modTm k f).lqueues = s.lqueues := rfl
@[simp] theorem State.modTm_formes (s : State) (k : Nat) (f : Team → Team) : (s.modTm k f).formes = s.formes := rfl
@[simp] theorem State.modTm_endpoints (s : State) (k : Nat) (f : Team → Team) : (s.modTm k f).endpoints = s.endpoints := rfl
@[simp] theorem State.modTm_mctxs (s : State) (k : Nat) (f : Team → Team) : (s.modTm k f).mctxs = s.mctxs := rfl
@[simp] theorem State.modTm_pairSend (s : State) (k : Nat) (f : Team → Team) : (s.modTm k f).pairSend = s.pairSend := rfl
@[simp] theorem State.modTm_ordSend (s : State) (k : Nat) (f : Team → Team) : (s.modTm k f).ordSend = s.ordSend := rfl
@[simp] theorem State.modTm_ports (s : State) (k : Nat) (f : Team → Team) : (s.modTm k f).ports = s.ports := rfl
@[simp] theorem State.modTm_fab (s : State) (k : Nat) (f : Team → Team) : (s.modTm k f).fab = s.fab := rfl
@[simp] theorem State.modTm_mgmt (s : State) (k : Nat) (f : Team → Team) : (s.modTm k f).mgmt = s.mgmt := rfl
@[simp] theorem State.modTm_cmds (s : State) (k : Nat) (f : Team → Team) : (s.modTm k f).cmds = s.cmds := rfl
@[simp] theorem State.modTm_nextCmd (s : State) (k : Nat) (f : Team → Team) : (s.modTm k f).nextCmd = s.nextCmd := rfl
@[simp] theorem State.modTm_remotes (s : State) (k : Nat) (f : Team → Team) : (s.modTm k f).remotes = s.remotes := rfl
@[simp] theorem State.modTm_nextTag (s : State) (k : Nat) (f : Team → Team) : (s.modTm k f).nextTag = s.nextTag := rfl
@[simp] theorem State.modTm_outbox (s : State) (k : Nat) (f : Team → Team) : (s.modTm k f).outbox = s.outbox := rfl

/-! ### modClu -/

@[simp] theorem State.modClu_inbox (s : State) (k : Nat) (f : Cluster → Cluster) : (s.modClu k f).inbox = s.inbox := rfl
@[simp] theorem State.modClu_sched (s : State) (k : Nat) (f : Cluster → Cluster) : (s.modClu k f).sched = s.sched := rfl
@[simp] theorem State.modClu_cur (s : State) (k : Nat) (f : Cluster → Cluster) : (s.modClu k f).cur = s.cur := rfl
@[simp] theorem State.modClu_tick (s : State) (k : Nat) (f : Cluster → Cluster) : (s.modClu k f).tick = s.tick := rfl
@[simp] theorem State.modClu_mem (s : State) (k : Nat) (f : Cluster → Cluster) : (s.modClu k f).mem = s.mem := rfl
@[simp] theorem State.modClu_poison (s : State) (k : Nat) (f : Cluster → Cluster) : (s.modClu k f).poison = s.poison := rfl
@[simp] theorem State.modClu_threads (s : State) (k : Nat) (f : Cluster → Cluster) : (s.modClu k f).threads = s.threads := rfl
@[simp] theorem State.modClu_members (s : State) (k : Nat) (f : Cluster → Cluster) : (s.modClu k f).members = s.members := rfl
@[simp] theorem State.modClu_teams (s : State) (k : Nat) (f : Cluster → Cluster) : (s.modClu k f).teams = s.teams := rfl
@[simp] theorem State.modClu_dies (s : State) (k : Nat) (f : Cluster → Cluster) : (s.modClu k f).dies = s.dies := rfl
@[simp] theorem State.modClu_regions (s : State) (k : Nat) (f : Cluster → Cluster) : (s.modClu k f).regions = s.regions := rfl
@[simp] theorem State.modClu_stcounts (s : State) (k : Nat) (f : Cluster → Cluster) : (s.modClu k f).stcounts = s.stcounts := rfl
@[simp] theorem State.modClu_lqueues (s : State) (k : Nat) (f : Cluster → Cluster) : (s.modClu k f).lqueues = s.lqueues := rfl
@[simp] theorem State.modClu_formes (s : State) (k : Nat) (f : Cluster → Cluster) : (s.modClu k f).formes = s.formes := rfl
@[simp] theorem State.modClu_endpoints (s : State) (k : Nat) (f : Cluster → Cluster) : (s.modClu k f).endpoints = s.endpoints := rfl
@[simp] theorem State.modClu_mctxs (s : State) (k : Nat) (f : Cluster → Cluster) : (s.modClu k f).mctxs = s.mctxs := rfl
@[simp] theorem State.modClu_pairSend (s : State) (k : Nat) (f : Cluster → Cluster) : (s.modClu k f).pairSend = s.pairSend := rfl
@[simp] theorem State.modClu_ordSend (s : State) (k : Nat) (f : Cluster → Cluster) : (s.modClu k f).ordSend = s.ordSend := rfl
@[simp] theorem State.modClu_ports (s : State) (k : Nat) (f : Cluster → Cluster) : (s.modClu k f).ports = s.ports := rfl
@[simp] theorem State.modClu_fab (s : State) (k : Nat) (f : Cluster → Cluster) : (s.modClu k f).fab = s.fab := rfl
@[simp] theorem State.modClu_mgmt (s : State) (k : Nat) (f : Cluster → Cluster) : (s.modClu k f).mgmt = s.mgmt := rfl
@[simp] theorem State.modClu_cmds (s : State) (k : Nat) (f : Cluster → Cluster) : (s.modClu k f).cmds = s.cmds := rfl
@[simp] theorem State.modClu_nextCmd (s : State) (k : Nat) (f : Cluster → Cluster) : (s.modClu k f).nextCmd = s.nextCmd := rfl
@[simp] theorem State.modClu_remotes (s : State) (k : Nat) (f : Cluster → Cluster) : (s.modClu k f).remotes = s.remotes := rfl
@[simp] theorem State.modClu_nextTag (s : State) (k : Nat) (f : Cluster → Cluster) : (s.modClu k f).nextTag = s.nextTag := rfl
@[simp] theorem State.modClu_outbox (s : State) (k : Nat) (f : Cluster → Cluster) : (s.modClu k f).outbox = s.outbox := rfl

/-! ### modDie -/

@[simp] theorem State.modDie_inbox (s : State) (d : Nat) (f : Die → Die) : (s.modDie d f).inbox = s.inbox := rfl
@[simp] theorem State.modDie_sched (s : State) (d : Nat) (f : Die → Die) : (s.modDie d f).sched = s.sched := rfl
@[simp] theorem State.modDie_cur (s : State) (d : Nat) (f : Die → Die) : (s.modDie d f).cur = s.cur := rfl
@[simp] theorem State.modDie_tick (s : State) (d : Nat) (f : Die → Die) : (s.modDie d f).tick = s.tick := rfl
@[simp] theorem State.modDie_mem (s : State) (d : Nat) (f : Die → Die) : (s.modDie d f).mem = s.mem := rfl
@[simp] theorem State.modDie_poison (s : State) (d : Nat) (f : Die → Die) : (s.modDie d f).poison = s.poison := rfl
@[simp] theorem State.modDie_threads (s : State) (d : Nat) (f : Die → Die) : (s.modDie d f).threads = s.threads := rfl
@[simp] theorem State.modDie_members (s : State) (d : Nat) (f : Die → Die) : (s.modDie d f).members = s.members := rfl
@[simp] theorem State.modDie_teams (s : State) (d : Nat) (f : Die → Die) : (s.modDie d f).teams = s.teams := rfl
@[simp] theorem State.modDie_clusters (s : State) (d : Nat) (f : Die → Die) : (s.modDie d f).clusters = s.clusters := rfl
@[simp] theorem State.modDie_regions (s : State) (d : Nat) (f : Die → Die) : (s.modDie d f).regions = s.regions := rfl
@[simp] theorem State.modDie_stcounts (s : State) (d : Nat) (f : Die → Die) : (s.modDie d f).stcounts = s.stcounts := rfl
@[simp] theorem State.modDie_lqueues (s : State) (d : Nat) (f : Die → Die) : (s.modDie d f).lqueues = s.lqueues := rfl
@[simp] theorem State.modDie_formes (s : State) (d : Nat) (f : Die → Die) : (s.modDie d f).formes = s.formes := rfl
@[simp] theorem State.modDie_endpoints (s : State) (d : Nat) (f : Die → Die) : (s.modDie d f).endpoints = s.endpoints := rfl
@[simp] theorem State.modDie_mctxs (s : State) (d : Nat) (f : Die → Die) : (s.modDie d f).mctxs = s.mctxs := rfl
@[simp] theorem State.modDie_pairSend (s : State) (d : Nat) (f : Die → Die) : (s.modDie d f).pairSend = s.pairSend := rfl
@[simp] theorem State.modDie_ordSend (s : State) (d : Nat) (f : Die → Die) : (s.modDie d f).ordSend = s.ordSend := rfl
@[simp] theorem State.modDie_ports (s : State) (d : Nat) (f : Die → Die) : (s.modDie d f).ports = s.ports := rfl
@[simp] theorem State.modDie_fab (s : State) (d : Nat) (f : Die → Die) : (s.modDie d f).fab = s.fab := rfl
@[simp] theorem State.modDie_mgmt (s : State) (d : Nat) (f : Die → Die) : (s.modDie d f).mgmt = s.mgmt := rfl
@[simp] theorem State.modDie_cmds (s : State) (d : Nat) (f : Die → Die) : (s.modDie d f).cmds = s.cmds := rfl
@[simp] theorem State.modDie_nextCmd (s : State) (d : Nat) (f : Die → Die) : (s.modDie d f).nextCmd = s.nextCmd := rfl
@[simp] theorem State.modDie_remotes (s : State) (d : Nat) (f : Die → Die) : (s.modDie d f).remotes = s.remotes := rfl
@[simp] theorem State.modDie_nextTag (s : State) (d : Nat) (f : Die → Die) : (s.modDie d f).nextTag = s.nextTag := rfl
@[simp] theorem State.modDie_outbox (s : State) (d : Nat) (f : Die → Die) : (s.modDie d f).outbox = s.outbox := rfl

/-! ### modCmd -/

@[simp] theorem State.modCmd_inbox (s : State) (c : Nat) (f : Cmd → Cmd) : (s.modCmd c f).inbox = s.inbox := rfl
@[simp] theorem State.modCmd_sched (s : State) (c : Nat) (f : Cmd → Cmd) : (s.modCmd c f).sched = s.sched := rfl
@[simp] theorem State.modCmd_cur (s : State) (c : Nat) (f : Cmd → Cmd) : (s.modCmd c f).cur = s.cur := rfl
@[simp] theorem State.modCmd_tick (s : State) (c : Nat) (f : Cmd → Cmd) : (s.modCmd c f).tick = s.tick := rfl
@[simp] theorem State.modCmd_mem (s : State) (c : Nat) (f : Cmd → Cmd) : (s.modCmd c f).mem = s.mem := rfl
@[simp] theorem State.modCmd_poison (s : State) (c : Nat) (f : Cmd → Cmd) : (s.modCmd c f).poison = s.poison := rfl
@[simp] theorem State.modCmd_threads (s : State) (c : Nat) (f : Cmd → Cmd) : (s.modCmd c f).threads = s.threads := rfl
@[simp] theorem State.modCmd_members (s : State) (c : Nat) (f : Cmd → Cmd) : (s.modCmd c f).members = s.members := rfl
@[simp] theorem State.modCmd_teams (s : State) (c : Nat) (f : Cmd → Cmd) : (s.modCmd c f).teams = s.teams := rfl
@[simp] theorem State.modCmd_clusters (s : State) (c : Nat) (f : Cmd → Cmd) : (s.modCmd c f).clusters = s.clusters := rfl
@[simp] theorem State.modCmd_dies (s : State) (c : Nat) (f : Cmd → Cmd) : (s.modCmd c f).dies = s.dies := rfl
@[simp] theorem State.modCmd_regions (s : State) (c : Nat) (f : Cmd → Cmd) : (s.modCmd c f).regions = s.regions := rfl
@[simp] theorem State.modCmd_stcounts (s : State) (c : Nat) (f : Cmd → Cmd) : (s.modCmd c f).stcounts = s.stcounts := rfl
@[simp] theorem State.modCmd_lqueues (s : State) (c : Nat) (f : Cmd → Cmd) : (s.modCmd c f).lqueues = s.lqueues := rfl
@[simp] theorem State.modCmd_formes (s : State) (c : Nat) (f : Cmd → Cmd) : (s.modCmd c f).formes = s.formes := rfl
@[simp] theorem State.modCmd_endpoints (s : State) (c : Nat) (f : Cmd → Cmd) : (s.modCmd c f).endpoints = s.endpoints := rfl
@[simp] theorem State.modCmd_mctxs (s : State) (c : Nat) (f : Cmd → Cmd) : (s.modCmd c f).mctxs = s.mctxs := rfl
@[simp] theorem State.modCmd_pairSend (s : State) (c : Nat) (f : Cmd → Cmd) : (s.modCmd c f).pairSend = s.pairSend := rfl
@[simp] theorem State.modCmd_ordSend (s : State) (c : Nat) (f : Cmd → Cmd) : (s.modCmd c f).ordSend = s.ordSend := rfl
@[simp] theorem State.modCmd_ports (s : State) (c : Nat) (f : Cmd → Cmd) : (s.modCmd c f).ports = s.ports := rfl
@[simp] theorem State.modCmd_fab (s : State) (c : Nat) (f : Cmd → Cmd) : (s.modCmd c f).fab = s.fab := rfl
@[simp] theorem State.modCmd_mgmt (s : State) (c : Nat) (f : Cmd → Cmd) : (s.modCmd c f).mgmt = s.mgmt := rfl
@[simp] theorem State.modCmd_nextCmd (s : State) (c : Nat) (f : Cmd → Cmd) : (s.modCmd c f).nextCmd = s.nextCmd := rfl
@[simp] theorem State.modCmd_remotes (s : State) (c : Nat) (f : Cmd → Cmd) : (s.modCmd c f).remotes = s.remotes := rfl
@[simp] theorem State.modCmd_nextTag (s : State) (c : Nat) (f : Cmd → Cmd) : (s.modCmd c f).nextTag = s.nextTag := rfl
@[simp] theorem State.modCmd_outbox (s : State) (c : Nat) (f : Cmd → Cmd) : (s.modCmd c f).outbox = s.outbox := rfl

/-! ### dropCmd -/

@[simp] theorem State.dropCmd_inbox (s : State) (c : Nat) : (s.dropCmd c).inbox = s.inbox := rfl
@[simp] theorem State.dropCmd_sched (s : State) (c : Nat) : (s.dropCmd c).sched = s.sched := rfl
@[simp] theorem State.dropCmd_cur (s : State) (c : Nat) : (s.dropCmd c).cur = s.cur := rfl
@[simp] theorem State.dropCmd_tick (s : State) (c : Nat) : (s.dropCmd c).tick = s.tick := rfl
@[simp] theorem State.dropCmd_mem (s : State) (c : Nat) : (s.dropCmd c).mem = s.mem := rfl
@[simp] theorem State.dropCmd_poison (s : State) (c : Nat) : (s.dropCmd c).poison = s.poison := rfl
@[simp] theorem State.dropCmd_threads (s : State) (c : Nat) : (s.dropCmd c).threads = s.threads := rfl
@[simp] theorem State.dropCmd_members (s : State) (c : Nat) : (s.dropCmd c).members = s.members := rfl
@[simp] theorem State.dropCmd_teams (s : State) (c : Nat) : (s.dropCmd c).teams = s.teams := rfl
@[simp] theorem State.dropCmd_clusters (s : State) (c : Nat) : (s.dropCmd c).clusters = s.clusters := rfl
@[simp] theorem State.dropCmd_dies (s : State) (c : Nat) : (s.dropCmd c).dies = s.dies := rfl
@[simp] theorem State.dropCmd_regions (s : State) (c : Nat) : (s.dropCmd c).regions = s.regions := rfl
@[simp] theorem State.dropCmd_stcounts (s : State) (c : Nat) : (s.dropCmd c).stcounts = s.stcounts := rfl
@[simp] theorem State.dropCmd_lqueues (s : State) (c : Nat) : (s.dropCmd c).lqueues = s.lqueues := rfl
@[simp] theorem State.dropCmd_formes (s : State) (c : Nat) : (s.dropCmd c).formes = s.formes := rfl
@[simp] theorem State.dropCmd_endpoints (s : State) (c : Nat) : (s.dropCmd c).endpoints = s.endpoints := rfl
@[simp] theorem State.dropCmd_mctxs (s : State) (c : Nat) : (s.dropCmd c).mctxs = s.mctxs := rfl
@[simp] theorem State.dropCmd_pairSend (s : State) (c : Nat) : (s.dropCmd c).pairSend = s.pairSend := rfl
@[simp] theorem State.dropCmd_ordSend (s : State) (c : Nat) : (s.dropCmd c).ordSend = s.ordSend := rfl
@[simp] theorem State.dropCmd_ports (s : State) (c : Nat) : (s.dropCmd c).ports = s.ports := rfl
@[simp] theorem State.dropCmd_fab (s : State) (c : Nat) : (s.dropCmd c).fab = s.fab := rfl
@[simp] theorem State.dropCmd_mgmt (s : State) (c : Nat) : (s.dropCmd c).mgmt = s.mgmt := rfl
@[simp] theorem State.dropCmd_nextCmd (s : State) (c : Nat) : (s.dropCmd c).nextCmd = s.nextCmd := rfl
@[simp] theorem State.dropCmd_remotes (s : State) (c : Nat) : (s.dropCmd c).remotes = s.remotes := rfl
@[simp] theorem State.dropCmd_nextTag (s : State) (c : Nat) : (s.dropCmd c).nextTag = s.nextTag := rfl
@[simp] theorem State.dropCmd_outbox (s : State) (c : Nat) : (s.dropCmd c).outbox = s.outbox := rfl

/-! ### post -/

@[simp] theorem State.post_sched (s : State) (k : EvKind) (a b : Nat) : (s.post k a b).sched = s.sched := rfl
@[simp] theorem State.post_cur (s : State) (k : EvKind) (a b : Nat) : (s.post k a b).cur = s.cur := rfl
@[simp] theorem State.post_tick (s : State) (k : EvKind) (a b : Nat) : (s.post k a b).tick = s.tick := rfl
@[simp] theorem State.post_mem (s : State) (k : EvKind) (a b : Nat) : (s.post k a b).mem = s.mem := rfl
@[simp] theorem State.post_poison (s : State) (k : EvKind) (a b : Nat) : (s.post k a b).poison = s.poison := rfl
@[simp] theorem State.post_threads (s : State) (k : EvKind) (a b : Nat) : (s.post k a b).threads = s.threads := rfl
@[simp] theorem State.post_members (s : State) (k : EvKind) (a b : Nat) : (s.post k a b).members = s.members := rfl
@[simp] theorem State.post_teams (s : State) (k : EvKind) (a b : Nat) : (s.post k a b).teams = s.teams := rfl
@[simp] theorem State.post_clusters (s : State) (k : EvKind) (a b : Nat) : (s.post k a b).clusters = s.clusters := rfl
@[simp] theorem State.post_dies (s : State) (k : EvKind) (a b : Nat) : (s.post k a b).dies = s.dies := rfl
@[simp] theorem State.post_regions (s : State) (k : EvKind) (a b : Nat) : (s.post k a b).regions = s.regions := rfl
@[simp] theorem State.post_stcounts (s : State) (k : EvKind) (a b : Nat) : (s.post k a b).stcounts = s.stcounts := rfl
@[simp] theorem State.post_lqueues (s : State) (k : EvKind) (a b : Nat) : (s.post k a b).lqueues = s.lqueues := rfl
@[simp] theorem State.post_formes (s : State) (k : EvKind) (a b : Nat) : (s.post k a b).formes = s.formes := rfl
@[simp] theorem State.post_endpoints (s : State) (k : EvKind) (a b : Nat) : (s.post k a b).endpoints = s.endpoints := rfl
@[simp] theorem State.post_mctxs (s : State) (k : EvKind) (a b : Nat) : (s.post k a b).mctxs = s.mctxs := rfl
@[simp] theorem State.post_pairSend (s : State) (k : EvKind) (a b : Nat) : (s.post k a b).pairSend = s.pairSend := rfl
@[simp] theorem State.post_ordSend (s : State) (k : EvKind) (a b : Nat) : (s.post k a b).ordSend = s.ordSend := rfl
@[simp] theorem State.post_ports (s : State) (k : EvKind) (a b : Nat) : (s.post k a b).ports = s.ports := rfl
@[simp] theorem State.post_fab (s : State) (k : EvKind) (a b : Nat) : (s.post k a b).fab = s.fab := rfl
@[simp] theorem State.post_mgmt (s : State) (k : EvKind) (a b : Nat) : (s.post k a b).mgmt = s.mgmt := rfl
@[simp] theorem State.post_cmds (s : State) (k : EvKind) (a b : Nat) : (s.post k a b).cmds = s.cmds := rfl
@[simp] theorem State.post_nextCmd (s : State) (k : EvKind) (a b : Nat) : (s.post k a b).nextCmd = s.nextCmd := rfl
@[simp] theorem State.post_remotes (s : State) (k : EvKind) (a b : Nat) : (s.post k a b).remotes = s.remotes := rfl
@[simp] theorem State.post_nextTag (s : State) (k : EvKind) (a b : Nat) : (s.post k a b).nextTag = s.nextTag := rfl
@[simp] theorem State.post_outbox (s : State) (k : EvKind) (a b : Nat) : (s.post k a b).outbox = s.outbox := rfl

/-! ### The parts themselves -/

@[simp] theorem State.th_modTh (s : State) (t : Nat) (f : Thread → Thread) (h : t < s.threads.length) :
    (s.modTh t f).th t = f (s.th t) := by
  simp [State.modTh, State.th, List.getD_eq_getElem?_getD, h]

theorem State.th_modTh_ne (s : State) (t u : Nat) (f : Thread → Thread) (h : u ≠ t) : (s.modTh t f).th u = s.th u := by
  simp [State.modTh, State.th, List.getD_eq_getElem?_getD, Ne.symm h]

@[simp] theorem State.length_modTh (s : State) (t : Nat) (f : Thread → Thread) :
    (s.modTh t f).threads.length = s.threads.length := by
  simp [State.modTh]

@[simp] theorem State.mb_modMb (s : State) (m : Nat) (f : Member → Member) (h : m < s.members.length) :
    (s.modMb m f).mb m = f (s.mb m) := by
  simp [State.modMb, State.mb, List.getD_eq_getElem?_getD, h]

theorem State.mb_modMb_ne (s : State) (m n : Nat) (f : Member → Member) (h : n ≠ m) : (s.modMb m f).mb n = s.mb n := by
  simp [State.modMb, State.mb, List.getD_eq_getElem?_getD, Ne.symm h]

@[simp] theorem State.mb_modTh (s : State) (t m : Nat) (f : Thread → Thread) : (s.modTh t f).mb m = s.mb m := rfl

@[simp] theorem State.th_modMb (s : State) (m t : Nat) (f : Member → Member) : (s.modMb m f).th t = s.th t := rfl

@[simp] theorem State.th_modDie (s : State) (d t : Nat) (f : Die → Die) : (s.modDie d f).th t = s.th t := rfl

@[simp] theorem State.th_modClu (s : State) (k t : Nat) (f : Cluster → Cluster) : (s.modClu k f).th t = s.th t := rfl

@[simp] theorem State.th_post (s : State) (k : EvKind) (a b t : Nat) : (s.post k a b).th t = s.th t := rfl

theorem State.postOnce_eq (s : State) (k : EvKind) (a b : Nat) : s.postOnce k a b = s ∨ s.postOnce k a b = s.post k a b := by
  unfold State.postOnce; split <;> simp

/-! ### The register file (03 R61) -/

@[simp] theorem Thread.rx_zero (th : Thread) : th.rx 0 = 0 := rfl

theorem Thread.rx_wx (th : Thread) (d r : XReg) (v : Word) :
    (th.wx d v).rx r = if r = d ∧ r ≠ 0 then v else th.rx r := by
  unfold Thread.rx Thread.wx
  by_cases hd : d = 0
  · subst hd; by_cases hr : r = 0 <;> simp [hr]
  by_cases hr : r = 0
  · simp [hr]
  have hr' : ¬ r = 0#5 := hr
  rw [if_neg hd, if_neg hr]
  by_cases e : r = d
  · subst e; simp [hr']
  · have : d.toNat ≠ r.toNat := fun h => e (BitVec.eq_of_toNat_eq h.symm)
    simp [e, hr', this]

theorem Thread.rc_wc (th : Thread) (d r : BitVec 5) (v : Word) : (th.wc d v).rc r = if r = d then v else th.rc r := by
  unfold Thread.rc Thread.wc
  by_cases e : r = d
  · subst e; simp
  · have : d.toNat ≠ r.toNat := fun h => e (BitVec.eq_of_toNat_eq h.symm)
    simp [e, this]

@[simp] theorem Thread.wx_kind (th : Thread) (d : XReg) (w : Word) : (th.wx d w).kind = th.kind := by
  unfold Thread.wx; split <;> rfl
@[simp] theorem Thread.wx_run (th : Thread) (d : XReg) (w : Word) : (th.wx d w).run = th.run := by
  unfold Thread.wx; split <;> rfl
@[simp] theorem Thread.wx_active (th : Thread) (d : XReg) (w : Word) : (th.wx d w).active = th.active := by
  unfold Thread.wx; split <;> rfl
@[simp] theorem Thread.wx_team (th : Thread) (d : XReg) (w : Word) : (th.wx d w).team = th.team := by
  unfold Thread.wx; split <;> rfl
@[simp] theorem Thread.wx_member (th : Thread) (d : XReg) (w : Word) : (th.wx d w).member = th.member := by
  unfold Thread.wx; split <;> rfl
@[simp] theorem Thread.wx_pc (th : Thread) (d : XReg) (w : Word) : (th.wx d w).pc = th.pc := by
  unfold Thread.wx; split <;> rfl
@[simp] theorem Thread.wx_sys (th : Thread) (d : XReg) (w : Word) : (th.wx d w).sys = th.sys := by
  unfold Thread.wx; split <;> rfl
@[simp] theorem Thread.wx_v (th : Thread) (d : XReg) (w : Word) : (th.wx d w).v = th.v := by
  unfold Thread.wx; split <;> rfl
@[simp] theorem Thread.wx_cp (th : Thread) (d : XReg) (w : Word) : (th.wx d w).cp = th.cp := by
  unfold Thread.wx; split <;> rfl
@[simp] theorem Thread.wx_queue (th : Thread) (d : XReg) (w : Word) : (th.wx d w).queue = th.queue := by
  unfold Thread.wx; split <;> rfl
@[simp] theorem Thread.wx_window (th : Thread) (d : XReg) (w : Word) : (th.wx d w).window = th.window := by
  unfold Thread.wx; split <;> rfl
@[simp] theorem Thread.wx_slots (th : Thread) (d : XReg) (w : Word) : (th.wx d w).slots = th.slots := by
  unfold Thread.wx; split <;> rfl
@[simp] theorem Thread.wx_laneFault (th : Thread) (d : XReg) (w : Word) : (th.wx d w).laneFault = th.laneFault := by
  unfold Thread.wx; split <;> rfl
@[simp] theorem Thread.wx_engFault (th : Thread) (d : XReg) (w : Word) : (th.wx d w).engFault = th.engFault := by
  unfold Thread.wx; split <;> rfl
@[simp] theorem Thread.wx_inflight (th : Thread) (d : XReg) (w : Word) : (th.wx d w).inflight = th.inflight := by
  unfold Thread.wx; split <;> rfl
@[simp] theorem Thread.wx_platen (th : Thread) (d : XReg) (w : Word) : (th.wx d w).platen = th.platen := by
  unfold Thread.wx; split <;> rfl
@[simp] theorem Thread.wx_stepReq (th : Thread) (d : XReg) (w : Word) : (th.wx d w).stepReq = th.stepReq := by
  unfold Thread.wx; split <;> rfl

end Sys2Proof.Machine
end

