-- ==== Sys2Proof/Laws/Strand.lean ====
section
/-! SUPPORT. What counting, passing cycles and retiring a convoy leave alone, and what a scalar instruction of a strand comes to
once nothing stands before it. -/

namespace Sys2Proof.Machine

/-! ### State.Same -/

theorem State.Same.refl (a : State) : State.Same a a := rfl

theorem State.Same.trans {a b c : State} (h : State.Same a b) (k : State.Same b c) : State.Same a c :=
  Eq.trans k h

theorem State.Same.symm {a b : State} (h : State.Same a b) : State.Same b a := Eq.symm h

theorem State.Same.eq {a b : State} (h : State.Same a b) : b.still = a.still := h

/-- The threads of states that agree agree. -/
theorem State.Same.threads_map {a b : State} (h : State.Same a b) : b.threads.map Thread.still = a.threads.map Thread.still :=
  congrArg State.threads h.eq

theorem State.still_th (s : State) (t : Nat) : (s.th t).still = (s.threads.map Thread.still).getD t Thread.absent.still := by
  unfold State.th
  rw [List.getD_eq_getElem?_getD, List.getD_eq_getElem?_getD, List.getElem?_map]
  cases s.threads[t]? <;> rfl

/-- A thread of states that agree. -/
theorem State.Same.th {a b : State} (h : State.Same a b) (t : Nat) : (b.th t).still = (a.th t).still := by
  rw [State.still_th, State.still_th, h.threads_map]

theorem State.Same.length {a b : State} (h : State.Same a b) : b.threads.length = a.threads.length := by
  have := congrArg List.length h.threads_map
  simpa using this

theorem State.Same.mem {a b : State} (h : State.Same a b) : b.mem = a.mem := by
  have e := congrArg State.mem h.eq; exact e
theorem State.Same.poison {a b : State} (h : State.Same a b) : b.poison = a.poison := by
  have e := congrArg State.poison h.eq; exact e
theorem State.Same.members {a b : State} (h : State.Same a b) : b.members = a.members := by
  have e := congrArg State.members h.eq; exact e
theorem State.Same.regions {a b : State} (h : State.Same a b) : b.regions = a.regions := by
  have e := congrArg State.regions h.eq; exact e
theorem State.Same.lqueues {a b : State} (h : State.Same a b) : b.lqueues = a.lqueues := by
  have e := congrArg State.lqueues h.eq; exact e
theorem State.Same.formes {a b : State} (h : State.Same a b) : b.formes = a.formes := by
  have e := congrArg State.formes h.eq; exact e
theorem State.Same.cmds {a b : State} (h : State.Same a b) : b.cmds = a.cmds := by
  have e := congrArg State.cmds h.eq; exact e
theorem State.Same.inbox {a b : State} (h : State.Same a b) : b.inbox = a.inbox := by
  have e := congrArg State.inbox h.eq; exact e
theorem State.Same.remotes {a b : State} (h : State.Same a b) : b.remotes = a.remotes := by
  have e := congrArg State.remotes h.eq; exact e

/-- The registers of threads that agree. -/
theorem Thread.rx_of_still {a b : Thread} (h : b.still = a.still) (r : XReg) : b.rx r = a.rx r := by
  have hx : b.x = a.x := by have e := congrArg Thread.x h; exact e
  unfold Thread.rx; rw [hx]

theorem Thread.inh_of_still {a b : Thread} (h : b.still = a.still) : b.inh = a.inh := by
  have hx : b.sys.status = a.sys.status := by
    have e := congrArg (fun th : Thread => th.sys.status) h; exact e
  unfold Thread.inh; rw [hx]

theorem Thread.sampOn_of_still {a b : Thread} (h : b.still = a.still) : b.sys.sampOn = a.sys.sampOn := by
  have hx : b.sys.sampcfg = a.sys.sampcfg := by
    have e := congrArg (fun th : Thread => th.sys.sampcfg) h; exact e
  unfold SysRegs.sampOn; rw [hx]

theorem Thread.stepReq_of_still {a b : Thread} (h : b.still = a.still) : b.stepReq = a.stepReq := by
  have e := congrArg Thread.stepReq h; exact e

/-- Threads that agree go on agreeing under an update that looks at no counter. -/
theorem State.Same.modTh {a b : State} (h : State.Same a b) (t : Nat) (f : Thread → Thread)
    (hf : ∀ x y : Thread, y.still = x.still → (f y).still = (f x).still) : State.Same (a.modTh t f) (b.modTh t f) := by
  have hl : (b.threads.modify t f).map Thread.still = (a.threads.modify t f).map Thread.still := by
    have h0 := h.threads_map
    apply List.ext_getElem?
    intro j
    have hj := congrArg (fun l => l[j]?) h0
    simp only [List.getElem?_map, List.getElem?_modify] at hj ⊢
    cases hb : b.threads[j]? with
    | none => cases ha : a.threads[j]? with
      | none => rfl
      | some x => simp [ha, hb] at hj
    | some y => cases ha : a.threads[j]? with
      | none => simp [ha, hb] at hj
      | some x =>
        simp only [ha, hb, Option.map_some, Option.some.injEq] at hj
        by_cases e : t = j
        · simp [e, hf x y hj]
        · simp [e, hj]
  show State.still _ = State.still _
  have e : ∀ s : State, (s.modTh t f).still = { s.still with threads := (s.threads.modify t f).map Thread.still } := fun _ => rfl
  rw [e, e, hl, show b.still = a.still from h]

/-! ### Counters -/

theorem getBit_putBit_ne (w : Word) (j k : Nat) (b : Bool) (h : j ≠ k) : getBit (putBit w k b) j = getBit w j := by
  unfold getBit putBit putField
  rw [BitVec.getLsbD_ofNat, BitVec.getLsbD]
  by_cases hj : j < 64
  · simp only [hj, decide_true, Bool.true_and]
    have hb : bitOf b % 2 ^ 1 < 2 := by cases b <;> decide
    have hf : fld w.toNat k 1 < 2 := by unfold fld; omega
    -- the number differs from w only in bit k
    have key : w.toNat - fld w.toNat k 1 * 2 ^ k + bitOf b % 2 ^ 1 * 2 ^ k =
        w.toNat % 2 ^ k + (bitOf b % 2 ^ 1 + 2 * (w.toNat / 2 ^ (k + 1))) * 2 ^ k := by
      have h1 := Nat.div_add_mod w.toNat (2 ^ k)
      have h2 := Nat.div_add_mod (w.toNat / 2 ^ k) 2
      have h3 : w.toNat / 2 ^ k / 2 = w.toNat / 2 ^ (k + 1) := by rw [Nat.div_div_eq_div_mul, Nat.pow_succ]
      unfold fld
      rw [Nat.pow_one]
      generalize w.toNat / 2 ^ k % 2 = r at *
      rw [h3] at h2
      rw [← h2] at h1
      generalize w.toNat / 2 ^ (k + 1) = q at *
      generalize w.toNat % 2 ^ k = m at *
      generalize 2 ^ k = p at *
      have e : p * (2 * q + r) = (2 * q) * p + r * p := by ring
      rw [e] at h1
      have e2 : (bitOf b % 2 + 2 * q) * p = bitOf b % 2 * p + 2 * q * p := by ring
      rw [e2]
      omega
    rw [key]
    rcases Nat.lt_or_gt_of_ne h with hlt | hgt
    · have : (w.toNat % 2 ^ k + (bitOf b % 2 ^ 1 + 2 * (w.toNat / 2 ^ (k + 1))) * 2 ^ k) % 2 ^ k = w.toNat % 2 ^ k := by
        rw [Nat.add_mul_mod_self_right, Nat.mod_mod]
      have t1 := Nat.testBit_mod_two_pow (w.toNat % 2 ^ k + (bitOf b % 2 ^ 1 + 2 * (w.toNat / 2 ^ (k + 1))) * 2 ^ k) k j
      have t2 := Nat.testBit_mod_two_pow w.toNat k j
      rw [this] at t1
      rw [t1] at t2
      simpa [hlt] using t2
    · have hd : (w.toNat % 2 ^ k + (bitOf b % 2 ^ 1 + 2 * (w.toNat / 2 ^ (k + 1))) * 2 ^ k) / 2 ^ k / 2 = w.toNat / 2 ^ k / 2 := by
        have hm := Nat.mod_lt w.toNat (Nat.two_pow_pos k)
        rw [Nat.add_mul_div_right _ _ (Nat.two_pow_pos k), Nat.div_eq_of_lt hm]
        have h3 : w.toNat / 2 ^ k / 2 = w.toNat / 2 ^ (k + 1) := by rw [Nat.div_div_eq_div_mul, Nat.pow_succ]
        omega
      obtain ⟨d, rfl⟩ : ∃ d, j = (d + 1) + k := ⟨j - (k + 1), by omega⟩
      have e : ∀ x : Nat, x.testBit (d + 1 + k) = (x / 2 ^ k / 2).testBit d := by
        intro x
        rw [← Nat.testBit_succ, Nat.testBit_div_two_pow]
      rw [e, e, hd]
  · have : w.toNat.testBit j = false := Nat.testBit_lt_two_pow (lt_of_lt_of_le w.isLt (Nat.pow_le_pow_right (by omega) (by omega)))
    simp [hj, this]

/-- Counting changes a counter's overflow bit and a counter that is on. -/
theorem bumpPmc_still (cfg cnt : Word) (code n : Nat) :
    stillCfg (bumpPmc cfg cnt code n).1 = stillCfg cfg ∧
    stillCtr (bumpPmc cfg cnt code n).1 (bumpPmc cfg cnt code n).2 = stillCtr cfg cnt := by
  have twice : stillCfg (putBit cfg 17 true) = stillCfg cfg := by
    unfold stillCfg putBit putField
    apply BitVec.eq_of_toNat_eq
    simp only [BitVec.toNat_ofNat, bitOf, fld]
    omega
  have on : getBit (putBit cfg 17 true) 16 = getBit cfg 16 := getBit_putBit_ne cfg 16 17 true (by decide)
  unfold bumpPmc
  split
  · next h =>
    have h16 : getBit cfg 16 = true := by
      simp only [Bool.and_eq_true] at h; exact h.1
    split
    · exact ⟨rfl, by unfold stillCtr; simp [h16]⟩
    · exact ⟨twice, by unfold stillCtr; simp [h16, on]⟩
  · exact ⟨rfl, rfl⟩

/-- One counter of a file bumped. -/
theorem bump_still {m : Nat} (cfg ctr : Vector Word m) (k c n : Nat) :
    (vset cfg k (bumpPmc (vget cfg k 0) (vget ctr k 0) c n).1).map stillCfg = cfg.map stillCfg ∧
    Vector.zipWith stillCtr (vset cfg k (bumpPmc (vget cfg k 0) (vget ctr k 0) c n).1)
      (vset ctr k (bumpPmc (vget cfg k 0) (vget ctr k 0) c n).2) = Vector.zipWith stillCtr cfg ctr := by
  have hb := bumpPmc_still (vget cfg k 0) (vget ctr k 0) c n
  have hg : ∀ (v : Vector Word m) (h : k < m), vget v k 0 = v[k] := by
    intro v h; unfold vget; simp [List.getD_eq_getElem?_getD, h]
  constructor <;> apply Vector.ext <;> intro j hj
  · simp only [Vector.getElem_map, vset, Vector.getElem_setIfInBounds]
    split
    · next e => subst e; rw [hb.1, hg cfg hj]
    · rfl
  · simp only [Vector.getElem_zipWith, vset, Vector.getElem_setIfInBounds]
    split
    · next e => subst e; rw [hb.2, hg cfg hj, hg ctr hj]
    · rfl

theorem SysRegs.count_still (r : SysRegs) (c n : Nat) : (r.count c n).still = r.still := by
  unfold SysRegs.count
  split
  · next h =>
    clear h
    generalize List.range 16 = l
    induction l generalizing r with
    | nil => rfl
    | cons k l ih =>
      rw [List.foldl_cons, ih]
      have hb := bump_still r.pmccfg r.pmc k c n
      unfold SysRegs.still
      simp only [hb.1, hb.2]
  · rfl

theorem Cluster.count_still (r : Cluster) (c n : Nat) : (r.count c n).still = r.still := by
  unfold Cluster.count
  split
  · next h =>
    clear h
    generalize List.range 16 = l
    induction l generalizing r with
    | nil => rfl
    | cons k l ih =>
      rw [List.foldl_cons, ih]
      have hb := bump_still r.cfg r.ctr k c n
      unfold Cluster.still
      simp only [hb.1, hb.2]
  · rfl

theorem Die.count_still (r : Die) (c n : Nat) : (r.count c n).still = r.still := by
  unfold Die.count
  split
  · next h =>
    clear h
    generalize List.range 64 = l
    induction l generalizing r with
    | nil => rfl
    | cons k l ih =>
      rw [List.foldl_cons, ih]
      have hb := bump_still r.cfg r.ctr k c n
      unfold Die.still
      simp only [hb.1, hb.2]
  · rfl

/-- A thread with other counters agrees with it. -/
theorem Thread.still_sys (a : Thread) (r : SysRegs) (o : Vector Word 4) (h : r.still = a.sys.still) :
    ({ a with sys := r, oncore := o } : Thread).still = a.still := by
  unfold Thread.still; simp only [h]

theorem Thread.passCycles_still (d n : Nat) (a : Thread) : (a.passCycles d n).still = a.still := by
  unfold Thread.passCycles
  split
  · apply Thread.still_sys
    generalize a.cycleEvents = l
    generalize a.sys = r
    induction l generalizing r with
    | nil => rfl
    | cons c l ih => rw [List.foldl_cons, ih, SysRegs.count_still]
  · rfl

/-! ### Clusters and dies -/

theorem Tbl.map_modify {α β : Type} (k : Nat) (f : α → α) (g : α → β) (h : ∀ x, g (f x) = g x) (t : Tbl α) :
    (Tbl.modify k f t).map (fun e => (e.1, g e.2)) = t.map fun e => (e.1, g e.2) := by
  induction t with
  | nil => rfl
  | cons e t ih =>
    simp only [Tbl.modify]
    split
    · simp [h]
    · simp [ih]

theorem State.Same.ofModClu (a : State) (k : Nat) (f : Cluster → Cluster) (h : ∀ c, (f c).still = c.still) :
    State.Same a (a.modClu k f) := by
  show State.still _ = State.still _
  unfold State.still State.modClu
  simp only [Tbl.map_modify k f Cluster.still h]

theorem State.Same.ofModDie (a : State) (d : Nat) (f : Die → Die) (h : ∀ x, (f x).still = x.still) : State.Same a (a.modDie d f) := by
  show State.still _ = State.still _
  have : (vset a.dies d (f (a.die d))).map Die.still = a.dies.map Die.still := by
    apply Vector.ext
    intro j hj
    simp only [Vector.getElem_map, vset, Vector.getElem_setIfInBounds]
    split
    · next e =>
      subst e
      rw [h]
      unfold State.die vget
      simp [List.getD_eq_getElem?_getD, hj]
    · rfl
  unfold State.still State.modDie
  simp only [this]

theorem State.Same.ofReport (a : State) (r d : Nat) (f : Report → Report) : State.Same a (a.modReport r d f) := rfl

theorem State.Same.ofModTh (a : State) (t : Nat) (f : Thread → Thread) (h : ∀ th, (f th).still = th.still) :
    State.Same a (a.modTh t f) := by
  have : (a.threads.modify t f).map Thread.still = a.threads.map Thread.still := by
    apply List.ext_getElem?
    intro j
    simp only [List.getElem?_map, List.getElem?_modify]
    cases a.threads[j]? with
    | none => rfl
    | some x => by_cases e : t = j <;> simp [e, h]
  show State.still _ = State.still _
  unfold State.still State.modTh
  simp only [this]

theorem State.Same.foldl {γ : Type} (f : State → γ → State) (h : ∀ a r, State.Same a (f a r)) :
    ∀ (l : List γ) (a : State), State.Same a (l.foldl f a)
  | [], a => State.Same.refl a
  | r :: l, a => (h a r).trans (State.Same.foldl f h l (f a r))

/-! ### Events counted and cycles passed -/

/-- Counting an event changes counters alone. -/
theorem State.count_same (s : State) (t c n : Nat) : State.Same s (s.count t c n) := by
  unfold State.count
  have h1 : State.Same s (s.modTh t fun th => if th.active then { th with sys := th.sys.count c n } else th) := by
    refine State.Same.ofModTh s t _ fun th => ?_
    split
    · exact Thread.still_sys th _ th.oncore (SysRegs.count_still th.sys c n)
    · rfl
  simp only
  split
  · exact h1
  · split
    · exact h1.trans (State.Same.ofReport _ _ _ _)
    · exact h1.trans (State.Same.ofModClu _ _ _ fun c' => Cluster.count_still c' _ _)

/-- Counting a die's event changes counters alone. -/
theorem State.countDie_same (s : State) (d c n : Nat) : State.Same s (s.countDie d c n) :=
  State.Same.ofModDie s d _ fun x => Die.count_still x c n

/-- Counting a cluster's cycle events changes its counters alone. -/
theorem State.countClu_same (s : State) (k n : Nat) (here : Thread → Bool) : State.Same s (s.countClu k n here) := by
  unfold State.countClu
  split
  · exact State.Same.foldl _ (fun a (th : Thread) => State.Same.foldl _
      (fun b c => State.Same.ofModClu b k _ fun x => Cluster.count_still x _ _) th.cycleEvents a) _ s
  · rfl

/-- Passing cycles changes clocks and counters alone. -/
theorem State.passCycles_same (s : State) (k n : Nat) : State.Same s (s.passCycles k n) := by
  have h1 : ∀ (p : Thread → Bool) (q : Nat → Team → Bool), State.Same s { s with
      threads := s.threads.map fun th => if p th then th.passCycles (k / 128) n else th
      teams := s.teams.mapIdx fun j (tm : Team) =>
        if q j tm then { tm with ran := tm.ran + n, sincePass := tm.sincePass + n } else tm } := by
    intro p q
    show State.still _ = State.still _
    unfold State.still
    congr 1
    · rw [List.map_map]
      apply List.map_congr_left
      intro th _
      simp only [Function.comp]
      split
      · exact Thread.passCycles_still _ _ _
      · rfl
    · apply List.ext_getElem?
      intro j
      simp only [List.getElem?_map, List.getElem?_mapIdx]
      cases s.teams[j]? with
      | none => rfl
      | some tm => simp only [Option.map_some]; split <;> rfl
  unfold State.passCycles
  simp only
  refine State.Same.trans ?_ (State.Same.ofModDie _ _ _ fun x => rfl)
  refine State.Same.trans ?_ (State.Same.ofModClu _ _ _ fun c => rfl)
  refine State.Same.trans ?_ (State.Same.foldl _ (fun a r => State.Same.ofReport a r _ _) _ _)
  refine State.Same.trans ?_ (State.countClu_same _ _ _ _)
  have e := h1 (fun th => th.kind != .supervisor && cluKey (s.mb th.member).die (s.mb th.member).cluster == k) fun j tm =>
    decide ((s.mb (tm.members.headD 0)).die = k / 128 ∧ tm.onCores ∧
      s.threads.any (fun th => th.kind != Kind.supervisor && th.team == j && th.active))
  simpa only [decide_eq_true_eq] using e

/-- A step that passes changes clocks and counters alone. -/
theorem State.tock_same (s : State) (t : Nat) : State.Same s (s.tock t) := by
  unfold State.tock
  simp only
  split
  · have := State.passCycles_same s (by assumption) (Config.freeNat s.tick + 1)
    exact this
  · rfl

/-- A convoy done changes counters alone while the thread's sampling is off (08 R219). -/
theorem State.convoyDone_same (s : State) (t : Nat) (q : BitVec 32) (pc : Word) (h : (s.th t).sys.sampOn = false) :
    State.Same s (s.convoyDone t q pc) := by
  unfold State.convoyDone
  have h1 := State.count_same s t (if (s.th t).kind = .control then 0x080 else 0x002) 1
  have h2 : ((s.count t (if (s.th t).kind = .control then 0x080 else 0x002) 1).th t).sys.sampOn = false := by
    rw [Thread.sampOn_of_still (h1.th t), h]
  unfold State.countdown
  rw [if_pos (by simp [h2])]
  exact h1

/-! ### Scalar instructions of a strand (02 R45, 11 R275, R276) -/

theorem Thread.withHead_keeps (p : Thread → Prop) (i : Instr) (th : Thread) (h : p th)
    (h1 : ∀ (a : Thread) pc us fa, p a → p (a.enqueue pc us fa)) (h2 : ∀ a : Thread, p a → p a.discard) : p (th.withHead i) := by
  unfold Thread.withHead
  split
  · split
    · split
      · exact h
      · exact h1 _ _ _ _ (h2 _ h)
    · exact h1 _ _ _ _ (h2 _ h)
  · exact h1 _ _ _ _ h

/-- The thread with an instruction at its head has the registers it had. -/
theorem Thread.withHead_x (i : Instr) (th : Thread) : (th.withHead i).x = th.x :=
  Thread.withHead_keeps (fun a => a.x = th.x) i th rfl (fun _ _ _ _ h => h) (fun _ h => h)

theorem Thread.withHead_rx (i : Instr) (th : Thread) (r : XReg) : (th.withHead i).rx r = th.rx r := by
  unfold Thread.rx; rw [Thread.withHead_x]

theorem Thread.withHead_stepReq (i : Instr) (th : Thread) : (th.withHead i).stepReq = th.stepReq :=
  Thread.withHead_keeps (fun a => a.stepReq = th.stepReq) i th rfl (fun _ _ _ _ h => h) (fun _ h => h)

theorem Thread.enqueue_sys (th : Thread) (pc : Word) (us : List CUnit) (fa : Option Trap) :
    ∃ q, (th.enqueue pc us fa).sys = { th.sys with cseq := q } := by
  unfold Thread.enqueue; split
  · exact ⟨th.sys.cseq, rfl⟩
  · exact ⟨_, rfl⟩

/-- Of the system registers a placed instruction moves CSEQ alone. -/
theorem Thread.withHead_sys (i : Instr) (th : Thread) : ∃ q, (th.withHead i).sys = { th.sys with cseq := q } := by
  refine Thread.withHead_keeps (fun a => ∃ q, a.sys = { th.sys with cseq := q }) i th ⟨th.sys.cseq, rfl⟩ ?_ ?_
  · intro a pc us fa ⟨q, h⟩
    obtain ⟨q', h'⟩ := Thread.enqueue_sys a pc us fa
    exact ⟨q', by rw [h', h]⟩
  · intro a ⟨q, h⟩
    unfold Thread.discard
    split
    · exact ⟨q, h⟩
    · next f l _ => exact ⟨f.seq.setWidth 64, by simp [h]⟩

theorem Thread.withHead_sampOn (i : Instr) (th : Thread) : (th.withHead i).sys.sampOn = th.sys.sampOn := by
  obtain ⟨q, h⟩ := Thread.withHead_sys i th
  rw [h]; rfl

theorem Thread.withHead_inh (i : Instr) (th : Thread) : (th.withHead i).inh = th.inh := by
  obtain ⟨q, h⟩ := Thread.withHead_sys i th
  unfold Thread.inh; rw [h]

theorem State.StrandGo.length {s : State} {t : Nat} {i : Instr} (g : s.StrandGo t i) : t < s.threads.length := by
  have := g.runs; simp only [State.runnable, Bool.and_eq_true, decide_eq_true_eq] at this; exact this.1.1.1

theorem State.atHead_th {s : State} {t : Nat} (i : Instr) (h : t < s.threads.length) : (s.atHead t i).th t = (s.th t).withHead i :=
  State.th_modTh s t _ h

/-- Nothing stands before an instruction that can go: the shared prelude comes to its body. -/
theorem strandIssue_go {s : State} {t : Nat} {i : Instr} {body : State → Nat → Fetched → Out} (g : s.StrandGo t i) :
    strandIssue i s body = body (s.atHead t i) t (s.headOf t i) := by
  have e1 : ((s.atHead t i).th t).engFault = [] := by
    rw [State.atHead_th i g.length]
    exact Thread.withHead_keeps (fun a => a.engFault = []) i _ g.engines (fun _ _ _ _ h => h) (fun _ h => h)
  unfold strandIssue
  rw [if_neg (by simp [g.powered]), g.cur]
  simp only
  rw [if_neg (by simp [g.runs]), if_neg g.kind]
  show (if ((s.atHead t i).th t).engFault ≠ [] then _ else _) = _
  rw [if_neg (by simp [e1])]
  show (if ((s.atHead t i).th t).breaks (s.headOf t i).pc then _ else _) = _
  rw [if_neg (by rw [g.noBreak]; simp)]
  rfl

/-- The lanes of a thread without outstanding convoys have nothing to run. -/
theorem State.catchUp_idle {s : State} {t : Nat} (h : (s.th t).window = []) (k : (s.th t).rdvOpen = false) : s.catchUp t = s := by
  unfold State.catchUp
  split
  · rfl
  · unfold State.drain State.drainLanes
    rw [if_pos (by simp [h, k])]

/-- Where no item holds an error no register does, and there is nothing to clear (04 R111). -/
theorem State.struckX_sound {s : State} (h : s.upsets = []) (t : Nat) (l : List XReg) : s.struckX t l = false := by
  unfold State.struckX State.struck
  simp [h]

theorem State.heal_sound {s : State} (h : s.upsets = []) (f : Upset → Bool) : s.heal f = s := by
  unfold State.heal
  rw [h, List.filter_nil, ← h]

/-- Clearing errors is the same effect on another state: it stops for what it stopped for. -/
theorem Eff.heal_halts (t : Nat) (d : Option XReg) (e : Eff) : (e.heal t d).halts = e.halts := by
  cases e <;> rfl

theorem Eff.heal_ok {s : State} (h : s.upsets = []) (t : Nat) (d : Option XReg) : (Eff.ok s).heal t d = .ok s := by
  cases d <;> simp [Eff.heal, State.heal_sound h]

theorem Eff.heal_jump {s : State} (h : s.upsets = []) (t : Nat) (d : Option XReg) (pc : Word) :
    (Eff.jump s pc).heal t d = .jump s pc := by
  cases d <;> simp [Eff.heal, State.heal_sound h]

theorem Eff.heal_after {s : State} (h : s.upsets = []) (t : Nat) (d : Option XReg) (tr : Trap) (pc : Word) :
    (Eff.after s tr pc).heal t d = .after s tr pc := by
  cases d <;> simp [Eff.heal, State.heal_sound h]

/-- A scalar instruction that can execute at once does so, unless it must halt for its lanes. -/
theorem scalarExec_go {s : State} {t : Nat} {i : Instr} {drain : Bool} {uses : List XReg} {f : State → Nat → Fetched → Eff}
    (g : s.ScalarGo t i drain uses) (hf : (f (s.atHead t i) t (s.headOf t i)).halts = false) :
    scalarExec i s drain uses f = .next (State.settle t (s.headOf t i) ((f (s.atHead t i) t (s.headOf t i)).heal t (scalarDest i uses))) := by
  have e2 : ((s.atHead t i).th t).laneFault = [] := by
    rw [State.atHead_th i g.length]
    exact Thread.withHead_keeps (fun a => a.laneFault = []) i _ g.lanes (fun _ _ _ _ h => h) (fun _ h => h)
  have e3 : ((s.atHead t i).th t).stepReq = false := by
    rw [State.atHead_th i g.length, Thread.withHead_stepReq]; exact g.noStep
  unfold scalarExec
  rw [strandIssue_go g.toStrandGo]
  simp only
  rw [if_neg (by simp [g.fetched])]
  have hc : (if (s.atHead t i).mustWait t drain uses = true ∨ ((s.atHead t i).th t).stepReq = true then (s.atHead t i).catchUp t
      else s.atHead t i) = s.atHead t i := by
    rw [if_neg (by simp [g.ready, e3])]
  simp only [hc]
  rw [if_neg (by simp [e2]), if_neg (by simp [g.ready]), if_neg (by rw [State.struckX_sound (s := s.atHead t i) g.sound]; simp),
    if_pos (by rw [Eff.heal_halts, hf]; simp)]

/-- The same for an instruction that halts, once its lanes have nothing to run. -/
theorem scalarExec_halts {s : State} {t : Nat} {i : Instr} {drain : Bool} {uses : List XReg} {f : State → Nat → Fetched → Eff}
    (g : s.ScalarGo t i drain uses) (hw : (s.th t).window = []) (hr : (s.th t).rdvOpen = false) :
    scalarExec i s drain uses f = .next (State.settle t (s.headOf t i) ((f (s.atHead t i) t (s.headOf t i)).heal t (scalarDest i uses))) := by
  have e2 : ((s.atHead t i).th t).laneFault = [] := by
    rw [State.atHead_th i g.length]
    exact Thread.withHead_keeps (fun a => a.laneFault = []) i _ g.lanes (fun _ _ _ _ h => h) (fun _ h => h)
  have e3 : ((s.atHead t i).th t).stepReq = false := by
    rw [State.atHead_th i g.length, Thread.withHead_stepReq]; exact g.noStep
  have idle : (s.atHead t i).catchUp t = s.atHead t i := by
    apply State.catchUp_idle <;> rw [State.atHead_th i g.length]
    · exact Thread.withHead_keeps (fun a => a.window = []) i _ hw (fun _ _ _ _ h => h) (fun _ h => h)
    · exact Thread.withHead_keeps (fun a => a.rdvOpen = false) i _ hr (fun _ _ _ _ h => h) (fun _ h => h)
  unfold scalarExec
  rw [strandIssue_go g.toStrandGo]
  simp only
  rw [if_neg (by simp [g.fetched])]
  have hc : (if (s.atHead t i).mustWait t drain uses = true ∨ ((s.atHead t i).th t).stepReq = true then (s.atHead t i).catchUp t
      else s.atHead t i) = s.atHead t i := by
    rw [if_neg (by simp [g.ready, e3])]
  simp only [hc]
  rw [if_neg (by simp [e2]), if_neg (by simp [g.ready]), if_neg (by rw [State.struckX_sound (s := s.atHead t i) g.sound]; simp)]
  simp only [idle]
  split
  · rfl
  · rw [if_neg (by simp [e2])]

/-! ### The retired convoy (02 R45) -/

theorem Thread.discard_still (th : Thread) : th.discard.sys.sampcfg = th.sys.sampcfg := by
  unfold Thread.discard; cases th.queue <;> rfl

/-- Retiring a convoy keeps sampling as it is, and the debugger's request. -/
theorem Thread.issueScalar_sampOn (th : Thread) (f : Fetched) (pc : Word) : (th.issueScalar f pc).sys.sampOn = th.sys.sampOn := by
  have h1 : th.clearSkip.sys.sampcfg = th.sys.sampcfg := by unfold Thread.clearSkip; split <;> rfl
  have h2 : (th.clearSkip.leave f pc).sys.sampcfg = th.clearSkip.sys.sampcfg := by
    unfold Thread.leave; simp only; split
    · rfl
    · exact Thread.discard_still _
  show getBit (th.clearSkip.leave f pc).sys.sampcfg 0 = getBit th.sys.sampcfg 0
  rw [h2, h1]

theorem Thread.issueScalar_stepReq (th : Thread) (f : Fetched) (pc : Word) : (th.issueScalar f pc).stepReq = th.stepReq := by
  show (th.clearSkip.leave f pc).stepReq = _
  unfold Thread.leave Thread.clearSkip
  simp only
  split <;> split <;> rfl

theorem Thread.issueScalar_x (th : Thread) (f : Fetched) (pc : Word) : (th.issueScalar f pc).x = th.x := by
  show (th.clearSkip.leave f pc).x = _
  unfold Thread.leave Thread.clearSkip
  simp only
  split <;> split <;> rfl

/-- A convoy retired by a quiet thread: its queue, PC and commit pointers change, and clocks and counters. -/
theorem State.settle_retires (s : State) (t : Nat) (f : Fetched) (pc : Word) (q : s.Quiet t) :
    s.Retired t f pc (((s.finish t f pc).stepTrap t f).tock t) := by
  obtain ⟨hl, hs, hr, _⟩ := q
  have e1 : (s.modTh t fun th => th.issueScalar f pc).th t = (s.th t).issueScalar f pc := State.th_modTh s t _ hl
  have h1 : State.Same (s.modTh t fun th => th.issueScalar f pc) (s.finish t f pc) := by
    unfold State.finish State.countScalar
    have hc := State.count_same (s.modTh t fun th => th.issueScalar f pc) t 0x004 1
    refine hc.trans (State.convoyDone_same _ _ _ _ ?_)
    rw [Thread.sampOn_of_still (hc.th t), e1, Thread.issueScalar_sampOn, hs]
  have h2 : ((s.finish t f pc).th t).stepReq = false := by
    rw [Thread.stepReq_of_still (h1.th t), e1, Thread.issueScalar_stepReq, hr]
  have h3 : (s.finish t f pc).stepTrap t f = s.finish t f pc := by
    unfold State.stepTrap; rw [if_neg (by simp [h2])]
  unfold State.Retired
  rw [h3]
  exact h1.trans (State.tock_same _ t)

/-- A scalar instruction that answers `ok`. -/
theorem scalarExec_ok {s s2 : State} {t : Nat} {i : Instr} {drain : Bool} {uses : List XReg} {f : State → Nat → Fetched → Eff}
    (g : s.ScalarGo t i drain uses) (hf : f (s.atHead t i) t (s.headOf t i) = .ok s2) (q : s2.Quiet t) :
    Gives (scalarExec i s drain uses f) (s2.Retired t (s.headOf t i) (s.headOf t i).next) := by
  refine ⟨_, scalarExec_go g (by rw [hf]; rfl), ?_⟩
  rw [hf, Eff.heal_ok q.2.2.2]
  exact State.settle_retires s2 t _ _ q

/-- A scalar instruction that answers `jump`. -/
theorem scalarExec_jump {s s2 : State} {t : Nat} {i : Instr} {drain : Bool} {uses : List XReg} {f : State → Nat → Fetched → Eff} {pc : Word}
    (g : s.ScalarGo t i drain uses) (hf : f (s.atHead t i) t (s.headOf t i) = .jump s2 pc) (q : s2.Quiet t) :
    Gives (scalarExec i s drain uses f) (s2.Retired t (s.headOf t i) pc) := by
  refine ⟨_, scalarExec_go g (by rw [hf]; rfl), ?_⟩
  rw [hf, Eff.heal_jump q.2.2.2]
  exact State.settle_retires s2 t _ _ q

/-- A retired state agrees with the state it comes from in the registers of its thread. -/
theorem State.Retired.rx {s2 b : State} {t : Nat} {f : Fetched} {pc : Word} (h : s2.Retired t f pc b) (hl : t < s2.threads.length)
    (r : XReg) : (b.th t).rx r = (s2.th t).rx r := by
  rw [Thread.rx_of_still (State.Same.th h t), State.th_modTh s2 t _ hl]
  unfold Thread.rx; rw [Thread.issueScalar_x]

/-- Placing an instruction keeps a thread quiet. -/
theorem State.atHead_quiet {s : State} {t : Nat} (i : Instr) (hl : t < s.threads.length) (hs : (s.th t).sys.sampOn = false)
    (hr : (s.th t).stepReq = false) (hu : s.upsets = []) (f : Thread → Thread)
    (h : ∀ th, (f th).sys.sampOn = th.sys.sampOn ∧ (f th).stepReq = th.stepReq) : ((s.atHead t i).modTh t f).Quiet t := by
  have hl2 : t < (s.atHead t i).threads.length := by unfold State.atHead; simpa using hl
  refine ⟨by simpa using hl2, ?_, ?_, hu⟩
  · rw [State.th_modTh _ t _ hl2, (h _).1, State.atHead_th i hl, Thread.withHead_sampOn, hs]
  · rw [State.th_modTh _ t _ hl2, (h _).2, State.atHead_th i hl, Thread.withHead_stepReq, hr]

/-- An instruction whose effect is one register of the thread's registers. -/
theorem regEff_result {i : Instr} {uses : List XReg} {xd : XReg} {v : Thread → Word}
    (he : ∀ s, exec i s = scalarExec i s false uses (regEff xd v)) (hv : ∀ th : Thread, v (th.withHead i) = v th) :
    RegResult i uses xd v := by
  intro s t g hs
  have hl := g.length
  have e : v ((s.atHead t i).th t) = v (s.th t) := by rw [State.atHead_th i hl, hv]
  have hm : ((s.atHead t i).modTh t fun th => th.wx xd (v th)) = (s.atHead t i).modTh t fun th => th.wx xd (v (s.th t)) := by
    unfold State.modTh State.atHead State.modTh
    congr 1
    apply List.ext_getElem?
    intro j
    simp only [List.getElem?_modify]
    by_cases ej : t = j
    · subst ej
      have : (s.threads[t]?) = some (s.th t) := by
        unfold State.th; simp [List.getD_eq_getElem?_getD, hl]
      simp [this, hv]
    · simp [ej]
  have q : ((s.atHead t i).modTh t fun th => th.wx xd (v (s.th t))).Quiet t :=
    State.atHead_quiet i hl hs g.noStep g.sound _ fun th => ⟨by rw [Thread.wx_sys], Thread.wx_stepReq _ _ _⟩
  rw [he]
  obtain ⟨b, hb, hr⟩ := scalarExec_ok (f := regEff xd v) g (s2 := (s.atHead t i).modTh t fun th => th.wx xd (v (s.th t)))
    (by unfold regEff; rw [hm]) q
  refine ⟨b, hb, hr, fun r => ?_⟩
  have hl2 : t < (s.atHead t i).threads.length := by unfold State.atHead; simpa using hl
  rw [hr.rx q.1, State.th_modTh _ t _ hl2, Thread.rx_wx, State.atHead_th i hl, Thread.withHead_rx]

end Sys2Proof.Machine
end

