-- ==== Sys2Proof/Tests/Slice0.lean ====
section
/-! SUPPORT. Tests of single steps, with expected values worked out from the spec's tables and examples, and for every statement of
Certificates/Slice0/Obligations.lean with hypotheses a witness that they can be met. -/

namespace Sys2Proof.Tests

open Sys2Proof.Machine

set_option maxHeartbeats 4000000
set_option Elab.async false

/-- Memory at reset is canonical. -/
theorem test_reset_mem : Mem.wf State.reset.mem = true := by decide

/-- A module with a loaded team: strand 0 and control core 1 of team 0 (member 0, region 4095), with no supervisor cores; their code page
at 0x1000 is readable and writable. -/
def tBase : State := State.loadTeam { State.reset with clusters := [(0, Cluster.reset 0)], threads := [] } []

def tStrand : State := { tBase with cur := .thread 0 }
def tControl : State := { tBase with cur := .thread 1 }

/-- Thread t is a core with an empty queue and nothing outstanding. -/
def strandOk (s : State) (t : Nat) : Bool :=
  let th := s.th t
  s.mgmt.powered && decide (s.cur = .thread t) && s.runnable t && decide (th.kind ≠ .control) && decide (th.engFault = []) &&
  decide (th.dbgPc = Vector.replicate 8 (0, 0)) && decide (th.stepReq = false) && decide (th.laneFault = []) &&
  decide (t < s.threads.length) && decide (th.queue = []) && decide (th.window = []) &&
  decide (s.engPending t = []) && decide (s.upsets = []) && th.slots.toList.all fun x => !x.isOpen

theorem strandGo_of {s : State} {t : Nat} (h : strandOk s t = true) (i : Instr) : s.StrandGo t i := by
  simp only [strandOk, Bool.and_eq_true, decide_eq_true_eq] at h
  obtain ⟨⟨⟨⟨⟨⟨⟨⟨⟨⟨⟨⟨⟨h1, h2⟩, h3⟩, h4⟩, h5⟩, h6⟩, h7⟩, h8⟩, h9⟩, h10⟩, h11⟩, h13⟩, h15⟩, h14⟩ := h
  refine ⟨⟨h1, h2, h3, h4, h5, ?_, h7, h8⟩, h15⟩
  rw [State.atHead_th i h9]
  simp [Thread.breaks, Thread.withHead, h10, Thread.enqueue, h6, getBit]

theorem scalarGo_of {s : State} {t : Nat} (h : strandOk s t = true) (i : Instr) (drain : Bool) (uses : List XReg) :
    s.ScalarGo t i drain uses := by
  have g := strandGo_of h i
  simp only [strandOk, Bool.and_eq_true, decide_eq_true_eq] at h
  obtain ⟨⟨⟨⟨⟨⟨⟨⟨⟨⟨⟨⟨⟨h1, h2⟩, h3⟩, h4⟩, h5⟩, h6⟩, h7⟩, h8⟩, h9⟩, h10⟩, h11⟩, h13⟩, _⟩, h14⟩ := h
  have k : (s.atHead t i).engPending t = [] := h13
  have e := State.atHead_th i h9
  refine ⟨g, ?_, ?_⟩
  · simp [State.headOf, e, Thread.withHead, h10, Thread.enqueue, Thread.head]
  · simp only [State.mustWait, State.pendingRegs, k, e, Thread.withHead, h10, Thread.enqueue, Thread.pendingX, h11]
    simp only [List.all_eq_true, Bool.not_eq_true', Vector.mem_toList_iff] at h14
    simp
    intro x _ y hy ho
    rw [h14 y hy] at ho
    contradiction

theorem syncGo_of {s : State} {t : Nat} (h : strandOk s t = true) (u : s.User t) (i : Instr) (drain : Bool) (uses : List XReg) :
    s.SyncGo t i drain uses := ⟨scalarGo_of h i drain uses, u⟩

/-- Thread t is a control thread with nothing in flight. -/
def controlOk (s : State) (t : Nat) : Bool :=
  let th := s.th t
  s.mgmt.powered && decide (s.cur = .thread t) && s.runnable t && decide (th.kind = .control) && decide (th.engFault = []) &&
  decide (th.dbgPc = Vector.replicate 8 (0, 0)) && decide (th.stepReq = false) && decide (th.inflight = []) && decide (th.platen = []) &&
  decide (th.inh = false) && decide (getBit th.sys.sbchk 0 = false) && s.ctlFirst t && decide (th.nextIssue = s.ctlNow t) &&
  decide (s.upsets = [])

theorem wordGo_of {s : State} {t : Nat} (h : controlOk s t = true) (op : Nat) (w : CW) : s.WordGo t op w := by
  simp only [controlOk, Bool.and_eq_true, decide_eq_true_eq] at h
  obtain ⟨⟨⟨⟨⟨⟨⟨⟨⟨⟨⟨⟨⟨h1, h2⟩, h3⟩, h4⟩, h5⟩, h6⟩, h7⟩, h8⟩, h9⟩, h10⟩, h11⟩, h12⟩, h13⟩, h14⟩ := h
  exact { powered := h1, cur := h2, runs := h3, kind := h4, first := h12, clock := h13, units := by simp [h8], engines := h5
          noBreak := by simp [Thread.breaks, h6, getBit], noStep := h7, handler := by simp [h10], twait := by simp [Thread.twaits, h8]
          talloc := by simp [h8], free := by simp [Thread.ctlHeld, h8, h9], checked := .inl h11, sound := h14 }

theorem test_strand : strandOk tStrand 0 = true := by decide +kernel
theorem test_control : controlOk tControl 1 = true := by decide +kernel

/-! ### Words, written out from the spec's encodings and examples (10-16, 20) -/

/-- Scalar words of 11 and 20: ADDI, DIV, LD, ST, FADD, BLT, JALR, CSRR, NOP, DONE, LIT. -/
theorem test_words_scalar :
    decodeStrand [0xFFE02020] = .ok (.addi 4 0 0x7FF) ∧ decodeStrand [0x15283810] = .ok (.div 7 8 9) ∧
    decodeStrand [0x028A28C0] = .ok (.ld .i32 5 10 2) ∧ decodeStrand [0x05C350D0] = .ok (.st .i64 10 3 5) ∧
    decodeStrand [0x80E62910] = .ok (.fadd .f32 5 6 7) ∧ decodeStrand [0xFFA52220] = .ok (.blt 4 5 0x7FD) ∧
    decodeStrand [0x00010270] = .ok (.jalr 0 1 0) ∧ decodeStrand [0x00203280] = .ok (.csrr 6 2) ∧
    decodeStrand [0x00001A90] = .ok .nop ∧ decodeStrand [0x00001290] = .ok .done ∧
    decodeStrand [0x00004FE2, 0x89ABCDEF, 0x01234567] = .ok (.lit 9 0x0123456789ABCDEF) := by decide +kernel

/-- Vector words of 12, with and without a prefix: VCFG, SETVLI, VFADD, VFFMA, VCVTE, VPACK, MPOPC. -/
theorem test_words_vector :
    decodeStrand [0x00122AA0] = .ok (.vcfg 5 .w32 2) ∧ decodeStrand [0x006432C0] = .ok (.setvli 6 100) ∧
    decodeStrand [0x00044AB0] = .ok (.setvl 9 4) ∧
    decodeStrand [0x94411BD0] = .ok (.vfadd ⟨false, true, false, true, none⟩ .f32 3 1 2) ∧
    decodeStrand [0x000107F1, 0x80413418] = .ok (.vffma ⟨false, false, false, false, some ⟨.none, false, false, false, 0, 4⟩⟩ .f32 6 1 2) ∧
    decodeStrand [0x62221CB0] = .ok (.vcvte ⟨false, false, false, false, none⟩ (.f .bf16) (.f .f32) 3 2) ∧
    decodeStrand [0x000187F1, 0xC1212CC8] = .ok (.vpack ⟨false, false, false, false, some ⟨.none, false, false, false, 0, 6⟩⟩ 2 .l64 5 1) ∧
    decodeStrand [0x80043C90] = .ok (.mpopc ⟨false, false, false, false, none⟩ 7 4) := by decide +kernel

/-- Words of 13: loads, stores, remote and tile accesses, slides and reductions. -/
theorem test_words_lanes :
    decodeStrand [0x038A1500] = .ok (.vld ⟨false, false, false, false, none⟩ 0x1C 10 2) ∧
    decodeStrand [0x216A2500] = .ok (.vlds ⟨false, false, false, false, none⟩ 11 10 4) ∧
    decodeStrand [0x606A2520] = .ok (.vstxo ⟨false, false, false, false, none⟩ 3 10 4) ∧
    decodeStrand [0x40CC2D40] = .ok (.vrstOrd ⟨false, false, false, false, none⟩ 6 12 5) ∧
    decodeStrand [0x01093D50] = .ok (.tld ⟨false, false, false, false, none⟩ 8 9 7) ∧
    decodeStrand [0x00E52610] = .ok (.vslup ⟨false, false, false, false, none⟩ 4 5 7) ∧
    decodeStrand [0x00032E20] = .ok (.vred ⟨false, false, false, false, none⟩ .add .i 5 3) ∧
    decodeStrand [0x80023630] = .ok (.vfred ⟨false, false, false, false, none⟩ .sum .f32 6 2) := by decide +kernel

/-- Control words of 10 R265 and of the program of 20: NOP, LD, ADD, FFMA, ST, BNE, DONE. -/
theorem test_words_control :
    decodeControl 0x000000030C30FD5D = .ok (.ccNop ⟨63, 48, 48, 48, 0, 0, 0, 0⟩) ∧
    decodeControl 0x000281070C611C05 = .ok (.ccAdd ⟨7, 33, 49, 48, 1, 0, 1, 5⟩) ∧
    decodeControl 0x000000405C031881 = .ok (.ccLd ⟨6, 3, 48, 5, 0, 2, 0, 0⟩) ∧
    decodeControl 0x001000030C431405 = .ok (.ccAdd ⟨5, 3, 49, 48, 0, 0, 0, 32⟩) ∧
    decodeControl 0x0002070C920628DD = .ok (.ccFfma ⟨10, 6, 8, 9, 3, 0, 7, 4⟩) ∧
    decodeControl 0x002000005803FC85 = .ok (.ccSt ⟨63, 3, 32, 5, 0, 0, 0, 64⟩) ∧
    decodeControl 0xFFFD80030160FD05 = .ok (.ccBne ⟨63, 32, 5, 48, 0, 0, 0, 0x1FFFB⟩) ∧
    decodeControl 0x000000030C30FD59 = .ok (.ccDone ⟨63, 48, 48, 48, 0, 0, 0, 0⟩) ∧
    decodeControl 0 = .error .badLength := by decide +kernel

/-- Walker words of 16: WLD, WEMIT, WLOOP, WBR, WHALT; a word of zeros is ILLEGAL. -/
theorem test_words_walker :
    decodeWalker 0xAF10 = .ok (.wld 0xC 0xB 2 0) ∧ decodeWalker 0x33420 = .ok (.wemit false 0xD 0xC) ∧
    decodeWalker 0xFFE80232 = .ok (.wloop 8 0x3FFA) ∧ decodeWalker 0xFFC81030 = .ok (.wbr 4 0x3FF2) ∧
    decodeWalker 0x3F = .ok .whalt ∧ decodeWalker 0 = .error .illegal := by decide +kernel

/-- Refused words: zero, a base word with P = 1 and no prefix, the orphan of 10's example. -/
theorem test_words_refused :
    decodeStrand [0] = .error .zeroWord ∧ decodeStrand [0x80A41BD8] = .error .orphanFirst := by decide +kernel

/-- Encodings of the same words. -/
theorem test_encode :
    encode (.addi 4 0 0x7FF) = [0xFFE02020] ∧ encode (.lit 9 0x0123456789ABCDEF) = [0x00004FE2, 0x89ABCDEF, 0x01234567] ∧
    encode (.vffma ⟨false, false, false, false, some ⟨.none, false, false, false, 0, 4⟩⟩ .f32 6 1 2) = [0x000107F1, 0x80413418] ∧
    encode (.ccFfma ⟨10, 6, 8, 9, 3, 0, 7, 4⟩) = [0x920628DD, 0x0002070C] ∧ encode (.wloop 8 0x3FFA) = [0xFFE80232] := by
  decide +kernel

/-! ### Ill-formed instructions: each check refuses one -/

def pl : VCtl := ⟨false, false, false, false, none⟩
def plM : VCtl := ⟨false, false, false, true, none⟩
def plTP : VCtl := ⟨false, true, false, false, none⟩
def plMP : VCtl := ⟨false, false, true, false, none⟩
def px : VCtl := ⟨false, false, false, false, some ⟨.none, false, false, false, 0, 0⟩⟩
def ec : ECtl := ⟨false, false, false, false, 0⟩

/-- FCVT of two integers, a BAR at FAB, a FENCE of no kind, an engine that XSTAT, XWAIT do not name, a mode of STDROP, XCOPY at FAB or
with an unused sem bit, a 64-bit AMO form of FAMO. -/
theorem test_ill_scalar :
    WellFormed (.fcvt .i64 .n64 1 2) = false ∧ WellFormed (.bar .fab) = false ∧ WellFormed (.fence .clu 0) = false ∧
    WellFormed (.xstat .clu 1 (.eng 1)) = false ∧ WellFormed (.xwait .clu (.reg 1) (.eng 9)) = false ∧ WellFormed (.stdrop 1 3) = false ∧
    WellFormed (.xcopy .fab 1 (.reg 2) 3 0 0 false false) = false ∧ WellFormed (.xcopy .clu 1 (.reg 2) 3 0 1 false false) = false ∧
    WellFormed (.famo .sum true .dev ⟨true, false, false, false⟩ 1 (.reg 2) 3) = false := by decide +kernel

/-- A register above v31, MP without M, a type of F64, a mask or a policy where none is, a missing mask or prefix, a reserved format. -/
theorem test_ill_vector :
    WellFormed (.vadd pl .i 1 2 32) = false ∧ WellFormed (.vadd plMP .i 1 2 3) = false ∧ WellFormed (.vfexp2 px .f64 1 2) = false ∧
    WellFormed (.vcmp plTP .eq .i 1 2 3) = false ∧ WellFormed (.mand plM 1 2 3) = false ∧ WellFormed (.mpopc plTP 1 2) = false ∧
    WellFormed (.vmerge pl .i 1 2 3) = false ∧ WellFormed (.vpack pl 2 .l64 1 2) = false ∧ WellFormed (.vpack px 7 .l64 1 2) = false ∧
    WellFormed (.vadd ⟨false, false, false, false, some ⟨.none, false, true, false, 0, 0⟩⟩ .i 1 2 3) = false ∧
    WellFormed (.vadd ⟨false, false, false, false, some ⟨.none, false, false, false, 5, 0⟩⟩ .i 1 2 3) = false ∧
    WellFormed (.vst plTP 0 1 2) = false ∧ WellFormed (.vextr plM 1 2 3) = false ∧ WellFormed (.vcomp pl 1 2) = false ∧
    WellFormed (.vexpd pl 1 2) = false ∧ WellFormed (.vred plTP .add .i 1 2) = false := by decide +kernel

/-- Extended units: K without M, VTOPK's mask policy and equal destinations, VISECT with a mask, VWAIT with a policy, a 64-bit flag of VAMO, a remote
VAMOCAS. -/
theorem test_ill_extended :
    WellFormed (.vtopk { ec with mreg := 1 } false .i 1 2 3 4 5) = false ∧ WellFormed (.vtopk ec false .i 1 1 3 4 5) = false ∧
    WellFormed (.vtopk { ec with m := true, mp := true } false .i 1 2 3 4 5) = false ∧
    WellFormed (.visect { ec with m := true } .i 1 2 3 4 5) = false ∧ WellFormed (.vwait { ec with tp := true } .i false false 1 2 3 4 0) = false ∧
    WellFormed (.vamo ec .add .i .dev ⟨true, false, false, false⟩ 1 2 3 4) = false ∧
    WellFormed (.vamocas ec .i .dev ⟨false, false, false, true⟩ 1 2 3 4) = false := by decide +kernel

/-- Control words: a tag on a word of one cycle, none on SEMTAS, a source of 54, a nonzero immediate of NOP, an unused source, a destination of a
branch. -/
theorem test_ill_control :
    WellFormed (.ccAdd ⟨7, 33, 49, 48, 1, 1, 1, 5⟩) = false ∧ WellFormed (.ccSemtas ⟨63, 48, 48, 48, 0, 0, 0, 1⟩) = false ∧
    WellFormed (.ccAdd ⟨7, 33, 54, 48, 1, 0, 1, 5⟩) = false ∧ WellFormed (.ccNop ⟨63, 48, 48, 48, 0, 0, 0, 1⟩) = false ∧
    WellFormed (.ccAdd ⟨7, 33, 49, 1, 1, 0, 1, 5⟩) = false ∧ WellFormed (.ccBne ⟨1, 32, 5, 48, 0, 0, 0, 5⟩) = false := by decide +kernel

/-- Well-formed forms beside them. -/
theorem test_well_formed :
    WellFormed (.vadd pl .i 1 2 31) = true ∧ WellFormed (.vadd px .i 63 40 32) = true ∧ WellFormed (.bar .clu) = true ∧
    WellFormed (.ccAdd ⟨7, 33, 49, 48, 1, 0, 1, 5⟩) = true ∧ WellFormed (.wld 0 0 0 0) = true ∧
    WellFormed (.moduleReset true true 0 []) = true := by decide +kernel

/-! ### Steps with the results of the spec's examples -/

/-- Registers x of thread t. -/
def tX (s : State) (t : Nat) (l : List (XReg × Word)) : State := s.modTh t fun th => l.foldl (fun th p => th.wx p.1 p.2) th

/-- Register r of thread 0 after one instruction on x1 = a, x2 = b. -/
noncomputable def xOf (i : Instr) (a b : Word) (r : XReg) : Option Word :=
  match exec i (tX tStrand 0 [(1, a), (2, b)]) with | .next s => some ((s.th 0).rx r) | _ => none

/-- The integer edge cases of 11. -/
theorem test_mulh : xOf (.mulh 3 1 2) 0x8000000000000000 2 3 = some 0xFFFFFFFFFFFFFFFF := by decide +kernel
theorem test_mulhn : xOf (.mulhn 3 1 2) 0xFFFFFFFFFFFFFFFF 0xFFFFFFFFFFFFFFFF 3 = some 0xFFFFFFFFFFFFFFFE := by decide +kernel
theorem test_div : xOf (.div 3 1 2) 0x8000000000000000 0xFFFFFFFFFFFFFFFF 3 = some 0x8000000000000000 := by decide +kernel
theorem test_rem : xOf (.rem 3 1 2) 0x8000000000000000 0xFFFFFFFFFFFFFFFF 3 = some 0 := by decide +kernel
theorem test_divn : xOf (.divn 3 1 2) 37 0 3 = some 0xFFFFFFFFFFFFFFFF := by decide +kernel
theorem test_remn : xOf (.remn 3 1 2) 37 0 3 = some 37 := by decide +kernel
theorem test_shl : xOf (.shl 3 1 2) 1 70 3 = some 0x40 := by decide +kernel
theorem test_clz : xOf (.clz 3 1) 0 0 3 = some 64 := by decide +kernel
theorem test_sltni : xOf (.sltni 3 1 0x7FF) 5 0 3 = some 1 := by decide +kernel
/-- x0 discards a write (03 R63). -/
theorem test_add_x0 : xOf (.add 0 1 2) 5 6 0 = some 0 := by decide +kernel
/-- R238: −1.0 to N64 gives 0. -/
theorem test_fcvt : xOf (.fcvt .n64 (.f .f32) 3 1) 0xBF800000 0 3 = some 0 := by decide +kernel
/-- −2^63 times 2 in F32 rounds, 2^127 times 2 overflows to infinity. -/
theorem test_fmul : xOf (.fmul .f32 3 1 2) 0x7F000000 0x40000000 3 = some 0x7F800000 := by decide +kernel
theorem test_jalr : xOf (.jalr 3 1 0) 0x2000 0 3 = some 0x1004 := by decide +kernel

/-- The value that register c of control thread 1 will hold after word i on c1 = a, c2 = b. -/
noncomputable def cOf (i : Instr) (a b : Word) (r : BitVec 5) : Option Word :=
  match exec i (tX tControl 1 [(1, a), (2, b)]) with | .next s => some ((s.th 1).will r) | _ => none

theorem test_cc_mulh : cOf (.ccMulh ⟨3, 1, 2, 48, 0, 0, 0, 0⟩) 0x8000000000000000 2 3 = some 0xFFFFFFFFFFFFFFFF := by decide +kernel
theorem test_cc_divn : cOf (.ccDivn ⟨3, 1, 2, 48, 0, 0, 0, 0⟩) 37 0 3 = some 0xFFFFFFFFFFFFFFFF := by decide +kernel
theorem test_cc_shl : cOf (.ccShl ⟨3, 1, 2, 48, 0, 0, 0, 0⟩) 1 70 3 = some 0x40 := by decide +kernel
theorem test_cc_fadd : cOf (.ccFadd ⟨6, 1, 2, 48, 0, 0, 0, 4⟩) 0x3FC00000 0x40000000 6 = some 0x40600000 := by decide +kernel

/-- The tie of 12: 16,777,218 + 1 rounds to even. -/
theorem test_round_tie : (addVal (fmtOf .f32) .rne false (fload (fmtOf .f32) false 0x4B800001) (fload (fmtOf .f32) false 0x3F800000)).bits = 0x4B800002 := by
  decide +kernel
theorem test_round_tie_rtz : (addVal (fmtOf .f32) .rtz false (fload (fmtOf .f32) false 0x4B800001) (fload (fmtOf .f32) false 0x3F800000)).bits = 0x4B800001 := by
  decide +kernel

/-- The strand with VLEN = 6 and the registers of 12's example: v1 = i + 1.0, v2 = 0.5, v3 = 9.0, v0 = 101101. -/
def tVec : State := tStrand.modTh 0 fun th =>
  { th with
    credit := 1
    sys := { th.sys with vlen := 6 }
    v := (List.range 8).foldl (fun v i =>
      vput1 (vput1 (vput1 (vput1 v 8 32 1 i ([0x3F800000, 0x40000000, 0x40400000, 0x40800000, 0x40A00000, 0x40C00000, 0, 0].getD i 0))
        8 32 2 i 0x3F000000) 8 32 3 i 0x41100000) 8 1 0 i ([1, 0, 1, 1, 0, 1, 0, 0].getD i 0)) th.v }

/-- Element e of register vd of strand 0 after the vector instruction i is broadcast and every lane has stepped. -/
noncomputable def vOf (i : Instr) (vd w e : Nat) : Option Nat :=
  match exec i tVec with | .next s => some (vget1 ((s.lanesTurn 0).th 0).v 8 w vd e) | _ => none

/-- The table of 12: an active sum, a masked-off element kept, a tail element of ones; the MA and mz policies. -/
theorem test_vfadd : vOf (.vfadd ⟨false, true, false, true, none⟩ .f32 3 1 2) 3 32 3 = some 0x40900000 ∧
    vOf (.vfadd ⟨false, true, false, true, none⟩ .f32 3 1 2) 3 32 4 = some 0x41100000 := by decide +kernel
theorem test_vfadd_tail : vOf (.vfadd ⟨false, true, true, true, none⟩ .f32 3 1 2) 3 32 1535 = some 0xFFFFFFFF ∧
    vOf (.vfadd ⟨false, true, true, true, none⟩ .f32 3 1 2) 3 32 1 = some 0xFFFFFFFF := by decide +kernel
theorem test_vfsub_mz : vOf (.vfsub ⟨false, true, false, true, some ⟨.none, false, true, false, 0, 0⟩⟩ .f32 3 1 2) 3 32 1 = some 0 := by
  decide +kernel
/-- VFADD to its own source breaks the rule of R44. -/
theorem test_convoy : (convoyTrap (tVec.th 0).capture (tVec.headOf 0 (.vfadd ⟨false, true, false, true, none⟩ .f32 3 3 2))).map (·.cause) =
    some 0x03 := by decide +kernel

/-- Eight lanes, VLEN = n, 32-bit elements, va = v1 and vb = v2 as listed, and xn in x7. -/
def tRdv (n : Nat) (a b : List Nat) (xn : Word) : RdvIn :=
  { cap := (((tX tStrand 0 [(7, xn)]).modTh 0 fun th => { th with sys := { th.sys with vlen := BitVec.ofNat 64 n } }).th 0).capture
    v := (List.range n).foldl (fun v i => vput1 (vput1 v 8 32 1 i (a.getD i 0)) 8 32 2 i (b.getD i 0)) []
    carry := 0
    parts := [] }

/-- The first elements of v3. -/
def els (d : Delivery) (v n : Nat) : List Nat := (List.range n).map fun e => vget1 d.v 8 32 v e

/-- The reduction tree of 13's example gives 0x4B80_0001 with NX. -/
theorem test_vfred :
    let r := tRdv 16 [0x4B800000, 0x3F800000, 0, 0, 0, 0, 0, 0, 0x3F800000, 0x3F800000] [] 0
    let d := rdvVfred { r with parts := rdvParts r (.vfred pl .sum .f32 10 1) } pl .sum .f32 10
    d.x = some (10, 0x4B800001) ∧ d.flags = flNX := by decide +kernel

def tTop : RdvIn := tRdv 8 [0, 0x40400000, 0x80000000, 0x40400000, 0x7FC00000, 0xBF800000, 0, 0] [] 0

/-- VTOPK of 13's example, with and without NONZERO. -/
theorem test_vtopk_nonzero :
    let d := rdvVtopk tTop ec true (.f .f32) 3 4 1 10 4
    els d 3 5 = [0x40400000, 0x40400000, 0xBF800000, 0xFF800000, 0xFFFFFFFF] ∧ els d 4 5 = [1, 3, 5, 0xFFFFFFFF, 0xFFFFFFFF] ∧
    d.x = some (10, 3) := by decide +kernel
theorem test_vtopk :
    let d := rdvVtopk tTop ec false (.f .f32) 3 4 1 10 4
    els d 3 5 = [0x40400000, 0x40400000, 0, 0x80000000, 0xFFFFFFFF] ∧ els d 4 5 = [1, 3, 0, 2, 0xFFFFFFFF] ∧
    d.x = some (10, 4) := by decide +kernel

/-- VISECT of 13's example. -/
theorem test_visect :
    let d := rdvVisect (tRdv 8 [1, 3, 4, 7, 9, 12, 15, 20] [2, 3, 7, 8, 12, 13] 0x0000000600000008) ec .n 3 1 2 6 7
    els d 3 8 = [3, 7, 12, 0xFFFFFFFF, 0xFFFFFFFF, 0xFFFFFFFF, 0xFFFFFFFF, 0xFFFFFFFF] ∧
    d.x = some (6, 0x8000060000600003) := by decide +kernel

/-- VPACK's block of 09: E = 126 and mantissas 2, −3, 0, 6. -/
theorem test_vpack :
    let q := packBlock .rne 4 (([0x3F400000, 0xBFA66666, 0x3DCCCCCD, 0x4039999A] ++ List.replicate 28 0).map (fdecode (fmtOf .f32)))
    q.1 = 126 ∧ q.2.1.take 4 = [2, -3, 0, 6] ∧ q.2.2 = flNX := by decide +kernel

/-- Error-feedback rounding of 09: outputs 0, 1, 0, 1, and VCARRY ends at 0xBECC_CCCC. -/
theorem test_efr :
    let st := fun (r : Nat) => efrStep .int8 false false r 0x3ECCCCCD
    let a := st 0
    let b := st a.2.1
    let c := st b.2.1
    let d := st c.2.1
    (a.1, b.1, c.1, d.1, d.2.1) = (0, 1, 0, 1, 0xBECCCCCC) := by decide +kernel

/-- The exact lines of 09 R249: sin(0.5 pi) = 1 and sin(-pi) = -0, without a flag. -/
theorem test_sinpi : sincosF32 false 0x3F000000 = ⟨0x3F800000, 0⟩ ∧ sincosF32 false 0xBF800000 = ⟨0x80000000, 0⟩ := by decide +kernel

/-- The address of 04: stack H26, homed on D3. -/
theorem test_home : ((State.reset.homeOf 0x3A401280).map (·.1)) = some 3 := by decide +kernel

/-- A platen operation of op and IMM17 imm at the head of control thread 1, with operands a, b, c. -/
def tOp (op imm : Nat) (a b c : Word) : PlatenOp :=
  { id := 900, issued := 0, startAt := 0, op, cw := ⟨63, 48, 48, 48, 0, 0, 0, BitVec.ofNat 17 imm⟩, pc := 0x1000, cseq := 0,
    eng := 7, eseq := 1, a, b, c, rmode := 0, started := true, pos := 0, groups := [], tablePoison := false, hdr := none, resid := 0, flags := 0, locks := [],
    fault := none, cover := [], waited := [], heldAt := none, heldFor := 0 }

/-- A member whose tile 7 holds 5,779 at (0, 0), tile 3 holds 2^24 there, and the exponents 120 and 127. -/
def tAcc : Member :=
  { tBase.mb 0 with
    acc := NMap.set (NMap.set [] (7 * 16384) 5779) (3 * 16384) 0x4B800000
    tile := Mem.write (Mem.write [] 0 (List.replicate 128 120)) 128 (List.replicate 128 127) }

/-- SCACC of 15's example: 2^24 + 5,779 / 128 rounds to 0x4B80_0017, with NX. -/
theorem test_scacc : (NMap.get (tAcc.scacc (tOp 0x83 0x73 0 128 0)).1.acc (3 * 16384)) = 0x4B800017 := by decide +kernel

/-! ### States and operands that meet the statements' hypotheses -/

/-- A pair whose second part is a value comes to it. -/
theorem ok_of {σ ε α : Type} (p : σ × Except ε α) (f : σ → α → Bool)
    (h : (match p.2 with | .ok x => f p.1 x | .error _ => false) = true) : ∃ s x, p = (s, .ok x) ∧ f s x = true := by
  obtain ⟨s, r⟩ := p
  cases r with
  | ok x => exact ⟨s, x, rfl, h⟩
  | error e => exact absurd h (by simp)

/-- Bytes of memory at offset o of the loaded page, which is at 0x1000. -/
def tMem (s : State) (o : Nat) (bs : List Byte) : State := { s with mem := Mem.write s.mem (0x3FF4000 + o) bs }

theorem go (i : Instr) (d : Bool) (u : List XReg) : tStrand.ScalarGo 0 i d u := scalarGo_of test_strand i d u
theorem user : tStrand.User 0 := ⟨by decide +kernel, by decide +kernel⟩
theorem sgo (i : Instr) (d : Bool) (u : List XReg) : tStrand.SyncGo 0 i d u := syncGo_of test_strand user i d u
theorem idle : tStrand.Idle 0 := ⟨by decide +kernel, by decide +kernel, by decide +kernel⟩
theorem still : (tStrand.th 0).sys.sampOn = false := by decide +kernel
theorem quiet : tStrand.Quiet 0 := ⟨by decide +kernel, by decide +kernel, by decide +kernel, by decide +kernel⟩

theorem idle_of {s : State} {t : Nat} (h : (decide ((s.th t).window = []) && !(s.th t).rdvOpen && !s.awaitsRemote t) = true) : s.Idle t := by
  simpa [State.Idle, and_assoc] using h

theorem wgo (op : Nat) (w : CW) : tControl.WordGo 1 op w := wordGo_of test_control op w

/-- The strand with an error in x1 that cannot be corrected. -/
def tUpset : State := { tStrand with upsets := [.xreg 0 1] }

/-- IntegerInstructions, BitsAndImmediates. -/
theorem witness_IntegerInstructions : tStrand.ScalarGo 0 (.add 3 1 2) false [3, 1, 2] ∧ (tStrand.th 0).sys.sampOn = false ∧
    tUpset.StrandAt 0 (.add 3 1 2) ∧ (tUpset.headOf 0 (.add 3 1 2)).fault = none ∧
    (tUpset.atHead 0 (.add 3 1 2)).mustWait 0 false [3, 1, 2] = false ∧ tUpset.Idle 0 ∧
    ∃ r ∈ ([1, 2] : List XReg), r ≠ 0 ∧ Upset.xreg 0 r.toNat ∈ tUpset.upsets := by
  refine ⟨go _ _ _, still, ⟨?_, ?_, ?_, ?_, ?_, ?_, ?_, ?_⟩, ?_, ?_, idle_of ?_, ?_⟩ <;> decide +kernel
theorem witness_BitsAndImmediates : tStrand.ScalarGo 0 (.clz 3 1) false [3, 1] ∧ (tStrand.th 0).sys.sampOn = false ∧ (1 : Word) ≠ 0 :=
  ⟨go _ _ _, still, by decide⟩

def tLd : State := tX tStrand 0 [(1, 0x1FF8), (2, 7)]
theorem tLd_ok : strandOk tLd 0 = true := by decide +kernel

def quietB (s : State) (t : Nat) : Bool :=
  decide (t < s.threads.length) && !(s.th t).sys.sampOn && !(s.th t).stepReq && decide (s.upsets = [])

theorem quiet_of {s : State} {t : Nat} (h : quietB s t = true) : s.Quiet t := by
  simpa [quietB, State.Quiet, and_assoc] using h

/-- Loads: eight bytes at the end of the page. -/
theorem witness_Loads : let i := Instr.ld .n64 3 1 0
    tLd.ScalarGo 0 i true [3, 1] ∧ (tLd.atHead 0 i).interlocked 0 false 0x1FF8 8 = false ∧
    ∃ s1 sp, (tLd.atHead 0 i).access ((tLd.atHead 0 i).ctxOf 0) .read false 0x1FF8 8 = (s1, .ok sp) ∧
      (s1.readSpans ((tLd.atHead 0 i).ctxOf 0) 0 sp).1.Quiet 0 := by
  refine ⟨scalarGo_of tLd_ok _ _ _, by decide +kernel, ?_⟩
  obtain ⟨s1, sp, h, q⟩ := ok_of ((tLd.atHead 0 (.ld .n64 3 1 0)).access ((tLd.atHead 0 (.ld .n64 3 1 0)).ctxOf 0) .read false 0x1FF8 8)
    (fun s1 sp => quietB (s1.readSpans ((tLd.atHead 0 (.ld .n64 3 1 0)).ctxOf 0) 0 sp).1 0) (by decide +kernel)
  exact ⟨s1, sp, h, quiet_of q⟩

/-- Stores: four bytes of x2 there. -/
theorem witness_Stores : let i := Instr.st .n32 2 1 0
    tLd.ScalarGo 0 i true [2, 1] ∧ (tLd.atHead 0 i).interlocked 0 true 0x1FF8 4 = false ∧
    ∃ s1 sp, (tLd.atHead 0 i).access ((tLd.atHead 0 i).ctxOf 0) .write false 0x1FF8 4 = (s1, .ok sp) ∧
      sp = [⟨.phys 0x3FF4FF8 true, 4⟩] ∧
      ((s1.writeSpans ((tLd.atHead 0 i).ctxOf 0) 0 sp (bytesOf 4 7)).coverSpans [] sp).1.Quiet 0 := by
  refine ⟨scalarGo_of tLd_ok _ _ _, by decide +kernel, ?_⟩
  obtain ⟨s1, sp, h, q⟩ := ok_of ((tLd.atHead 0 (.st .n32 2 1 0)).access ((tLd.atHead 0 (.st .n32 2 1 0)).ctxOf 0) .write false 0x1FF8 4)
    (fun s1 sp => decide (sp = [⟨.phys 0x3FF4FF8 true, 4⟩]) &&
      quietB ((s1.writeSpans ((tLd.atHead 0 (.st .n32 2 1 0)).ctxOf 0) 0 sp (bytesOf 4 7)).coverSpans [] sp).1 0) (by decide +kernel)
  simp only [Bool.and_eq_true, decide_eq_true_eq] at q
  exact ⟨s1, sp, h, q.1, quiet_of q.2⟩

/-- FloatInstructions: 1.0 + 1.0 raises nothing; 2^127 times 2 overflows into an enabled exception. -/
def tFpx : State := (tX tStrand 0 [(1, 0x7F000000), (2, 0x40000000)]).modTh 0 fun th => { th with sys := { th.sys with ftrapen := 0x1F } }

theorem witness_FloatInstructions :
    let g := fun th : Thread => mulVal (fmtOf .f32) (modeOf th.sys.rmode) (ftzOf th.sys.rmode)
      (fload (fmtOf .f32) (ftzOf th.sys.rmode) (th.rx 1).toNat) (fload (fmtOf .f32) (ftzOf th.sys.rmode) (th.rx 2).toNat)
    tStrand.ScalarGo 0 (.fmul .f32 3 1 2) false [3, 1, 2] ∧ (tStrand.th 0).sys.sampOn = false ∧
    fpx (tStrand.th 0).sys.ftrapen (g (tStrand.th 0)).flags = false ∧
    tFpx.ScalarGo 0 (.fmul .f32 3 1 2) false [3, 1, 2] ∧ tFpx.Idle 0 ∧ fpx (tFpx.th 0).sys.ftrapen (g (tFpx.th 0)).flags = true :=
  ⟨go _ _ _, still, by decide +kernel, scalarGo_of (by decide +kernel) _ _ _, idle_of (by decide +kernel), by decide +kernel⟩

/-- ClassMask: the largest and the smallest pattern of F64. -/
theorem witness_ClassMask : 2 ^ 64 - 1 < 2 ^ (fmtOf .f64).width ∧ 0 < 2 ^ (fmtOf .f64).width := by decide +kernel

/-- BranchesAndJumps: a branch taken and one not; an aligned target of JALR and an unaligned one. -/
theorem witness_BranchesAndJumps : tStrand.ScalarGo 0 (.beq 1 2 4) false [1, 2] ∧ (tStrand.th 0).sys.sampOn = false ∧
    (tStrand.th 0).rx 1 = (tStrand.th 0).rx 2 ∧ (tLd.th 0).rx 1 ≠ (tLd.th 0).rx 2 ∧ tLd.ScalarGo 0 (.beq 1 2 4) false [1, 2] ∧
    tLd.ScalarGo 0 (.jalr 3 1 0) false [3, 1] ∧ ((tLd.th 0).rx 1 + 0).toNat % 4 = 0 ∧
    tLd.ScalarGo 0 (.jalr 3 2 0) false [3, 2] ∧ ((tLd.th 0).rx 2 + 0).toNat % 4 ≠ 0 ∧ tLd.Idle 0 :=
  ⟨go _ _ _, still, by decide +kernel, by decide +kernel, scalarGo_of tLd_ok _ _ _, scalarGo_of tLd_ok _ _ _, by decide +kernel,
   scalarGo_of tLd_ok _ _ _, by decide +kernel, idle_of (by decide +kernel)⟩

/-- SystemRegisters: FFLAGS is read and written, a number beyond the space and a supervisor register are refused. -/
theorem witness_SystemRegisters : tStrand.ScalarGo 0 (.csrw 3 2) (csrWaits 2) [3] ∧ (tStrand.th 0).csrTrap .write 2 = none ∧
    (tStrand.th 0).csrTrap .read 2 = none ∧ ((tStrand.atHead 0 (.csrw 3 2)).csrWrite 0 2 0).2 = none ∧
    ((tStrand.th 0).csrTrap .read 0x7FF).isSome = true ∧ csrAssigned (tStrand.th 0).kind 0x7FF = false ∧
    csrAssigned (tStrand.th 0).kind 2 = true ∧
    csrAssigned (tStrand.th 0).kind 0x800 = true ∧ (tStrand.th 0).sys.status.getLsbD 1 = false ∧
    csrAssigned (tStrand.th 0).kind 17 = true ∧ csrReadOnly 17 = true ∧ tStrand.Idle 0 := by
  refine ⟨go _ _ _, ?_, ?_, ?_, ?_, ?_, ?_, ?_, ?_, ?_, ?_, idle⟩ <;> decide +kernel

def tInh : State := tStrand.modTh 0 fun th => { th with sys := { th.sys with status := putBit th.sys.status stINH true } }

/-- TrapAndReturn: outside a handler and in one. -/
theorem witness_TrapAndReturn : tStrand.ScalarGo 0 (.trap 1) true [] ∧ tStrand.Idle 0 ∧ (tStrand.th 0).sys.sampOn = false ∧
    tStrand.ScalarGo 0 .eret false [] ∧ (tStrand.th 0).inh = false ∧ tInh.ScalarGo 0 .eret false [] ∧ (tInh.th 0).inh = true :=
  ⟨go _ _ _, idle, still, go _ _ _, by decide +kernel, scalarGo_of (by decide +kernel) _ _ _, by decide +kernel⟩

def tPre : State := tStrand.modTm 0 fun k => { k with state := .preempting false }

/-- NopSafePointDone: no pre-emption, one pending, and DONE outside and in a handler. -/
theorem witness_NopSafePointDone : tStrand.ScalarGo 0 .nop false [] ∧ (tStrand.th 0).sys.sampOn = false ∧
    tStrand.preemptPending 0 = false ∧ tPre.ScalarGo 0 (.safept 0) false [] ∧ tPre.preemptPending 0 = true ∧ (tPre.th 0).inh = false ∧
    (tPre.th 0).window = [] ∧ tStrand.ScalarGo 0 .done true [] ∧ tStrand.Idle 0 ∧ tInh.ScalarGo 0 .done true [] :=
  ⟨go _ _ _, still, by decide +kernel, scalarGo_of (by decide +kernel) _ _ _, by decide +kernel, by decide +kernel, by decide +kernel,
   go _ _ _, idle, scalarGo_of (by decide +kernel) _ _ _⟩

/-- Strand t can broadcast i alone, and its lanes are at it. -/
def vecGoB (s : State) (t : Nat) (i : Instr) (j : Nat) : Bool :=
  let peers := (s.atHead t i).strandsOn (cluKey (s.mbOf t).die (s.mbOf t).cluster)
  strandOk s t && decide ((s.th t).kind = .strand) && !(s.th t).inh && decide (convoyTrap (s.th t).capture (s.headOf t i) = none) &&
  (s.atHead t i).ready peers t && decide (∀ u ∈ peers, u ≠ t → (s.atHead t i).ready peers u = false) && decide (0 < (s.th t).credit) &&
  ((s.atHead t i).issueTraps t (s.th t).capture (s.headOf t i).units).2.toBool &&
  !(s.th t).engBreak (s.headOf t i).pc 8 0 ((s.th t).nextEseq 8) &&
  decide ((s.headOf t i).units = [{ instr := i, bytes := 4 * (encode i).length }]) && decide (j < (s.th t).lanes) && decide (j < 32) &&
  decide (vget (s.th t).cp j 0 = (s.headOf t i).seq) &&
  seqLt (s.headOf t i).seq (((s.atHead t i).th t).leave (s.headOf t i) (s.headOf t i).next).nextSeq &&
  decide (∀ r ∈ s.remotes, r.thr ≠ t) && !(s.th t).rdvOpen && !(s.th t).sys.sampOn

theorem toBool_ok {ε α : Type} {r : Except ε α} (h : r.toBool = true) : ∃ d, r = .ok d := by
  cases r with
  | ok d => exact ⟨d, rfl⟩
  | error _ => exact absurd h (by simp [Except.toBool])

theorem laneReady_of {s : State} {t : Nat} {i : Instr} {j : Nat} (h : vecGoB s t i j = true) : s.LaneReady t i j := by
  simp only [vecGoB, Bool.and_eq_true, decide_eq_true_eq, Bool.not_eq_true'] at h
  obtain ⟨⟨⟨⟨⟨⟨⟨⟨⟨⟨⟨⟨⟨⟨⟨⟨h1, h2⟩, h3⟩, h4⟩, h5⟩, h6⟩, h7⟩, h8⟩, h9⟩, h10⟩, h11⟩, h12⟩, h13⟩, h14⟩, h15⟩, h16⟩, h17⟩ := h
  have hw : (s.th t).window = [] := by
    simp only [strandOk, Bool.and_eq_true, decide_eq_true_eq] at h1; exact h1.1.1.1.2
  exact { strandGo_of h1 i with
    user := ⟨h2, h3⟩, checks := h4, ready := h5, others := h6, credit := h7, issue := toBool_ok h8, noEng := h9, alone := ⟨_, h10⟩
    lane := h11, few := h12, behind := h13, older := by simp [hw], younger := h14, answered := h15, open_ := h16, sampled := h17 }

/-- VectorConfiguration: the grant of one and of no element; a convoy that can go and one that breaks R44; a handler. -/
theorem witness_VectorConfiguration : tStrand.ScalarGo 0 (.vcfg 3 .w32 2) true [3] ∧ tStrand.User 0 ∧ (tStrand.th 0).sys.sampOn = false ∧
    tStrand.ScalarGo 0 (.setvl 3 1) false [3, 1] ∧ tVec.VectorGo 0 (.vadd pl .i 3 1 2) ∧ isVector (.vadd pl .i 3 1 2) = true ∧
    tStrand.StrandGo 0 (.vadd pl .i 3 3 2) ∧ tStrand.Idle 0 ∧
    (convoyTrap (tStrand.th 0).capture (tStrand.headOf 0 (.vadd pl .i 3 3 2))).isSome = true ∧
    tInh.StrandGo 0 (.vadd pl .i 3 1 2) ∧ (tInh.th 0).inh = true ∧ tInh.Idle 0 :=
  ⟨go _ _ _, user, still, go _ _ _, (laneReady_of (j := 0) (by decide +kernel)).toVectorGo, rfl, strandGo_of test_strand _, idle,
   by decide +kernel, strandGo_of (by decide +kernel) _, by decide +kernel, idle_of (by decide +kernel)⟩

/-- VectorIntegers, VectorFloats: lane 0 and the last lane; 256 elements for a VPACK of 32. -/
theorem witness_VectorIntegers : tVec.LaneReady 0 (.vadd pl .i 3 1 2) 0 ∧ tVec.LaneReady 0 (.vadd pl .i 3 1 2) 7 :=
  ⟨laneReady_of (by decide +kernel), laneReady_of (by decide +kernel)⟩

def tVec256 : State := tVec.modTh 0 fun th => { th with sys := { th.sys with vlen := 256, ftrapen := 0x1F } }
def pxc : VCtl := ⟨false, false, false, false, some ⟨.none, false, false, false, 0, 6⟩⟩

theorem witness_VectorFloats : tVec.LaneReady 0 (.vfadd pl .f32 3 1 2) 0 ∧ pxc.vc = some 6 ∧
    tVec.LaneReady 0 (.vcvt pl (.f .f16) (.f .f32) 3 1) 0 ∧ efrOn pl (tVec.th 0).capture.rmode (efrPair 32 (.f .f16) (.f .f32)) = false ∧
    tVec256.LaneReady 0 (.vpack pxc 2 .l32 3 1) 7 ∧ efrOn pxc (tVec256.th 0).capture.rmode true = false ∧
    ((laneElems 8 256 0).find? fun e => fpx (tVec256.th 0).capture.ftrapen
      (divVal (fmtOf .f32) .rne false (fload (fmtOf .f32) false 0x3F800000)
        (fload (fmtOf .f32) false (vget1 (tVec256.th 0).v 8 32 9 e))).flags) = some 0 :=
  ⟨laneReady_of (by decide +kernel), rfl, laneReady_of (by decide +kernel), by decide +kernel, laneReady_of (by decide +kernel),
   by decide +kernel, by decide +kernel⟩

/-- VectorMemory: x1 names the page, v9 is zero. -/
def tVm : State := tX (tVec.modTh 0 fun th => { th with sys := { th.sys with vlen := 8 } }) 0 [(1, 0x1800)]

theorem witness_VectorMemory : tVm.LaneReady 0 (.vld pl 0 1 3) 7 ∧ (∀ j, j < (tVm.th 0).lanes → tVm.LaneReady 0 (.vldo pl 9 1 3) j) ∧
    0 < (tVm.th 0).lanes ∧ tVm.interlocked 0 true 0x1FFC 4 = false ∧
    (∃ s1 sp, tVm.access (tVm.ctxOf 0) .write false 0x1FFC 4 = (s1, .ok sp) ∧ sp = [⟨.phys 0x3FF4FFC true, 4⟩]) ∧
    (tVm.access (tVm.ctxOf 0) .read false 0x3000 4).2.toOption = none := by
  refine ⟨laneReady_of (by decide +kernel), ?_, by decide +kernel, by decide +kernel, ?_, by decide +kernel⟩
  · have h : ∀ j < (tVm.th 0).lanes, vecGoB tVm 0 (.vldo pl 9 1 3) j = true := by decide +kernel
    exact fun j hj => laneReady_of (h j hj)
  · obtain ⟨s1, sp, h, q⟩ := ok_of (tVm.access (tVm.ctxOf 0) .write false 0x1FFC 4) (fun _ sp => decide (sp = [⟨.phys 0x3FF4FFC true, 4⟩]))
      (by decide +kernel)
    exact ⟨s1, sp, h, of_decide_eq_true q⟩

/-- TileInstructions: the one element of lane 3, at the start of its slice and beyond its end. -/
theorem witness_TileInstructions :
    let s := tX (tVm.modTh 0 fun th => { th with v := (List.range 8).foldl (fun v i => vput1 v 8 1 0 i (if i = 3 then 1 else 0)) th.v }) 0
      [(1, 0), (4, 0x7FFC0)]
    s.LaneReady 0 (.tld plM 0 1 3) 3 ∧ s.LaneReady 0 (.tst plM 0 1 3) 3 ∧ s.LaneReady 0 (.trot plM 2 1) 3 ∧
    (laneElems 8 8 3).filter (isActive (s.th 0).v 8 plM.mask) = [3] ∧
    s.tileInterlocked 0 true ((s.mb 0).tileBytes 0 32 0 0) = false ∧ (s.tileRead 0 0 32 0 0).toOption = some 0 ∧
    (s.tileRead 0 0 32 0x7FFC0 0).toOption = none ∧ (s.th 0).member < s.members.length :=
  ⟨laneReady_of (by decide +kernel), laneReady_of (by decide +kernel), laneReady_of (by decide +kernel), by decide +kernel,
   by decide +kernel, by decide +kernel, by decide +kernel, by decide +kernel⟩

/-- A module that reaches module 1 by port 0; one active element, in lane 3; x1 names forme 5 of module 1. -/
def tRem : State :=
  let s := tX (tVm.modTh 0 fun th => { th with v := (List.range 8).foldl (fun v i => vput1 v 8 1 0 i (if i = 3 then 1 else 0)) th.v }) 0
    [(1, BitVec.ofNat 64 (2 ^ 54 + 5 * 2 ^ 40 + 6)), (2, 0x1800)]
  { s with
    fab := { s.fab with active := [(1, { direct := true, minport := 0, minvia := 0x3FF, minw := 1, slots := [] })] }
    ports := s.ports.set 0 { Port.reset with state := .up, nbr := 1, width := 4 } }

/-- The request of that element. -/
def tReq : RemoteOut :=
  { tagno := 0, thr := 0, dst := 1, forme := 5, elem := 6, width := 4, kind := .load, vd := some 3, idx := 3, lane := 3, ew := 32,
    seq := 0, retries := 0, answer := none, eseq := none }

/-- RemoteAccesses: the element goes out; a local VAMO can be broadcast. -/
theorem witness_RemoteAccesses :
    tRem.LaneReady 0 (.vrld plM 9 1 3) 3 ∧ tRem.LaneReady 0 (.vrst plM 9 1 3) 3 ∧
    (laneElems 8 8 3).filter (isActive (tRem.th 0).v 8 plM.mask) = [3] ∧
    formeTarget (tRem.laneEnv 0 (.vrld plM 9 1 3) 3) (tRem.th 0).v 1 9 32 3 = .ok (1, 5, 6) ∧
    (tRem.sendRemote tReq).2 = none ∧
    tVm.LaneReady 0 (.vamo ec .add .i .dev ⟨false, false, false, false⟩ 3 1 2 4) 0 :=
  ⟨laneReady_of (by decide +kernel), laneReady_of (by decide +kernel), by decide +kernel, by decide +kernel, by decide +kernel,
   laneReady_of (by decide +kernel)⟩

theorem allReady {s : State} {i : Instr} (h : (∀ j < (s.th 0).lanes, vecGoB s 0 i j = true)) :
    ∀ j, j < (s.th 0).lanes → s.LaneReady 0 i j := fun j hj => laneReady_of (h j hj)

/-- Rendezvous: every lane is at the convoy; two ascending lists; distinct destinations. -/
theorem witness_Rendezvous : (∀ j, j < (tVm.th 0).lanes → tVm.LaneReady 0 (.vred pl .add .i 5 1) j) ∧ 0 < (tVm.th 0).lanes ∧
    0 < (tRdv 2 [1, 3] [2, 3] 0x0000000200000002).cap.lanes ∧ (tRdv 2 [1, 3] [2, 3] 0x0000000200000002).cap.lanes ≤ 32 ∧
    (∀ j < 2, ∀ i < j, elInt false 32 (vget1 (tRdv 2 [1, 3] [2, 3] 0).v 8 32 1 i) < elInt false 32 (vget1 (tRdv 2 [1, 3] [2, 3] 0).v 8 32 1 j)) ∧
    (∀ j < 2, ∀ i < j, elInt false 32 (vget1 (tRdv 2 [1, 3] [2, 3] 0).v 8 32 2 i) < elInt false 32 (vget1 (tRdv 2 [1, 3] [2, 3] 0).v 8 32 2 j)) ∧
    (3 : VReg) ≠ 4 :=
  ⟨allReady (by decide +kernel), by decide +kernel, by decide +kernel, by decide +kernel, by decide +kernel, by decide +kernel, by decide⟩

/-- VWAIT on two elements of the page, one of them not zero: met at once with the zero condition off, and not met. -/
def tVw : State := tX (tVm.modTh 0 fun th => { th with sys := { th.sys with vlen := 1, vcfgv := th.sys.vcfgv } }) 0 [(1, 0x1800)]
def tVwI (zero : Bool) : Instr := .vwait ec .i zero false 3 4 1 9 0
def tVwS (zero : Bool) : State :=
  (tVw.atHead 0 (tVwI zero)).modTh 0 fun th =>
    { th with run := .blocked .vwait, waitStart := (tVw.cycleOf 0).toNat, vwaitMet := [], vwaitOver := false }

theorem witness_VectorWait : tVw.StrandGo 0 (tVwI true) ∧ tVw.User 0 ∧ tVw.Idle 0 ∧ (tVw.th 0).sys.sampOn = false ∧
    convoyTrap (tVw.th 0).capture (tVw.headOf 0 (tVwI true)) = none ∧
    (∀ x ∈ ([1, 3] : List XReg), x ∉ (tVw.atHead 0 (tVwI true)).pendingRegs 0) ∧
    ((tVwS true).vwaitRead 0 (tVw.th 0).capture true 1 9 [0]).2.2 = [] ∧
    (((tVwS true).vwaitRead 0 (tVw.th 0).capture true 1 9 [0]).1.th 0).vwaitMet = [0] ∧
    ((tVwS false).vwaitRead 0 (tVw.th 0).capture false 1 9 [0]).2.2 = [] ∧
    (((tVwS false).vwaitRead 0 (tVw.th 0).capture false 1 9 [0]).1.th 0).vwaitMet = [] := by
  refine ⟨strandGo_of (by decide +kernel) _, ⟨by decide +kernel, by decide +kernel⟩, idle_of (by decide +kernel), ?_, ?_, ?_, ?_, ?_, ?_, ?_⟩ <;>
    decide +kernel

/-- Nonzero bytes of the loaded page, by offset. -/
def tBytes (s : State) (o : Nat) (l : List (Nat × Nat)) : State :=
  { s with mem := l.foldl (fun m p => Mem.write m (0x3FF4000 + o + p.1) [BitVec.ofNat 8 p.2]) s.mem }

/-- The loaded team with tables and blocks: descriptors of eight words at 0x1000 (base 0x1800) and 0x10C0 (base 0x1900), a class table at 0x1180,
a walk block at 0x13C0, a receive block at 0x1400, a token at 0x1440 and a token queue at 0x1480; endpoint 3 with context 1; watermark entry 7. -/
def tData : State :=
  let s := tBytes (tBytes tStrand 0 [(1, 0x18), (8, 1), (9, 2), (0x10, 8), (0x40, 4)]) 0xC0 [(1, 0x19), (8, 1), (9, 2), (0x10, 8), (0x40, 4)]
  let s := tBytes s 0x180 ([(1, 0x17), (8, 2), (0xD, 2), (0xE, 1), (0x49, 0x1A), (0x51, 0x1B)] ++ (List.range 8).map fun k => (0x40 + k, 0xFF))
  let s := tBytes s 0x3C0 [(3, 1), (5, 4), (6, 16), (0xC, 128), (0x11, 0x10), (0x18, 0xFF), (0x19, 0x1F)]
  let s := tBytes s 0x400 [(0x19, 0x10), (0x20, 32), (0x29, 0x1C)]
  let s := tBytes s 0x440 [(1, 0x10)]
  let s := tBytes s 0x480 [(1, 0x1D), (8, 4), (0x18, 1)]
  let s := tX (s.modTh 0 fun th => { th with sys := { th.sys with msgep := 0x80000003 } }) 0 [(2, 0x10C0), (3, 0), (4, 5), (5, 0x13C0)]
  let s := { s with
    regions := Tbl.insert 4095 { s.region 4095 with eager := 16, lqent := 8, formes := 8, endpts := 8, mctxs := 8, precv := 8, pairs := 8,
                                                    stmib := 1, sttags := 8, wment := 8 } s.regions
    endpoints := [(3, { moving := false, die := 0, mctx := 1, rid := 4095 })]
    mctxs := [(1, { die := 0, rid := 4095 })] }
  s.modDie 0 fun d => { d with ns := 1, allocs := [{ rid := 4095, stereo := true, off := 0, mib := 1 }]
                               wmarks := [(7, { rid := 4095, esize := 0, scope := 1, base := 0x1E00, count := 3, nelem := 64 })] }

theorem tData_ok : strandOk tData 0 = true := by decide +kernel

/-- The state with i at the head, and its site. -/
def A (i : Instr) : State := tData.atHead 0 i
def S (i : Instr) : Site := tData.site 0 i
theorem dgo (i : Instr) (d : Bool) (u : List XReg) : tData.SyncGo 0 i d u :=
  syncGo_of tData_ok ⟨by decide +kernel, by decide +kernel⟩ i d u

/-- Room for n entries, and no breakpoint on command k of the engine. -/
def canB (s : State) (t : Nat) (pc : Word) (eng chan k n : Nat) : Bool :=
  decide (n ≤ (s.th t).freeLocks.length) && !(s.th t).engBreak pc eng chan (BitVec.ofNat 32 k)

theorem can_of {s : State} {t : Nat} {pc : Word} {e c k n : Nat} (h : canB s t pc e c k n = true) : s.CanAccept t pc e c k n := by
  simpa [canB, State.CanAccept] using h

theorem none_of {σ α : Type} (p : σ × Option α) (h : p.2 = none) : ∃ s, p = (s, none) := ⟨p.1, Prod.ext rfl h⟩

/-- SemaphoresAndBoxes: a free bit, a bit that is not, the last box, a half member's limits. -/
theorem witness_SemaphoresAndBoxes :
    tData.SyncGo 0 (.semtas 63) false [] ∧ 63 < (tData.mbOf 0).nsem ∧ tData.Idle 0 ∧ 15 < (tData.mbOf 0).nbox ∧
    (∃ s2, TakeSem ((A (.semtas 63)).putSem 0 63 true) 0 63 s2) ∧ tData.semFree 0 63 = false ∧
    (tData.th 0).member < tData.members.length ∧ tControl.WordGo 1 0x60 ⟨63, 48, 48, 48, 0, 1, 0, 63⟩ ∧
    let h := tData.modMb 0 fun m => { m with full := false }
    (h.mbOf 0).nsem ≤ 32 ∧ (h.mbOf 0).nbox ≤ 8 ∧ h.SyncGo 0 (.semtas 32) false [] ∧ h.Idle 0 :=
  ⟨dgo _ _ _, by decide +kernel, idle_of (by decide +kernel), by decide +kernel,
   ⟨_, by decide +kernel, by decide +kernel, rfl⟩, by decide +kernel, by decide +kernel, wgo _ _, by decide +kernel, by decide +kernel,
   syncGo_of (by decide +kernel) ⟨by decide +kernel, by decide +kernel⟩ _ _ _, idle_of (by decide +kernel)⟩

/-- BarriersAndCapture: strand 0 arrives last at the member and at the team; a fence with nothing outstanding; a window opened and closed. -/
theorem witness_BarriersAndCapture :
    (let s := (A (.bar .clu)).modMb 0 fun m => { m with barArrived := [(1, 1)] }
     ∃ s2, LeaveBarrier s 0 .clu s2) ∧
    (let s := (A (.bar .dev)).modTm 0 fun m => { m with barArrived := [(1, 1)] }
     ∃ s2, LeaveBarrier s 0 .dev s2) ∧
    FenceOpen (A (.fence .fab 0x1F)) 0 .fab true ∧ (∃ s2, CaptureCloses (A (.capstop 5)) 0 0x13C0 s2) ∧
    (∃ s2, CaptureCloses ((A (.capstop 5)).modTh 0 fun th => { th with sys := { th.sys with capstate := 1 } }) 0 0x13C0 s2) ∧
    (tData.th 0).sys.sampOn = false ∧ tData.SyncGo 0 (.bar .clu) true [] := by
  refine ⟨⟨_, .inl ⟨rfl, _, rfl, by decide +kernel, rfl⟩⟩, ⟨_, .inr ⟨.inr rfl, _, rfl, by decide +kernel, rfl⟩⟩,
    ⟨fun _ => ⟨by decide +kernel, by decide +kernel⟩, fun _ => by decide +kernel⟩, ⟨_, .inl ⟨by decide +kernel, rfl⟩⟩, ?_, by decide +kernel,
    dgo _ _ _⟩
  let s := (A (.capstop 5)).modTh 0 fun th => { th with sys := { th.sys with capstate := 1 } }
  obtain ⟨s1, h⟩ := none_of (s.writeBlock (s.ctxOf 0) 0x13C0 (s.th 0).captureBytes) (by decide +kernel)
  exact ⟨_, .inr ⟨by decide +kernel, by decide +kernel, by decide +kernel, s1, h, rfl⟩⟩

/-- Monitors: eight bytes of the page. -/
theorem witness_MonitoredWait : let i := Instr.mwait 3 (.lit 0x1008) 0 3 false 0
    tData.SyncGo 0 i false ((AOp.lit 0x1008).regs ++ [0] ++ [3]) ∧ 0 < tData.threads.length ∧ (tData.th 0).run = .running ∧
    (tData.th 0).resumed = false ∧ ∃ p s1, Monitors ((A i).modTh 0 fun th => { th with waitStart := (tData.cycleOf 0).toNat, wake := none })
      0 0 0x1008 8 p s1 := by
  refine ⟨dgo _ _ _, by decide +kernel, by decide +kernel, by decide +kernel, ?_⟩
  let f := (A (.mwait 3 (.lit 0x1008) 0 3 false 0)).modTh 0 fun th => { th with waitStart := (tData.cycleOf 0).toNat, wake := none }
  obtain ⟨s0, sp, h, q⟩ := ok_of (f.access (f.ctxOf 0) .monitored true 0x1008 8) (fun _ sp => decide (sp = [⟨.phys 0x3FF4008 true, 8⟩]))
    (by decide +kernel)
  rw [of_decide_eq_true q] at h
  exact ⟨_, _, s0, _, by decide +kernel, h, rfl⟩

/-- Strand 0 in its wait, with a reason or none, resumed or not, its time over; and an MWAIT word of the control thread. -/
def tWait (why : Option WakeReason) (resumed : Bool) : State :=
  (tData.modTh 0 fun th => { th with run := .blocked (.mwait 0), waitStart := 0, wake := why, resumed }).modClu 0 fun c => { c with cycle := 5 }

theorem witness_wakes : let i := Instr.mwait 3 (.lit 0x1008) 0 3 false 5
    (∀ x ∈ [none, some .write, some .evict, some .resume, some WakeReason.timeout], ∀ r, (tWait x r).SyncGo 0 i true [3, 0] ∧
      (tWait x r).Idle 0 ∧ ((tWait x r).th 0).wake = x ∧ ((tWait x r).th 0).resumed = r) ∧
    (5 ≤ ((tWait none false).cycleOf 0).toNat - ((tWait none false).th 0).waitStart ∧ ((tWait none false).th 0).run = .blocked (.mwait 0)) ∧
    (let s := tX tControl 1 [(1, 0x1FF8)]
     s.WordGo 1 0x67 ⟨3, 1, 48, 48, 0, 0, 0, 3⟩ ∧ ∃ p s1, Monitors s 1 (tagOwner 1 0) 0x1FF8 8 p s1) := by
  refine ⟨?_, by decide +kernel, wordGo_of (by decide +kernel) _ _, ?_⟩
  · have h : ∀ x ∈ [none, some .write, some .evict, some .resume, some WakeReason.timeout], ∀ r, strandOk (tWait x r) 0 = true ∧
        (((tWait x r).th 0).kind = .strand ∧ ((tWait x r).th 0).inh = false) ∧
        (decide (((tWait x r).th 0).window = []) && !((tWait x r).th 0).rdvOpen && !(tWait x r).awaitsRemote 0) = true ∧
        ((tWait x r).th 0).wake = x ∧ ((tWait x r).th 0).resumed = r := by decide +kernel
    exact fun x hx r => ⟨syncGo_of (h x hx r).1 (h x hx r).2.1 _ _ _, idle_of (h x hx r).2.2.1, (h x hx r).2.2.2⟩
  · let s := tX tControl 1 [(1, 0x1FF8)]
    obtain ⟨s0, sp, h, q⟩ := ok_of (s.access (s.ctxOf 1) .monitored true 0x1FF8 8) (fun _ sp => decide (sp = [⟨.phys 0x3FF4FF8 true, 8⟩]))
      (by decide +kernel)
    rw [of_decide_eq_true q] at h
    exact ⟨_, _, s0, _, by decide +kernel, h, rfl⟩

/-- CopyBinWalk. -/
theorem witness_xcopy : let i := Instr.xcopy .dev 6 (.lit 0x1000) 2 7 63 true false
    ∃ s2 v, CopyAccepted (A i) 0 (S i) .dev 0x1000 0x10C0 7 (some 63) none s2 v := by
  obtain ⟨s1, ⟨d, e⟩, h, q⟩ := ok_of ((A (.xcopy .dev 6 (.lit 0x1000) 2 7 63 true false)).readPair 0 0x1000 0x10C0) (fun s1 de =>
    decide (7 < (s1.mbOf 0).nchan) && decide (63 < (s1.mbOf 0).nsem) && decide (s1.queued 0 7 < 16) &&
    canB s1 0 (S (.xcopy .dev 6 (.lit 0x1000) 2 7 63 true false)).pc 1 7 ((s1.channel 0 7).issued + 1)
      (de.1.locks false 1 (BitVec.ofNat 32 ((s1.channel 0 7).issued + 1)) ++ de.2.locks true 1 (BitVec.ofNat 32 ((s1.channel 0 7).issued + 1))).length)
    (by decide +kernel)
  simp only [Bool.and_eq_true, decide_eq_true_eq] at q
  obtain ⟨⟨⟨q1, q2⟩, q3⟩, q4⟩ := q
  exact ⟨_, _, s1, d, e, _, _, by decide +kernel, by decide +kernel, h, q1, by rintro k ⟨⟩; exact q2, q3, rfl, rfl, can_of q4, rfl, rfl⟩

theorem witness_CopyBinWalk : let i := Instr.bin .dev (.lit 0x1180)
    (∃ s2, BinAccepted (A i) 0 (S i) .dev 0x1180 s2) ∧ ((A i).channel 0 7).chain = 0 ∧ ChannelStatus (A i) 0 7 0 ∧
    ChannelReached (A i) 0 7 0 none ∧ EngineReached (A i) 0 2 0 ∧ tData.SyncGo 0 i true [] := by
  refine ⟨?_, by decide +kernel, ⟨by decide +kernel, by decide +kernel⟩, ⟨by decide +kernel, by decide +kernel, by decide +kernel⟩,
    ⟨by decide +kernel, by decide +kernel⟩, dgo _ _ _⟩
  obtain ⟨s1, bs, h, q⟩ := ok_of ((A (.bin .dev (.lit 0x1180))).readBlock ((A (.bin .dev (.lit 0x1180))).ctxOf 0) 0x1180 576) (fun s1 bs =>
    match parseClasses bs with
    | some (_, nr, _, c) => canB s1 0 (S (.bin .dev (.lit 0x1180))).pc 3 0 ((s1.th 0).nextEseq 3).toNat
        (binLocks ((s1.th 0).nextEseq 3) nr c).length
    | none => false) (by decide +kernel)
  cases hp : parseClasses bs with
  | none => rw [hp] at q; exact absurd q (by simp)
  | some x =>
    obtain ⟨r, nr, ps, c⟩ := x
    rw [hp] at q
    exact ⟨_, s1, bs, r, nr, ps, c, _, by decide +kernel, by decide +kernel, h, hp, rfl, can_of q, rfl⟩

theorem witness_walk : let i := Instr.walk .clu (.lit 0x1000) 5
    ∃ s2, WalkAccepted (A i) 0 (S i) .clu 0x1000 0x13C0 s2 := by
  let i := Instr.walk .clu (.lit 0x1000) 5
  let s0 := (A i).modWalker 0 fun w => { w with waiting := [] }
  obtain ⟨s1, bs, h, q⟩ := ok_of (s0.readBlock (s0.ctxOf 0) 0x13C0 64) (fun s1 bs =>
    match parseWalkBlk bs (s1.mbOf 0).nsem ((s1.mbOf 0).tilesz * 0x40000) with
    | some _ => canB s1 0 (S i).pc 2 0 ((s1.th 0).nextEseq 2).toNat 2
    | none => false) (by decide +kernel)
  cases hp : parseWalkBlk bs (s1.mbOf 0).nsem ((s1.mbOf 0).tilesz * 0x40000) with
  | none => rw [hp] at q; exact absurd q (by simp)
  | some b =>
    rw [hp] at q
    exact ⟨_, s0, s1, bs, b, _, by decide +kernel, .inl (by decide +kernel), by decide +kernel, by decide +kernel, by decide +kernel, rfl,
      by decide +kernel, h, hp, rfl, can_of q, rfl⟩

/-- WatermarksTokensLaunch. -/
theorem witness_watermarks : (∃ s2, Publishes (A (.wmpub .clu (.lit 64) 7)) 0 .clu 7 64 s2) ∧ WatermarkOf (A (.wmchk 3 7)) 0 7 3 := by
  have h : (A (.wmpub .clu (.lit 64) 7)).wmNamed 0 7 = some (0, { rid := 4095, esize := 0, scope := 1, base := 0x1E00, count := 3, nelem := 64 }) := by
    decide +kernel
  exact ⟨⟨_, _, _, _, h, by decide, rfl, rfl⟩, ⟨_, _, h, rfl⟩⟩

theorem witness_tkpost : ∃ s2, TokenPosted (A (.tkpost (.lit 0x1480) 4)) 0 0x1480 5 s2 := by
  let s := A (.tkpost (.lit 0x1480) 4)
  obtain ⟨s0, q, h, k⟩ := ok_of (s.tokQ (s.ctxOf 0) 0x1480) (fun s0 q =>
    !q.full && !s.interlocked 0 true (q.slot q.tail) 16 && decide ((s0.writeElem (s.ctxOf 0) 0 false (q.slot q.tail) 16 (5 + s.placeOfThread 0 * 2 ^ 64) []).2.2 = none)) (by decide +kernel)
  simp only [Bool.and_eq_true, decide_eq_true_eq, Bool.not_eq_true'] at k
  exact ⟨_, s0, _, q, _, by decide +kernel, h, k.1.1, k.1.2, Prod.ext rfl (Prod.ext rfl k.2), rfl⟩

theorem witness_tktake : ∃ s2 v, TokenTaken ((A (.tktake 3 (.lit 0x1480))).modTh 0 fun th => { th with waitStart := (tData.cycleOf 0).toNat, wake := none })
    0 0 0x1480 s2 v := by
  let s := (A (.tktake 3 (.lit 0x1480))).modTh 0 fun th => { th with waitStart := (tData.cycleOf 0).toNat, wake := none }
  obtain ⟨s0, q, h, k⟩ := ok_of (s.tokQ (s.ctxOf 0) 0x1480) (fun s0 q =>
    !q.empty && !s.interlocked 0 false (q.slot q.head) 8 && (s0.readElem (s.ctxOf 0) 0 .read false (q.slot q.head) 8).2.isOk)
    (by decide +kernel)
  simp only [Bool.and_eq_true, Bool.not_eq_true'] at k
  obtain ⟨s1, n, h2, _⟩ := ok_of (s0.readElem (s.ctxOf 0) 0 .read false (q.slot q.head) 8) (fun _ _ => true) (by
    have := k.2; revert this; cases (s0.readElem (s.ctxOf 0) 0 .read false (q.slot q.head) 8).2 <;> simp [Except.isOk, Except.toBool])
  exact ⟨_, _, s0, s1, q, n, by decide +kernel, h, k.1.1, k.1.2, h2, rfl, rfl⟩

theorem witness_WatermarksTokensLaunch : (∃ s2, Launched (A (.launch (.lit 0x1440) 0)) 0 0x1440 0 s2) ∧
    tData.SyncGo 0 (.launch (.lit 0x1440) 0) true [] ∧ (∀ w, (tData.th 0).run ≠ .blocked w) := by
  let s := A (.launch (.lit 0x1440) 0)
  refine ⟨?_, dgo _ _ _, by intro w; have : (tData.th 0).run = .running := by decide +kernel
                            rw [this]; exact Run.noConfusion⟩
  obtain ⟨s1, bs, h, k⟩ := ok_of (s.readBlock (s.ctxOf 0) 0x1440 64) (fun s1 _ =>
    s1.validRegion 4095 && (s1.region 4095).leaf && s1.lqRoom 4095) (by decide +kernel)
  simp only [Bool.and_eq_true] at k
  refine ⟨_, s1, bs, by decide +kernel, by decide +kernel, h, ?_, ?_, .inl ?_, ?_, rfl⟩ <;> simp only [if_true]
  · exact k.1.1
  · exact k.1.2
  · exact k.2

/-- Atomics: a local element, and a remote one sent. -/
theorem witness_atomic : ∃ s2 v, AtomicDone (A (.amo .add .i .dev ⟨true, false, false, false⟩ 3 (.lit 0x1008) 4)) 0 true 0x1008 8
    (fun o => amoNew .add true 64 o 5) (fun _ => 0) s2 v := by
  let s := A (.amo .add .i .dev ⟨true, false, false, false⟩ 3 (.lit 0x1008) 4)
  obtain ⟨s1, o, h, _⟩ := ok_of (s.atomicElem (s.ctxOf 0) 0x1008 8 (fun o => some (amoNew .add true 64 o 5))) (fun _ _ => true) (by decide +kernel)
  exact ⟨_, _, s1, o, by decide +kernel, h, rfl, rfl⟩

theorem witness_Atomics : let i := Instr.amo .add .i .dev ⟨true, false, false, true⟩ 3 (.lit 0) 4
    tRem.SyncGo 0 i true [4, 3] ∧ tRem.Idle 0 ∧
    ∃ s2, RemoteSent (tRem.atHead 0 i) 0 (tRem.site 0 i) ((tRem.th 0).rx 1) 8 (.amo .add true 0) s2 := by
  let i := Instr.amo .add .i .dev ⟨true, false, false, true⟩ 3 (.lit 0) 4
  refine ⟨syncGo_of (by decide +kernel) ⟨by decide +kernel, by decide +kernel⟩ _ _ _, idle_of (by decide +kernel), ?_⟩
  let s := tRem.atHead 0 i
  obtain ⟨s2, h⟩ := none_of ((s.acceptEng 0 8 0 ((s.th 0).nextEseq 8)).sendRemote
      { tagno := 0, thr := 0, dst := getField ((tRem.th 0).rx 1) 54 10, forme := getField ((tRem.th 0).rx 1) 40 14,
        elem := getField ((tRem.th 0).rx 1) 0 40, width := 8, kind := .amo .add true 0, vd := none, idx := 0, lane := 32, ew := 64,
        seq := (tRem.site 0 i).seq, retries := 0, answer := none, eseq := some ((s.th 0).nextEseq 8) }) (by decide +kernel)
  exact ⟨s2, _, rfl, by decide +kernel, by decide +kernel, by decide +kernel, h⟩

/-- StereotypeCommands. -/
theorem witness_stchk : ∃ s2, CheckAccepted (A (.stchk 6 (.lit 0x1000) 2 3)) 0 (S (.stchk 6 (.lit 0x1000) 2 3)) 0x1000 0x10C0 0 (some 6) s2 := by
  let i := Instr.stchk 6 (.lit 0x1000) 2 3
  obtain ⟨s0, d, h, k⟩ := ok_of ((A i).stDesc 0 0x1000 0 0 (2 ^ 24)) (fun s0 d => match s0.stDesc 0 0x10C0 0 0 (2 ^ 40) with
    | (s1, .ok e) => let n := (s1.th 0).nextEseq 5; canB s1 0 (S i).pc 5 0 n.toNat (d.locks false 5 n ++ e.locks true 5 n).length
    | _ => false) (by decide +kernel)
  have f : getField ((A i).th 0).sys.stmetric 8 3 = 0 := by decide +kernel
  cases hp : s0.stDesc 0 0x10C0 0 0 (2 ^ 40) with
  | mk s1 r => cases r with
    | error _ => rw [hp] at k; exact absurd k (by simp)
    | ok e =>
      rw [hp] at k
      exact ⟨_, s0, s1, d, e, _, _, by decide +kernel, by decide +kernel, by decide +kernel, by rw [f]; exact h, by rw [f]; exact hp, rfl, rfl,
        can_of k, rfl⟩

theorem witness_stkeep : ∃ s2, KeepAccepted (A (.stkeep (.lit 0x1000) 2 3)) 0 (S (.stkeep (.lit 0x1000) 2 3)) 0x1000 0x10C0 0 s2 := by
  let i := Instr.stkeep (.lit 0x1000) 2 3
  obtain ⟨s0, d, h, k⟩ := ok_of ((A i).stDesc 0 0x1000 0 1 (2 ^ 24)) (fun s0 d => match s0.stDesc 0 0x10C0 0 1 (2 ^ 24) with
    | (s1, .ok e) => let n := (s1.th 0).nextEseq 5
      canB s1 0 (S i).pc 5 0 n.toNat (d.locks false 5 n ++ e.locks false 5 n).length &&
      !s1.stNever (s1.region (s1.ridOf 0)).home (s1.ridOf 0) (d.count * stBytes 0) (e.count * stBytes 0)
    | _ => false) (by decide +kernel)
  have f : getField ((A i).th 0).sys.stmetric 8 3 = 0 := by decide +kernel
  cases hp : s0.stDesc 0 0x10C0 0 1 (2 ^ 24) with
  | mk s1 r => cases r with
    | error _ => rw [hp] at k; exact absurd k (by simp)
    | ok e =>
      rw [hp] at k
      simp only [Bool.and_eq_true, Bool.not_eq_true'] at k
      exact ⟨_, s0, s1, d, e, _, _, by decide +kernel, by decide +kernel, by decide +kernel, by rw [f]; exact h, by rw [f]; exact hp,
        by rw [f]; exact k.2, rfl, rfl, can_of k.1, rfl⟩

theorem witness_StereotypeCommands : (∃ s2, DropAccepted (A (.stdrop 3 0)) 0 (S (.stdrop 3 0)) 0 0 s2) ∧ tData.SyncGo 0 (.stdrop 3 3) true [3] ∧
    tData.Idle 0 :=
  ⟨⟨_, _, rfl, by decide +kernel, can_of (by decide +kernel), rfl⟩, dgo _ _ _, idle_of (by decide +kernel)⟩

/-- MessageCommands: a short message to the own endpoint, a receive, and the polls of an object that nothing names. -/
theorem witness_msend : let i := Instr.msend (.lit 0x1000) 2 3 none
    ∃ s2, SendAccepted (A i) 0 (S i) 0x1000 (BitVec.ofNat 64 (3 * 2 ^ 40)) 9 none s2 := by
  let i := Instr.msend (.lit 0x1000) 2 3 none
  obtain ⟨s1, d, h, k⟩ := ok_of ((A i).readDesc 0 0x1000) (fun s1 d =>
    let n := (s1.th 0).nextEseq 4
    decide (d.count * d.bytes < 2 ^ 32) && canB s1 0 (S i).pc 4 0 n.toNat (d.locks false 4 n).length && decide (s1.moduleNo = 0) &&
    decide (d.count * d.bytes ≤ 16 * 1024) &&
    decide ((Tbl.find 3 s1.endpoints).map (fun e => (s1.region e.rid).eager) = some 16)) (by decide +kernel)
  simp only [Bool.and_eq_true, decide_eq_true_eq] at k
  obtain ⟨⟨⟨⟨k1, k2⟩, k3⟩, k4⟩, k5⟩ := k
  obtain ⟨e, he, hg⟩ := Option.map_eq_some_iff.mp k5
  have hm : getField (BitVec.ofNat 64 (3 * 2 ^ 40)) 54 10 = 0 := by decide +kernel
  have hd : getField (BitVec.ofNat 64 (3 * 2 ^ 40)) 40 14 = 3 := by decide +kernel
  have ho : (A i).ownEp 0 none = .ok (3, 1, 0) := by decide +kernel
  refine ⟨_, s1, d, 3, 1, 0, _, none, 16, _, by decide +kernel, by decide +kernel, ho, h, k1, rfl, ?_, .inl ⟨rfl, k4⟩, rfl, can_of k2, rfl⟩
  simp only [hm, hd, k3, if_true, he, hg]

theorem witness_mpost : ∃ s2, PostAccepted (A (.mpost (.lit 0x1400))) 0 (S (.mpost (.lit 0x1400))) 0x1400 s2 := by
  let i := Instr.mpost (.lit 0x1400)
  obtain ⟨s0, ⟨b, dva, c, d⟩, h, k⟩ := ok_of ((A i).recvBlk 0 0x1400) (fun s0 x =>
    decide (x.2.2.2 = 0) && decide ((s0.die 0).posted = []) && decide (x.2.1 = 0x1000) && decide (s0.interlocked 0 false x.2.1 192 = false) &&
    match s0.readDesc 0 x.2.1 with
    | (s1, .ok ds) => let n := (s1.th 0).nextEseq 4
      canB s1 0 (S i).pc 4 0 n.toNat (ds.locks true 4 n).length && decide ((s1.die 0).unexp = []) && decide ((s1.die 0).posted = []) &&
      s1.fits (s1.ridOf 0) (·.precv) (s1.postedUsed 0) 1
    | _ => false) (by decide +kernel)
  simp only [Bool.and_eq_true, decide_eq_true_eq] at k
  obtain ⟨⟨⟨⟨k1, k2⟩, k3⟩, k4⟩, k5⟩ := k
  cases hp : s0.readDesc 0 dva with
  | mk s1 r => cases r with
    | error _ => rw [hp] at k5; exact absurd k5 (by simp)
    | ok ds =>
      rw [hp] at k5
      simp only [Bool.and_eq_true, decide_eq_true_eq] at k5
      obtain ⟨⟨⟨j1, j2⟩, j3⟩, j4⟩ := k5
      subst k1
      let bl := { b with desc := some ds }
      let s3 := s1.accepted 0 (S i) 4 0 ((s1.th 0).nextEseq 4).toNat .dev (ds.locks true 4 ((s1.th 0).nextEseq 4)) (.recv c bl none false false)
      let s4 := s3.modDie 0 fun x => { x with recs := x.recs.filter fun r => !(r.1 == c && r.2.1.toNat == b.comp) }
      refine ⟨s4.modDie 0 fun x => { x with posted := x.posted ++ [s3.newest] }, s0, s1, b, dva, c, 0, ds, _, by decide +kernel, h, ?_, k4, hp,
        rfl, can_of j1, ?_⟩
      · rw [k2]; intro x hx; exact absurd hx (by simp)
      · simp only [j2, List.find?_nil, j3, j4, List.length_nil]
        exact ⟨by decide, trivial, rfl⟩

theorem witness_MessageCommands :
    (∃ s2, MessageNow (A (.mtest 3 (.lit 0x1C00) none)) 0 (S (.mtest 3 (.lit 0x1C00) none)) (A (.mtest 3 (.lit 0x1C00) none)) s2) ∧
    (∃ s2, Tested (A (.mtest 3 (.lit 0x1C00) none)) 0 (S (.mtest 3 (.lit 0x1C00) none)) 0x1C00 none s2 4) ∧
    (∃ s2, Cancelled (A (.mcancel 3 (.lit 0x1C00) none)) 0 (S (.mcancel 3 (.lit 0x1C00) none)) 0x1C00 none s2 0) ∧
    ∃ s2, Probed (A (.mprobe 3 (.lit 0x1400))) 0 (S (.mprobe 3 (.lit 0x1400))) 0x1400 s2 0 := by
  refine ⟨⟨_, by decide +kernel, rfl⟩,
    ⟨_, 3, 1, 0, by decide +kernel, by decide +kernel, ⟨by decide +kernel, rfl⟩, .inr (.inr (.inr ⟨by decide +kernel, by decide +kernel, rfl⟩))⟩,
    ⟨_, 3, 1, 0, by decide +kernel, by decide +kernel, .inl ⟨by decide +kernel, rfl, ⟨by decide +kernel, rfl⟩⟩⟩, ?_⟩
  let i := Instr.mprobe 3 (.lit 0x1400)
  obtain ⟨s0, ⟨b, dva, c, d⟩, h, k⟩ := ok_of ((A i).recvBlk 0 0x1400) (fun s0 x =>
    decide (x.2.2.2 = 0) && decide ((s0.die 0).unexp = []) && decide ((s0.th 0).engBreak (S i).pc 4 0 ((s0.th 0).nextEseq 4) = false))
    (by decide +kernel)
  simp only [Bool.and_eq_true, decide_eq_true_eq] at k
  obtain ⟨⟨k1, k2⟩, k3⟩ := k
  subst k1
  refine ⟨(s0.acceptEng 0 4 0 ((s0.th 0).nextEseq 4)).completeEng 0 4 ((s0.th 0).nextEseq 4), s0, b, dva, c, 0, by decide +kernel, h, ?_⟩
  simp only [k2, List.find?_nil]
  exact ⟨trivial, k3, rfl⟩

/-- The walker of cluster 0 runs a WALK of strand 0: four rows of sixteen 16-bit elements from the loaded page. -/
def tWalkBlk : WalkBlk :=
  { tfmt := 0, mw := 0, lc := 0, ntile := 1, sembase := 0, rows := 4, cols := 16, tbase := 0, tstride := 128, srclo := 0x1000, srchi := 0x1FFF,
    args := List.replicate 8 0 }
def tWalkCmd : Cmd :=
  { id := 0, thr := 0, eng := 2, eseq := 1, pc := 0x1000, cseq := 0, scope := .clu, locks := [], pos := 0, fault := none, finished := false,
    cover := [], body := .walk 0x1000 0 tWalkBlk true }
def tWalk (b : WalkBlk) (row : Nat) (p : BitVec 16) (w1 : Word) : State :=
  { (tBase.modWalker 0 fun _ => { Walker.reset with state := .running, w := Walker.reset.w.set 1 w1, pc := 0x1000, row, poison := p, blk := some b,
                                                    cmd := some 0 }) with
    cmds := [tWalkCmd], nextCmd := 1, cur := .walker 0 }

theorem walkGo_of {s : State} {c : Cmd} {b : WalkBlk} {u : List WReg} (h : (s.mgmt.powered && decide (s.cur = .walker 0) &&
    decide (s.walkOf 0 = some (c, b)) && decide ((s.clu 0).walker.state = .running) &&
    u.all fun r => !(s.clu 0).walker.poison.getLsbD r.toNat) = true) : s.WalkGo 0 c b u := by
  simp only [Bool.and_eq_true, decide_eq_true_eq, List.all_eq_true, Bool.not_eq_true'] at h
  exact ⟨h.1.1.1.1, h.1.1.1.2, h.1.1.2, h.1.2, h.2⟩

/-- WalkerRegisters, WalkerBitCounts: with a load inside the source range, and one beyond its end. -/
theorem witness_WalkerRegisters : (tWalk tWalkBlk 3 0 0x1FF8).WalkGo 0 tWalkCmd tWalkBlk [1, 2] ∧
    tWalkBlk.srclo ≤ (0x1FF8 : Word).toNat ∧ (0x1FF8 : Word).toNat + 8 - 1 ≤ tWalkBlk.srchi ∧
    (tWalk tWalkBlk 3 0 0x1FF8).engHeld tWalkCmd false 0x1FF8 8 = false ∧
    (∃ s1 sp, (tWalk tWalkBlk 3 0 0x1FF8).access ((tWalk tWalkBlk 3 0 0x1FF8).ctxOf 0) .read false 0x1FF8 8 = (s1, .ok sp)) ∧
    tWalkBlk.srchi < (0x1FFA : Word).toNat + 8 - 1 := by
  obtain ⟨s1, sp, h, _⟩ := ok_of ((tWalk tWalkBlk 3 0 0x1FF8).access ((tWalk tWalkBlk 3 0 0x1FF8).ctxOf 0) .read false 0x1FF8 8) (fun _ _ => true)
    (by decide +kernel)
  exact ⟨walkGo_of (by decide +kernel), by decide, by decide, by decide +kernel, ⟨s1, sp, h⟩, by decide⟩
theorem witness_WalkerBitCounts : (tWalk tWalkBlk 0 0 0).WalkGo 0 tWalkCmd tWalkBlk [1] ∧ 0x13 < 2 ^ 32 :=
  ⟨walkGo_of (by decide +kernel), by decide⟩

/-- WalkerEmit: the last element of the last row; a BFP exponent; a row and a column beyond; a format without exponents. -/
def tWalkBfp : WalkBlk := { tWalkBlk with tfmt := 3, mw := 4, cols := 32, tstride := 128 }
theorem witness_WalkerEmit : (tWalk tWalkBlk 3 0 15).WalkGo 0 tWalkCmd tWalkBlk [1] ∧ 3 < tWalkBlk.rows ∧ 15 < tWalkBlk.cols ∧
    (tWalk tWalkBlk 3 0 15).engHeld tWalkCmd true (tileVa (tWalkBlk.at 0 + 3 * tWalkBlk.rb + 30)) 2 = false ∧
    (tWalk tWalkBfp 3 0 0).WalkGo 0 tWalkCmd tWalkBfp [1] ∧ 0 < tWalkBfp.cols / lenOf tWalkBfp.lc ∧
    (tWalk tWalkBfp 3 0 0).engHeld tWalkCmd true (tileVa (4 * tWalkBfp.rb + 3)) 1 = false ∧
    (tWalk tWalkBlk 4 0 15).WalkGo 0 tWalkCmd tWalkBlk [1] ∧ tWalkBlk.rows ≤ 4 ∧ tWalkBlk.tfmt ≠ 3 ∧
    (tWalk tWalkBfp 4 0 0).WalkGo 0 tWalkCmd tWalkBfp [1] ∧ 0 < (tWalk tWalkBlk 3 0 15).members.length ∧
    (match (tWalk tWalkBlk 3 0 15).emitBits tWalkCmd 0 4 16 5 false with | .ok _ => true | _ => false) = true :=
  ⟨walkGo_of (by decide +kernel), by decide, by decide, by decide +kernel, walkGo_of (by decide +kernel), by decide +kernel, by decide +kernel,
   walkGo_of (by decide +kernel), by decide, by decide, walkGo_of (by decide +kernel), by decide +kernel, by decide +kernel⟩

/-- WalkerRow: a row before ROWS and ROWS itself; a word of op 0x21. -/
theorem witness_WalkerRow : (tWalk tWalkBlk 3 0 0).WalkGo 0 tWalkCmd tWalkBlk [] ∧ ((tWalk tWalkBlk 3 0 0).clu 0).walker.row ≠ tWalkBlk.rows ∧
    (tWalk tWalkBlk 4 0 0).WalkGo 0 tWalkCmd tWalkBlk [] ∧ ((tWalk tWalkBlk 4 0 0).clu 0).walker.row = tWalkBlk.rows ∧ 0x21 % 64 = 0x21 :=
  ⟨walkGo_of (by decide +kernel), by decide +kernel, walkGo_of (by decide +kernel), by decide +kernel, by decide⟩

/-- WalkerFlow: a clean walker, and one with w1 poisoned. -/
theorem witness_WalkerFlow : (tWalk tWalkBlk 3 0 1).WalkGo 0 tWalkCmd tWalkBlk [1] ∧ (tWalk tWalkBlk 3 2 1).WalkGo 0 tWalkCmd tWalkBlk [] ∧
    ((tWalk tWalkBlk 3 2 1).clu 0).walker.poison.getLsbD (1 : WReg).toNat = true :=
  ⟨walkGo_of (by decide +kernel), walkGo_of (by decide +kernel), by decide +kernel⟩

def cwAdd : CW := ⟨3, 1, 2, 48, 0, 0, 0, 0⟩

/-- ControlIntegers, ControlFloats: nothing in flight; an overflow that FTRAPEN enables. -/
theorem witness_ControlIntegers : tControl.WordGo 1 0x01 cwAdd ∧ (tControl.th 1).sys.sampOn = false := ⟨wgo _ _, by decide +kernel⟩

def tCtlFpx : State := (tX tControl 1 [(1, 0x7F000000), (2, 0x40000000)]).modTh 1 fun th => { th with sys := { th.sys with ftrapen := 0x1F } }
def cwMul : CW := ⟨3, 1, 2, 48, 0, 0, 0, 4⟩

theorem witness_ControlFloats :
    let g := fun x : CIn => mulVal (fmtOf .f32) (modeOf x.th.sys.rmode) (ftzOf x.th.sys.rmode) (fload (fmtOf .f32) (ftzOf x.th.sys.rmode) x.a.toNat)
      (fload (fmtOf .f32) (ftzOf x.th.sys.rmode) x.b.toNat)
    tControl.WordGo 1 0x32 cwMul ∧ (tControl.th 1).sys.sampOn = false ∧
    fpx (tControl.wordIn 1 0x32 cwMul).th.sys.ftrapen (g (tControl.wordIn 1 0x32 cwMul)).flags = false ∧
    tCtlFpx.WordGo 1 0x32 cwMul ∧ fpx (tCtlFpx.th 1).sys.ftrapen (g (tCtlFpx.wordIn 1 0x32 cwMul)).flags = true :=
  ⟨wgo _ _, by decide +kernel, by decide +kernel, wordGo_of (by decide +kernel) _ _, by decide +kernel⟩

/-- ControlMemory: a word at the end of the page, and an unmapped one. -/
def cwLd : CW := ⟨3, 1, 48, 5, 0, 1, 0, 0⟩
theorem witness_ControlMemory : let s := tX tControl 1 [(1, 0x1FFC)]
    s.WordGo 1 0x20 cwLd ∧ s.interlocked 1 false 0x1FFC 4 = false ∧ (s.readElem (s.ctxOf 1) 0 .read false 0x1FFC 4).2.isOk = true ∧
    (s.readElem (s.ctxOf 1) 0 .read false 0x3000 4).2.isOk = false ∧
    (s.writeElem (s.ctxOf 1) 0 false 0x1FFC 4 7 []).2.2 = none ∧ (s.writeElem (s.ctxOf 1) 0 false 0x3000 4 7 []).2.2.isSome = true :=
  ⟨wordGo_of (by decide +kernel) _ _, by decide +kernel, by decide +kernel, by decide +kernel, by decide +kernel, by decide +kernel⟩

/-- A result in flight: word q writes c5, due late, with tag 2. -/
def fl5 (q : BitVec 32) (tag : BitVec 3) (v : Word) : Inflight :=
  { seq := q, pc := 0x1000, dreg := some 5, tag, due := some 900, value := v, acquire := false, op := 0x20, cw := none, srcs := [], wait := none,
    reason := none, issued := 0, flags := 0, numbered := true, parked := false }

def tFl (l : List Inflight) (chk : Word) : State :=
  tControl.modTh 1 fun th => { th with inflight := l, sys := { th.sys with sbchk := chk } }

/-- ControlResults: one and two results to a register; a tag waited for, a tag taken; an early source, and an empty slot. -/
theorem witness_ControlResults :
    (((tFl [fl5 1 2 7, fl5 2 0 8] 0).th 1).inflight = [fl5 1 2 7, fl5 2 0 8] ∧ fl5 1 2 7 ≠ fl5 2 0 8 ∧
    (((tFl [fl5 1 2 7] 0).th 1).deliverV 1).isSome = true) ∧
    (∀ w : CW, w = ⟨3, 1, 2, 48, 0, 0, 2, 0⟩ → ((tFl [fl5 1 2 7] 0).th 1).twaits w ≠ []) ∧
    (((tFl [fl5 1 2 7] 0).th 1).twaits ⟨3, 1, 2, 48, 0, 2, 0, 0⟩ = [] ∧
    (∃ i ∈ ((tFl [fl5 1 2 7] 0).th 1).inflight, i.tag = 2) ∧
    ctlSources 0x01 ⟨3, 5, 2, 48, 0, 0, 0, 0⟩ = [5, 2] ∧ ((tFl [fl5 1 2 7] 1).th 1).srcEarly 5 = true ∧ getBit (1 : Word) 0 = true) ∧
    (ctlSources 0x01 ⟨3, 33, 2, 48, 0, 0, 0, 0⟩ = [33, 2] ∧ ((tFl [] 1).th 1).srcEarly 33 = false ∧ ((tFl [] 1).th 1).srcHole 33 = true) ∧
    let s := tFl [fl5 1 2 7] 1
    s.cur = .thread 1 ∧ s.runnable 1 = true ∧ (s.th 1).kind = .control ∧ s.ctlFirst 1 = true ∧ (s.th 1).nextIssue = s.ctlNow 1 ∧
    s.upsets = [] ∧ ∀ i ∈ (s.th 1).inflight, i.due.isSome = true ∨ unitOp i.op = false := by
  refine ⟨by decide +kernel, ?_, by decide +kernel⟩
  intro w h
  subst h
  decide +kernel

def tCtlInh : State := tControl.modTh 1 fun th => { th with sys := { th.sys with status := putBit th.sys.status stINH true } }
theorem inhGo (op : Nat) (w : CW) (h : w.talloc = 0) (k : w.twait = 0) (d : ∀ v ∈ ctlSources op w, isDistance v = false) :
    tCtlInh.WordGo 1 op w := by
  have hf : (tCtlInh.th 1).inflight = [] := by decide +kernel
  exact { powered := rfl, cur := rfl, runs := by decide +kernel, kind := by decide +kernel, units := by simp [hf], engines := by decide +kernel
          first := by decide +kernel, clock := by decide +kernel, sound := by decide +kernel
          noBreak := by decide +kernel, noStep := by decide +kernel, handler := fun _ => ⟨h, k, d, by simp [hf]⟩
          twait := by simp [Thread.twaits, hf], talloc := .inl h
          free := by
            have hp : (tCtlInh.th 1).platen = [] := by decide +kernel
            simp [Thread.ctlHeld, hf, hp]
          checked := .inl (by decide +kernel) }

/-- ControlFlow: a branch taken and not; aligned and unaligned targets; the CSR checks; SAFEPT with a pre-emption pending; ERET and DONE in a handler. -/
theorem witness_ControlFlow : let s := tX tControl 1 [(1, 16), (2, 4)]
    let p := tControl.modTm 0 fun k => { k with state := .preempting false }
    let n : CW := ⟨63, 48, 48, 48, 0, 0, 0, 0⟩
    s.WordGo 1 0x47 ⟨3, 1, 48, 48, 0, 0, 0, 0⟩ ∧ ((16 : Word) + 0).toNat % 8 = 0 ∧ ((4 : Word) + 0).toNat % 8 ≠ 0 ∧
    (s.wordIn 1 0x40 ⟨63, 1, 1, 48, 0, 0, 0, 2⟩).a = (s.wordIn 1 0x40 ⟨63, 1, 1, 48, 0, 0, 0, 2⟩).b ∧
    (s.wordIn 1 0x40 ⟨63, 1, 2, 48, 0, 0, 0, 2⟩).a ≠ (s.wordIn 1 0x40 ⟨63, 1, 2, 48, 0, 0, 0, 2⟩).b ∧
    (s.th 1).csrTrap .write 2 = none ∧ (s.csrWrite 1 2 0).2 = none ∧ ((s.th 1).csrTrap .read 0x7FF).isSome = true ∧
    p.WordGo 1 0x58 n ∧ p.preemptPending 1 = true ∧ (p.th 1).inh = false ∧ (p.th 1).platen = [] ∧ (p.th 1).inflight = [] ∧
    tControl.WordGo 1 0x54 n ∧ tCtlInh.WordGo 1 0x55 n ∧ (tCtlInh.th 1).inh = true ∧ tCtlInh.WordGo 1 0x56 n ∧ (tControl.th 1).inh = false :=
  ⟨wordGo_of (by decide +kernel) _ _, by decide, by decide, by decide +kernel, by decide +kernel, by decide +kernel, by decide +kernel,
   by decide +kernel, wordGo_of (by decide +kernel) _ _, by decide +kernel, by decide +kernel, by decide +kernel, by decide +kernel, wgo _ _,
   inhGo _ _ rfl rfl (by decide), by decide +kernel, inhGo _ _ rfl rfl (by decide), by decide +kernel⟩

/-- Control thread 1 with operation p running. -/
def tPl (p : PlatenOp) : State := tControl.modTh 1 fun th => { th with platen := [p] }

theorem platenRuns_of {p : PlatenOp} (h : p.started = true) (f : p.fault = none) (l : p.locks = [])
    (q : ((tPl p).th 1).platen = [p]) (m : (tPl p).memberStopped ((tPl p).th 1).member = false) : (tPl p).PlatenRuns 1 p where
  powered := rfl
  thread := by
    have : 1 < tControl.threads.length := by decide +kernel
    simpa [tPl, State.modTh] using this
  member := by
    have e : (tPl p).th 1 = { tControl.th 1 with platen := [p] } := by rfl
    rw [e]
    have : (tControl.th 1).member < tControl.members.length := by decide +kernel
    exact this
  head := ⟨[], q⟩
  started := h
  fault := f
  runs := m
  there := by
    have e : (tPl p).th 1 = { tControl.th 1 with platen := [p] } := by rfl
    rw [e]
    have : (tControl.tm (tControl.th 1).team).state ≠ .saved := by decide +kernel
    exact this
  free := by simp [l]

theorem opRuns (op imm : Nat) (a b c : Word) (m : (tPl (tOp op imm a b c)).memberStopped ((tPl (tOp op imm a b c)).th 1).member = false) :
    (tPl (tOp op imm a b c)).PlatenRuns 1 (tOp op imm a b c) := platenRuns_of rfl rfl rfl (by rfl) m

/-- AccumulatorZero: tile 15, and its word. -/
theorem witness_AccumulatorZero : (tPl (tOp 0x87 15 0 0 0)).PlatenRuns 1 (tOp 0x87 15 0 0 0) ∧ (tOp 0x87 15 0 0 0).op = 0x87 ∧
    decodeControl (encCW 0x87 ⟨63, 48, 48, 48, 0, 0, 0, 15⟩) = .ok (.acczero ⟨63, 48, 48, 48, 0, 0, 0, 15⟩) ∧
    encCW 0x87 ⟨63, 48, 48, 48, 0, 0, 0, 15⟩ < 2 ^ 64 :=
  ⟨opRuns _ _ _ _ _ (by decide +kernel), rfl, by decide +kernel, by decide +kernel⟩

/-- PlatenOperations: an ACCZERO word is queued; a SEQWAIT on memory met and not; a multiply, the first and the last element of ACCLD, ACCST, SEQW. -/
theorem witness_PlatenOperations :
    tControl.WordGo 1 0x87 ⟨63, 48, 48, 48, 0, 0, 0, 15⟩ ∧
    (tControl.platenNeed (tControl.wordIn 1 0x87 ⟨63, 48, 48, 48, 0, 0, 0, 15⟩) 0x87 ⟨63, 48, 48, 48, 0, 0, 0, 15⟩).2.isOk = true ∧
    (let s := tX tControl 1 [(1, 0x1FF8), (2, 1)]
     let w : CW := ⟨63, 1, 2, 48, 0, 0, 0, 0⟩
     s.WordGo 1 0x8b w ∧ s.interlocked 1 false 0x1FF8 8 = false ∧
     (∃ s1 sp, s.access (s.ctxOf 1) .monitored true 0x1FF8 8 = (s1, .ok sp) ∧
       decide (sp = [⟨.phys 0x3FF4FF8 true, 8⟩] ∧ Mem.readNat s1.mem 0x3FF4FF8 8 < 1) = true)) ∧
    EngineReached tControl 1 2 0 ∧ seqLe 5 ((tControl.th 1).engCtr 2).done = false ∧
    (tPl (tOp 0x80 0 0 0 1)).PlatenRuns 1 (tOp 0x80 0 0 0 1) ∧ (tOp 0x80 0 0 0 1).flags = 0 ∧
    (tPl (tOp 0x84 3 0x1000 0 0)).PlatenRuns 1 (tOp 0x84 3 0x1000 0 0) ∧
    (tPl (tOp 0x84 3 0x1000 0 0)).heldBefore 1 900 false 0x11FC 4 = false ∧
    (∃ s1 sp, (tPl (tOp 0x84 3 0x1000 0 0)).access ((tPl (tOp 0x84 3 0x1000 0 0)).ctxOf 1) .carried false 0x11FC 4 = (s1, .ok sp) ∧
      decide (sp = [⟨.phys 0x3FF41FC true, 4⟩]) = true) ∧
    (tPl (tOp 0x8a 3 0x1FF8 7 0)).PlatenRuns 1 (tOp 0x8a 3 0x1FF8 7 0) ∧
    (let s := (tPl (tOp 0x8a 3 0x1FF8 7 0)).platenOn 1
     s.heldBefore 1 900 true 0x1FF8 8 = false ∧
     ∃ s1 sp, s.access (s.ctxOf 1) .write true 0x1FF8 8 = (s1, .ok sp) ∧ decide (sp = [⟨.phys 0x3FF4FF8 true, 8⟩]) = true) :=
  ⟨wgo _ _, by decide +kernel, ⟨wordGo_of (by decide +kernel) _ _, by decide +kernel, ok_of _ _ (by decide +kernel)⟩,
   ⟨by decide +kernel, by decide +kernel⟩, by decide +kernel, opRuns _ _ _ _ _ (by decide +kernel), rfl, opRuns _ _ _ _ _ (by decide +kernel),
   by decide +kernel, ok_of _ _ (by decide +kernel), opRuns _ _ _ _ _ (by decide +kernel), by decide +kernel,
   ok_of _ _ (by decide +kernel)⟩

/-! ### States where the events can happen -/

/-- A convoy of one VADD that is broadcast and that no lane has executed. -/
def tWinI : Instr := .vadd pl .i 3 1 2
def tWin : State := tVec.broadcasts 0 tWinI
/-- The same convoy at the head of the queue. -/
def tHead : State := tVec.atHead 0 tWinI
/-- A load from a page that is not mapped. -/
def tWinF : State := (tX tVm 0 [(1, 0x3000)]).broadcasts 0 (.vld pl 0 1 3)
/-- Slot 3 holds a rendezvous that every lane has come to. -/
def tFull : State := tVec.modTh 0 fun th =>
  { th with slots := vset th.slots 3 { state := .full, seq := 0, arrived := 0xFF, instr := some (.vred pl .add .i 5 1), cap := some th.capture
                                       parts := [] } }
/-- Every lane has stopped at its first element of the convoy. -/
def tStop : State := tWin.modTh 0 fun th => { th with laneFault := (List.range 8).map fun j => (j, { idx := 0, trap := fpxTrap j }) }
def tD : Desc := { base := 0x1800, ndim := 1, esize := 2, nt := false, extents := [8], strides := [4] }
def tE : Desc := { tD with base := 0x1900 }
/-- A copy of eight words of strand 0 on channel 7, before element k. -/
def copyCmd (k : Nat) : Cmd := { tWalkCmd with eng := 1, pos := k, body := .copy tD tE 8 7 (some 63) false }
def tCopy (k : Nat) : State := { tData with cmds := [copyCmd k], nextCmd := 1 }
def engF : EngFault := { cmd := 0, eng := 1, chan := 7, eseq := 1, pc := 0x1000, cseq := 0, trap := causeTrap 0x05 }
/-- The loaded team beside the supervisor cores, its strand (thread 16) stopped and waiting at die 0. -/
def tSup (threads : List Thread) : State :=
  let s := State.loadTeam { State.reset with clusters := [(0, Cluster.reset 0)], threads } []
  (s.modTh threads.length fun th => { th with run := .stopped }).modDie 0 fun d => { d with stops := [threads.length] }

/-- Lane j of strand t stands at the convoy of i, with f of its window entry. -/
def laneAtB (s : State) (t j : Nat) (i : Instr) (f : WinEntry → Bool) : Bool :=
  match (s.th t).laneNext j with
  | none => false
  | some w => match w.cap.info i with
    | none => false
    | some inf =>
      s.runnable t && decide ((s.th t).kind = .strand) && !(s.th t).inh && decide (j < (s.th t).lanes) && decide (j < 32) &&
      decide ((s.th t).laneFault = []) && decide ((s.th t).window.find? (·.seq == vget (s.th t).cp j 0) = some w) &&
      decide (∀ y ∈ (s.th t).window, NMap.get y.ran j = 0 ∧ NMap.get y.sent j = 0 ∧ Tbl.find j y.rfault = none) &&
      decide (w.units = [{ instr := i, bytes := 4 * (encode i).length }]) && !inf.rdv && decide (w.ordered = none) &&
      !s.laneWaits (w.env t j) inf && decide (s.upsets = []) && decide (∀ r ∈ s.remotes, r.thr ≠ t) && !(s.th t).sys.sampOn && f w

theorem laneAt_of {s : State} {t j : Nat} {i : Instr} {f : WinEntry → Bool} (h : laneAtB s t j i f = true) :
    ∃ w inf, s.LaneAt t j w i inf ∧ f w = true := by
  unfold laneAtB at h
  split at h
  · contradiction
  rename_i w hw
  split at h
  · contradiction
  rename_i inf hi
  simp only [Bool.and_eq_true, decide_eq_true_eq, Bool.not_eq_true'] at h
  obtain ⟨⟨⟨⟨⟨⟨⟨⟨⟨⟨⟨⟨⟨⟨⟨h1, h2⟩, h3⟩, h4⟩, h5⟩, h6⟩, h7⟩, h8⟩, h9⟩, h10⟩, h11⟩, h12⟩, h13⟩, h14⟩, h15⟩, h16⟩ := h
  exact ⟨w, inf, { runs := h1, user := ⟨h2, h3⟩, lane := h4, few := h5, faults := h6, entry := h7, next := hw, fresh := h8, alone := ⟨_, h9⟩
                   info := hi, plain := h10, unordered := h11, free := h12, sound := h13, answered := h14, sampled := h15 }, h16⟩

/-- The lane executes i of convoy w and has nothing outstanding after it; or stops at an element of it. -/
def commitsB (s : State) (t j : Nat) (i : Instr) (w : WinEntry) : Bool :=
  match laneSem s (w.env t j) 0 i with
  | .ok s1 fl =>
    let s2 := s1.modWin t w.seq fun y => { y with ran := NMap.set y.ran j (fl.toNat + 1) }
    decide (s1.upsets = []) && decide (vget (s1.th t).cp j 0 = w.seq) && decide ((s1.th t).laneFault = []) &&
    (s1.th t).window.any (·.seq == w.seq) && !s2.outstanding t w.seq j && decide ((s2.th t).nextSeq ≠ w.seq) &&
    decide (∀ y ∈ (s2.th t).window, Tbl.find j y.rfault = none ∧ (y.seq ≠ w.seq → NMap.get y.ran j = 0)) && decide ((s.th t).nextSeq ≠ w.seq)
  | _ => false
def stopsB (s : State) (t j : Nat) (i : Instr) (w : WinEntry) : Bool :=
  match laneSem s (w.env t j) 0 i with | .fault s1 _ => decide (vget (s1.th t).cp j 0 = w.seq) | _ => false

/-- ClusterEvents: fetch of an ADDI, of a word of zeros, and by no thread. -/
theorem witness_fetch :
    (tVec.runnable 0 = true ∧ (tVec.th 0).kind ≠ .control ∧ tVec.canFetch 0 = true) ∧
    (match (tVec.fetchUnit 0 (tVec.th 0).fetchPc).2 with | .error _ => true | _ => false) = true ∧
    (let s := tMem tVec 0 (bytesOf 4 (encode (.addi 4 0 7)).head!)
     s.runnable 0 = true ∧ s.canFetch 0 = true ∧
     (match (s.fetchUnit 0 (s.th 0).fetchPc).2 with | .ok (_, ws) => !unitC ws | _ => false) = true) ∧ tVec.runnable 5 = false := by
  refine ⟨?_, ?_, ?_, ?_⟩ <;> decide +kernel

/-- One strand with credit at its head convoy; none ready. -/
theorem witness_broadcast :
    let all := tHead.strandsOn (cluKey 0 0)
    (0 ∈ all ∧ tHead.ready all 0 = true ∧ (∀ u ∈ all, u ≠ 0 → tHead.ready all u = false) ∧ 0 < (tHead.th 0).credit ∧
      (tHead.th 0).engFault = [] ∧ (tHead.th 0).breaks (tHead.th 0).head.pc = false ∧ (tHead.th 0).stepReq = false ∧
      convoyTrap (tHead.th 0).capture (tHead.th 0).head = none ∧
      (tHead.issueTraps 0 (tHead.th 0).capture (tHead.th 0).head.units).2.toBool = true ∧
      (tHead.th 0).engBreak (tHead.th 0).head.pc 8 0 ((tHead.th 0).nextEseq 8) = false) ∧
    ∀ u ∈ tVec.strandsOn (cluKey 0 0), tVec.ready (tVec.strandsOn (cluKey 0 0)) u = false := by
  intro all
  refine ⟨?_, ?_⟩ <;> decide +kernel

/-- The last lane at a VADD, and at a load from a page that is not mapped. -/
theorem witness_laneCommit :
    (tWin.runnable 0 = true ∧ (tWin.th 0).inh = false ∧ 7 < (tWin.th 0).lanes ∧ Tbl.find 7 (tWin.th 0).laneFault = none ∧
      (tWin.th 0).window.any (fun w => w.seq == vget (tWin.th 0).cp 7 0) = true) ∧
    (∃ w inf, tWin.LaneAt 0 7 w tWinI inf ∧ commitsB tWin 0 7 tWinI w = true) ∧
    ∃ w inf, tWinF.LaneAt 0 7 w (.vld pl 0 1 3) inf ∧ stopsB tWinF 0 7 (.vld pl 0 1 3) w = true :=
  ⟨by decide +kernel, laneAt_of (by decide +kernel), laneAt_of (by decide +kernel)⟩

/-- A full slot; every lane stopped, lane 0 first; no lane stopped. -/
theorem witness_records :
    (0 < tFull.threads.length ∧ (vget (tFull.th 0).slots 3 Slot.reset).state = .full ∧
      (vget (tFull.th 0).slots 3 Slot.reset).instr = some (.vred pl .add .i 5 1) ∧ (vget (tFull.th 0).slots 3 Slot.reset).cap.isSome = true) ∧
    (let q := vget (tStop.th 0).cp 0 0
     let lf : LaneFault := { idx := 0, trap := fpxTrap 0 }
     (tStop.runnable 0 = true ∧ (tStop.th 0).kind = .strand ∧ (tStop.th 0).inh = false ∧ (tStop.th 0).run = .running ∧
       (tStop.th 0).lanes ≤ 32) ∧ ((∀ k < (tStop.th 0).lanes, (Tbl.find k (tStop.th 0).laneFault).isSome = true) ∧
       (∀ e ∈ (tStop.th 0).laneFault, e.1 < (tStop.th 0).lanes) ∧ tStop.awaitsRemote 0 = false ∧
       (∀ k < 4, (vget (tStop.th 0).slots k Slot.reset).state ≠ .full)) ∧
     ((tStop.th 0).faultSeq = some q ∧ ((tStop.th 0).window.find? (·.seq == q)).isSome = true ∧ (0, lf) ∈ (tStop.th 0).laneFault ∧
       ∀ e ∈ (tStop.th 0).laneFault, vget (tStop.th 0).cp e.1 0 = q → e.2 ≠ lf → e.2.before lf = false ∧ lf.before e.2 = true)) ∧
    (tVec.th 0).laneFault = [] := by
  refine ⟨?_, ⟨?_, ?_, ?_⟩, ?_⟩ <;> decide +kernel

/-- A command under way; a fault that waits for a control thread, for a strand and for a strand that has ended; a stopped member beside
the supervisor cores of its die, and without them. -/
theorem witness_ClusterEvents :
    ((tCopy 0).cmd 0 = some (copyCmd 0) ∧ (copyCmd 0).finished = false ∧ (copyCmd 0).fault = none ∧
      (copyCmd 0).thr < (tCopy 0).threads.length ∧ ((tCopy 0).th (copyCmd 0).thr).run ≠ .done) ∧
    (let s := (tBase.modTh 0 fun th => { th with engFault := [engF] }).modTh 1 fun th => { th with engFault := [engF] }
     (s.runnable 1 = true ∧ (s.th 1).engFault = [engF] ∧ (s.th 1).run = .running ∧ (s.th 1).kind = .control) ∧
     (s.runnable 0 = true ∧ (s.th 0).engFault = [engF] ∧ (s.th 0).run = .running ∧ (s.th 0).kind = .strand ∧ (s.th 0).inh = false ∧
       (s.th 0).window = [] ∧ (s.th 0).rdvOpen = false ∧ s.awaitsRemote 0 = false)) ∧
    (let s := tBase.modTh 0 fun th => { th with run := .done, engFault := [engF] }
     0 < s.threads.length ∧ (s.th 0).run = .done ∧ s.memberStopped (s.th 0).member = false ∧
       ∀ u ∈ s.threadsOf (s.th 0).member, u ≠ 0 → (s.th u).kind ≠ .strand) ∧
    (let s := tSup State.reset.threads
     s.memberStopped 0 = true ∧ (s.tm (s.mb 0).team).state ≠ .saved ∧ s.servedBy 0 = some 0 ∧ s.supervised 0 = true) ∧
    ((tSup []).servedBy 0 = some 0 ∧ (tSup []).supervised 0 = false) ∧ tBase.memberStopped 0 = false := by
  refine ⟨?_, ?_, ?_, ?_, ?_, ?_⟩ <;> decide +kernel

def tChain : State := tData.modChan 0 7 fun c =>
  { c with chain := 0x1D00, chainPc := 0x1000, chainSeq := 0, chainThr := 0, chainPos := 0, chainParked := false }
/-- The record at the chain register: OWN, a sem bit, and the two descriptors. -/
def tOwned : State :=
  tBytes tChain 0xD00 [(0, 0x17), (1, 63), (0x41, 0x18), (0x48, 1), (0x49, 2), (0x50, 8), (0x80, 4), (0x101, 0x19), (0x108, 1), (0x109, 2),
    (0x110, 8), (0x140, 4)]
def tBuf : State := ((tWalk tWalkBlk 0 0 0).modWalker 0 fun w => { w with state := .waiting }).modMb 0 fun m => { m with sem := 2 }
def keepCmd : Cmd := { tWalkCmd with body := .stkeep tD tE 0 0 0 0 true }
def tKeep : State := { tData with cmds := [keepCmd], nextCmd := 1 }
def tQ : State := tPl { tOp 0x87 15 0 0 0 with started := false }

/-- Element k of the copy moves between single spans, when the last one does. -/
def copyB (k a b : Nat) : Bool :=
  let s := tCopy k
  match s.access (s.descCtx 0 tD) .carried false (BitVec.ofNat 64 (0x1800 + 4 * k)) 4 with
  | (s1, .ok sp) => decide (sp = [⟨.phys a true, 4⟩]) &&
    (match s1.access (s.descCtx 0 tE) .write false (BitVec.ofNat 64 (0x1900 + 4 * k)) 4 with
      | (_, .ok sq) => decide (sq = [⟨.phys b true, 4⟩]) | _ => false)
  | _ => false

/-- EngineEvents: the whole copy, and its last element. -/
theorem witness_copy :
    ((tCopy 0).cmd 0 = some (copyCmd 0) ∧ ((tCopy 0).runCmd (copyCmd 0)).isSome = true) ∧
    (let s := tCopy 7
     (s.cmd 0 = some (copyCmd 7) ∧ (s.tm (s.th 0).team).state ≠ .saved ∧ s.keyHeld (copyCmd 7) = false ∧ s.inProgress (copyCmd 7) = true) ∧
     ((exactAddr (tD.addr 7)).toOption = some 0x181C ∧ (exactAddr (tE.addr 7)).toOption = some 0x191C ∧
       s.engHeld (copyCmd 7) false 0x181C 4 = false ∧ s.engHeld (copyCmd 7) true 0x191C 4 = false) ∧ copyB 7 0x3FF481C 0x3FF491C = true ∧
     ((∀ d ∈ s.cmds, d.id = 0 → d = copyCmd 7) ∧ (∀ d ∈ s.cmds, s.chanOf d = some ((s.th 0).member, 7) → d.finished = false) ∧
       (s.th 0).member < s.members.length ∧ (copyCmd 7).eseq = (s.channel (s.th 0).member 7).completed + 1)) := by
  refine ⟨?_, ?_, ?_, ?_, ?_⟩ <;> decide +kernel

/-- The chain register names a record of zeros, or one that is owned. -/
def chainGo (s : State) : Bool :=
  let x := s.channel 0 7
  decide ((s.tm (s.mb 0).team).state ≠ .saved) && decide (7 < (s.mb 0).nchan) && decide (0 < s.members.length) && decide (x.chain ≠ 0) &&
  decide (∀ c ∈ s.cmds, c.body ≠ .chain 7 ∨ (s.th c.thr).member ≠ 0) && decide (s.queued 0 7 < 16) &&
  !s.heldBefore x.chainThr x.chainNum true x.chain 8 && !s.heldBefore x.chainThr x.chainNum false x.chain 512
def chainRead (s : State) : State × Except Trap (List Span) :=
  (s.modChan 0 7 fun y => { y with chainParked := false }).access (s.ctxOf (s.channel 0 7).chainThr) .read false (s.channel 0 7).chain 8
def ownedB : Bool :=
  let s := tOwned
  match chainRead s with
  | (s1, .ok sp) =>
    let q := s1.readSpans (s.ctxOf (s.channel 0 7).chainThr) 0 sp
    decide (leNat q.2 % 2 = 1) &&
    (match q.1.readBlock (s.ctxOf (s.channel 0 7).chainThr) (s.channel 0 7).chain 512 with
      | (s2, .ok bs) => (match parseRecord bs with
        | some (_, sem, _, _, _) => sem.all (· < (s2.mb 0).nsem) && decide (sem = some 63) &&
          (match s2.atomicElem (s2.ctxOf (s2.channel 0 7).chainThr) (s2.channel 0 7).chain 8 (fun o => some (o / 2 * 2)) with
            | (s3, .ok _) => decide (0 < s3.members.length) | _ => false)
        | none => false)
      | _ => false)
  | _ => false

theorem witness_chain : chainGo tChain = true ∧ chainGo tOwned = true ∧ ownedB = true ∧
    (match chainRead tChain with
      | (s1, .ok sp) => decide (sp = [⟨.phys 0x3FF4D00 true, 8⟩]) && decide (Mem.readNat s1.mem 0x3FF4D00 8 % 2 = 0) &&
        (match s1.homeOf (0x3FF4D00 / 64 * 64) with | some h => decide (h.1 < 4) | none => false)
      | _ => false) = true ∧ (tData.channel 0 7).chain = 0 := by
  refine ⟨?_, ?_, ?_, ?_, ?_⟩ <;> decide +kernel

/-- The tiles of the waiting STKEEP are read, and have room or none. -/
def keepB (s : State) (room : Bool) : Bool :=
  decide (s.waitingKeeps 0 = [keepCmd]) && !s.keyHeld keepCmd &&
  match State.readTile keepCmd tD (List.range tD.count) s [] with
  | (s1, _, _, .run) => (match State.readTile keepCmd tE (List.range tE.count) s1 [] with
    | (s2, _, _, .run) =>
      let busy := (s2.stTags 0 4095).filter fun g => decide (0 < g.readers)
      decide ((s2.stRoom 0 4095 32 32 busy ((s2.stTags 0 4095).length - busy.length)).isSome = room) &&
      decide ((State.makeRoom 0 4095 32 32 (s2.stTags 0 4095).length s2).2.isSome = room)
    | _ => false)
  | _ => false

/-- A buffer to open; a waiting STKEEP with room and without; a queue to start; a result in flight. -/
theorem witness_EngineEvents :
    (tBuf.walkOf 0 = some (tWalkCmd, tWalkBlk) ∧ (tBuf.clu 0).walker.state = .waiting ∧ (tBuf.th 0).member < tBuf.members.length ∧
      (tBuf.mb 0).sem.getLsbD (tWalkBlk.empty 0) = true ∧ tBuf.engHeld tWalkCmd true (tileVa (tWalkBlk.at 0)) tWalkBlk.tb = false) ∧
    (keepB tKeep true = true ∧ keepB (tKeep.modDie 0 fun d => { d with allocs := [] }) false = true ∧ tData.waitingKeeps 0 = []) ∧
    (tKeep.ridOf 0 = 4095 ∧ tD.count * stBytes (getField 0 8 3) = 32 ∧ tE.count * stBytes (getField 0 8 3) = 32) ∧
    (1 < tQ.threads.length ∧ (tQ.th 1).platen = [{ tOp 0x87 15 0 0 0 with started := false }] ∧ tQ.memberStopped (tQ.th 1).member = false ∧
      (tQ.tm (tQ.th 1).team).state ≠ .saved ∧ (tQ.tm (tQ.th 1).team).halted = false ∧ tQ.platenPeers 1 = [1] ∧ tBase.platenReady 1 = false) ∧
    (let s := tFl [fl5 9 0 7] 0
     (s.th 1).kind = .control ∧ (s.th 1).active = true ∧
     ((s.th 1).inflight.find? fun i => i.seq == BitVec.ofNat 32 9 && kindOf i.op == .v && i.due.isSome) = some (fl5 9 0 7)) := by
  refine ⟨?_, ?_, ?_, ?_, ?_⟩ <;> decide +kernel

def tMon : Monitor := { kind := 0, die := 0, cluster := 0, half := 0, thr := 0, hwctx := 0, age := 0, sector := 0x3FF4000 / 64, owner := 0 }
def mwaitI : Instr := .mwait 3 (.lit 0x1000) 0 3 false 1
/-- Strand 0 blocked in an MWAIT of one cycle, whose time has come. -/
def tMw : State :=
  ((tStrand.atHead 0 mwaitI).modTh 0 fun th => { th with run := .blocked (.mwait (0x3FF4000 / 64)), waitStart := 0 }).modClu 0 fun c =>
    { c with cycle := 5 }
def tVwB : State :=
  ((tVw.atHead 0 (.vwait ec .i true false 3 4 1 9 2)).modTh 0 fun th => { th with run := .blocked .vwait, waitStart := 0 }).modClu 0 fun c =>
    { c with cycle := 5 }
/-- An MWAIT word of control thread 1 out of time. -/
def tMc : State :=
  (tFl [{ fl5 1 1 0 with due := none, op := 0x67, srcs := [0, 0, 1], wait := some (.mwait 1) }] 0).modClu 0 fun c => { c with cycle := 5 }
/-- Sampling with a ring of some bytes, from 0 to 8 of the stream. -/
def tSamp (c : Nat) : State :=
  tStrand.modTh 0 fun th => { th with sys := { th.sys with sampcfg := 1, samphead := 8, samptail := 0 }, countdown := c }
/-- The one element that the VWAIT of s waits for is read from the page at 0x1800, on s0. -/
def vwB (s s0 : State) : Bool :=
  let C := (s.th 0).capture
  let env : LEnv := { t := 0, seq := 0, cap := C, lane := 0, start := 0, dist := none }
  decide ((s.th 0).run = .blocked .vwait) && s.runnable 0 &&
  decide ((s.th 0).head.units.map (·.instr) = [.vwait ec .i true false 3 4 1 9 2]) &&
  decide (((List.range C.vl).filter (isActive (s.th 0).v C.lanes ec.mask)).filter (fun i => !NSet.mem i (s.th 0).vwaitMet) = [0]) &&
  !s.interlocked 0 false (indexAddr env (s.th 0).v 1 9 C.sew 0) (C.sew / 8) &&
  match s0.access (env.cx s0) .read true (indexAddr env (s.th 0).v 1 9 C.sew 0) (C.sew / 8) with
  | (s1, .ok sp) => decide (sp = [⟨.phys 0x3FF4800 true, C.sew / 8⟩]) && quietB s1 0
  | _ => false

/-- BarriersAndCapture: SAMPLE of a strand and of a control thread with sampling on, between two countdowns. -/
theorem witness_sample :
    let c := tControl.modTh 1 fun th => { th with sys := { th.sys with sampcfg := 1 }, countdown := 9 }
    (tSamp 9).SyncGo 0 (.sample 5) false [5] ∧
    (((tSamp 9).th 0).sys.sampOn = true ∧ ((tSamp 9).th 0).sys.sampAdapt = false ∧ 1 < ((tSamp 9).th 0).countdown) ∧
    c.WordGo 1 0x6d ⟨63, 1, 48, 48, 0, 0, 0, 0⟩ ∧
    ((c.th 1).sys.sampOn = true ∧ (c.th 1).sys.sampAdapt = false ∧ 1 < (c.th 1).countdown) :=
  ⟨syncGo_of (by decide +kernel) ⟨by decide +kernel, by decide +kernel⟩ _ _ _, by decide +kernel, wordGo_of (by decide +kernel) _ _,
   by decide +kernel⟩

/-- SampleAndWaitEvents. -/
theorem witness_SampleAndWaitEvents :
    ((0 < (tSamp 0).threads.length ∧ ((tSamp 0).th 0).active = true ∧ ((tSamp 0).th 0).sys.sampOn = true ∧ ((tSamp 0).th 0).countdown = 0 ∧
      ((tSamp 0).th 0).sys.sampAdapt = false) ∧ (tStrand.th 0).sys.sampOn = false) ∧
    ((tSamp 9).runnable 0 = true ∧ ((tSamp 9).th 0).kind ≠ .supervisor ∧ ((tSamp 9).th 0).sys.samptail.toNat ≤ 4 ∧
      8 ≤ ((tSamp 9).th 0).sys.samphead.toNat ∧ ((tSamp 9).th 0).sys.samphead.toNat < 9 ∧ ((tSamp 9).th 0).window = [] ∧
      ((tSamp 9).th 0).rdvOpen = false ∧ (tSamp 9).awaitsRemote 0 = false ∧ ((tSamp 9).th 0).laneFault = []) ∧
    (∃ sl, let s := tBase.modDie 0 fun d => { d with monitors := [tMon] }
      ((s.die 0).monitors.filter fun m => s.homeOf (m.sector * 64) == some (0, sl))[0]? = some tMon ∧ tMon.kind = 0 ∧
      tMon.owner < s.threads.length) ∧
    (tMw.mwaitOver 0 = true ∧ 0 < tMw.threads.length ∧ tStrand.mwaitOver 0 = false ∧ tStrand.mwaitsOver 0 = []) ∧
    (tMc.mwaitOver 1 = false ∧ (tMc.mwaitsOver 1).length = 1 ∧ 1 < tMc.threads.length) ∧
    (vwB tVwB tVwB = true ∧ vwB tVwB (tVwB.modTh 0 fun th => { th with vwaitOver := true }) = true ∧
      2 ≤ (tVwB.cycleOf 0).toNat - (tVwB.th 0).waitStart ∧ (tStrand.th 0).run ≠ .blocked .vwait) := by
  refine ⟨?_, ?_, ⟨((tBase.homeOf (tMon.sector * 64)).getD (0, 0)).2, ?_⟩, ?_, ?_, ?_⟩ <;> decide +kernel

/-- A launch queue of leaf region 4095 with a host ring of sixteen slots and one token, its tail ahead by one. -/
def tTok (va : Word) : Token := { parseToken (List.replicate 64 0) with desc := va }
def tLq (va : Word) (ck : Bool) : State :=
  { tData with
    regions := Tbl.insert 4095 { tData.region 4095 with hrlog := 4, hring := 0x3FF4000 + 0x440, slots := 512, maxw := 4 } tData.regions
    lqueues := [(4095, { tokens := [tTok va], head := 0, tail := 1, ovf := false, desc := if ck then some (parseKDesc [], []) else none
                         depMet := false, reserving := false, account := 0, runnable := false })] }
/-- A kernel descriptor at 0x1D80: one full member, one strand on lane group 0 with weight 1, both entries at 0x1000. -/
def tKd : State := tBytes (tLq 0x1D80 false) 0xD80 [(0, 1), (4, 1), (6, 1), (9, 0x10), (0x11, 0x10), (0x30, 1), (0x31, 1)]

/-- LaunchAndPass: a tail inside the ring and one beyond it, a region without a queue; a token that a check refuses, one that passes, and
one that has passed. -/
theorem witness_LaunchAndPass :
    let s := tLq 0 false
    (Tbl.find 4095 s.lqueues ≠ none ∧ (s.region 4095).leaf = true ∧ s.mgmt.recovery = false ∧
      (16 % 65536 + 65536 - 0 % 65536) % 65536 ≤ 2 ^ (s.region 4095).hrlog ∧
      ¬ (17 % 65536 + 65536 - 0 % 65536) % 65536 ≤ 2 ^ (s.region 4095).hrlog ∧ Tbl.find 7 s.lqueues = none) ∧
    ((s.lqueue 4095).head ≠ (s.lqueue 4095).tail ∧ s.lqRoom 4095 = true ∧ (s.lqueue 4095).tokens = [tTok 0] ∧
      (s.lqueue 4095).depMet = false ∧ (s.lqueue 4095).desc = none ∧ (s.checkToken 4095 (tTok 0)).2.isOk = false) ∧
    ((tKd.lqueue 4095).tokens = [tTok 0x1D80] ∧ (tKd.lqueue 4095).depMet = false ∧ (tKd.lqueue 4095).desc = none ∧
      (tKd.checkToken 4095 (tTok 0x1D80)).2.isOk = true ∧ (tTok 0x1D80).depk = 0) ∧
    (((tLq 0 true).lqueue 4095).desc ≠ none ∧ ((tLq 0 true).lqueue 4095).depMet = false ∧ (tBase.die 3).off = false) := by
  intro s
  refine ⟨?_, ?_, ?_, ?_⟩ <;> decide +kernel

def tPreempt : State :=
  ((tBase.modTm 0 fun k => { k with state := .preempting false, reqAt := 0 }).modTh 0 fun th => { th with run := .safept 0x1000 }).modTh 1
    fun th => { th with run := .safept 0x1000 }
/-- The deadline has passed and strand 0 runs on; or its lanes have been drained for a forced save. -/
def tLate (forced : Bool) (run : Run) : State :=
  let s := (tBase.modTm 0 fun k => { k with state := .preempting forced, reqAt := 0 }).modTh 0 fun th => { th with run }
  { s with regions := Tbl.insert 4095 { s.region 4095 with deadline := 0 } s.regions }
/-- A saved team whose threads have left their cores. -/
def tSaved (placed : Bool) : State :=
  let s := ((tBase.modTm 0 fun k => { k with state := .saved }).modMb 0 fun m => { m with placed }).modTh 0 fun th => { th with active := false }
  { s with regions := Tbl.insert 4095 { s.region 4095 with slots := 2 } s.regions }
/-- The same on die 0, which is off, its strand with endpoint 3 of context 1. -/
def tAway : State :=
  let s := ((tSaved false).modTh 0 fun th => { th with sys := { th.sys with msgep := 0x80000003 } }).modDie 0 fun d => { d with off := true }
  { s with
    endpoints := [(3, { moving := false, die := 0, mctx := 1, rid := 4095 })]
    mctxs := [(1, { die := 0, rid := 4095 })]
    clusters := Tbl.insert (cluKey 1 0) { Cluster.reset 0 with enabled := true } s.clusters }
def tDone : State := ((tBase.modTh 0 fun th => { th with run := .done }).modTh 1 fun th => { th with run := .done })

/-- SaveAndEnd. -/
theorem witness_saves :
    ((tPreempt.tm 0).state = .preempting false ∧ tPreempt.teamSafe 0 = true ∧ tPreempt.teamAwaits 0 = false) ∧
    (let s := tLate false .running
     (s.tm 0).state = .preempting false ∧ s.teamSafe 0 = false ∧ (s.region (s.tm 0).rid).deadline ≤
      (s.die (s.mb ((s.tm 0).members.headD 0)).die).sched - (s.tm 0).reqAt) ∧
    (let s := tLate true .stopped
     (s.tm 0).state = .preempting true ∧ s.teamAwaits 0 = false ∧ ∀ t ∈ s.teamThreads 0, (s.th t).kind = .strand →
      (s.th t).inh = true ∨ (s.th t).run = .stopped ∨ (s.th t).run = .endedStopped ∨ (s.th t).run = .done) ∧ tBase.preempting 0 = false ∧
    ((tSaved true).tm 0).state = .saved ∧ ((∃ m ∈ ((tSaved true).tm 0).members, ((tSaved true).mb m).placed = true) ∧
      ∀ t ∈ (tSaved true).teamThreads 0, ((tSaved true).mbOf t).ended = false → ((tSaved true).th t).inflight = []) ∧
    (tBase.modClu 0 fun c => { c with clearing := [(0, 1)] }).clusters.any (fun e => e.2.clearing.any (·.1 == 0)) = true := by
  refine ⟨?_, ?_, ?_, ?_, ?_, ?_, ?_⟩ <;> decide +kernel

theorem witness_SaveAndEnd :
    (((tSaved false).tm 0).state = .saved ∧ (∀ m ∈ ((tSaved false).tm 0).members, ((tSaved false).mb m).placed = false) ∧
      ((tSaved false).resumeSlots 0 false).isSome = true ∧
      (tSaved false).teamCtxs 0 ((tSaved false).mb (((tSaved false).live 0).headD 0)).die = []) ∧
    ((tAway.tm 0).state = .saved ∧ (∀ m ∈ (tAway.tm 0).members, (tAway.mb m).placed = false) ∧
      ((tAway.resumeSlots 0 false).map fun l => (l.headD (0, 0, 0)).1) = some 1 ∧ (tAway.mb ((tAway.live 0).headD 0)).die = 0 ∧
      tAway.allMoving (tAway.teamCtxs 0 0) = false ∧ tAway.teamCtxs 0 0 = [1]) ∧
    ((tDone.mb 0).ended = false ∧ (tDone.mb 0).placed = true ∧ (tDone.tm (tDone.mb 0).team).state ≠ .saved ∧
      (∀ t ∈ tDone.threadsOf 0, (tDone.th t).run = .done ∧ (tDone.th t).platen = []) ∧ ∀ c ∈ tDone.cmds, c.thr ∉ tDone.threadsOf 0) ∧
    (let s := tBase.modMb 0 fun m => { m with ended := true }
     (s.tm 0).state = .running ∧ (s.tm 0).members ≠ [] ∧ ∀ m ∈ (s.tm 0).members, (s.mb m).ended = true) ∧
    (let s := tBase.modTh 0 fun th => { th with run := .stopped }
     (s.tm 0).state ≠ .ended ∧ ∃ m ∈ (s.tm 0).members, s.memberStopped m = true) := by
  refine ⟨?_, ?_, ?_, ?_, ?_⟩ <;> decide +kernel

/-- A table command of die 0 with an OP on forme 6; the image at 0x3FF4000 holds a valid read-only forme of region 4095. -/
def formeImg (v : Nat) : List Byte :=
  bytesOf 2 (v + 2) ++ bytesOf 2 4095 ++ bytesOf 2 0 ++ bytesOf 2 0 ++ bytesOf 8 0x1000 ++ bytesOf 4 1 ++ bytesOf 4 1 ++ bytesOf 4 1 ++
    List.replicate 36 0
def tQuota : State :=
  { tBase with regions := Tbl.insert 4095 { tBase.region 4095 with formes := 4, distent := 4 } tBase.regions }
def tTab (op table idx : Nat) : State :=
  tQuota.modDie 0 fun d => { d with tblstat := 1, tblRun := (BitVec.ofNat 64 (op * 16 + table * 256 + idx * 4096), 0x3FF4000) }
def distImg : List Byte := bytesOf 2 1 ++ bytesOf 2 4095 ++ bytesOf 4 8 ++ bytesOf 5 8 ++ bytesOf 1 0 ++ bytesOf 2 1 ++ List.replicate 16 0

/-- Tables: the three commands; a forme and a distribution entry written where none is; an invalidation; the codes; a message forme. -/
theorem witness_Tables :
    ((tTab 0 1 6).tableBusy 0 0 = true ∧ (tTab 1 1 6).tableBusy 0 1 = true ∧ (tTab 2 1 6).tableBusy 0 2 = true ∧
      tBase.tableBusy 0 0 = false ∧ (tTab 0 1 6).tableArgs 0 = (1, 6)) ∧
    (((tTab 0 1 6).writeForme 6 (formeImg 1)).toBool = true ∧ Tbl.find 6 tBase.formes = none ∧ bitAt (leAt (formeImg 1) 0 2) 0 = true) ∧
    ((tQuota.writeDist 0 6 distImg).toBool = true ∧ Tbl.find 6 (tQuota.die 0).dist = none ∧ bitAt (leAt distImg 0 2) 0 = true) ∧
    (let s := { tBase with formes := [(6, parseForme (formeImg 1))] }
     (s.writeForme 6 (formeImg 0)).toBool = true ∧ Tbl.find 6 s.formes ≠ none ∧ bitAt (leAt (formeImg 0) 0 2) 0 = false) ∧
    (State.reset.formeForm (formeImg 1) = true ∧ State.reset.validRegion (parseForme (formeImg 1)).rid = false ∧
      State.reset.formeForm (List.replicate 64 0) = false) ∧ { parseForme (formeImg 1) with msg := true }.msg = true := by
  refine ⟨?_, ?_, ?_, ?_, ?_, ?_⟩ <;> decide +kernel

/-- A translation command, and a debug command on entry e of the context 77 of strand 0. -/
def tXli (sc : Nat) : State := tBase.modDie 0 fun d => { d with xlistat := 1, xliRun := (BitVec.ofNat 64 (2 * sc), 0x1000, 1) }
def tDbg (op : Nat) (e : Nat) (sel : Word) : State :=
  (tBase.modTh 0 fun th => { th with sys := { th.sys with ctxid := 77 } }).modDie 0 fun d =>
    { d with dbgctl := 8, dbgRun := (BitVec.ofNat 64 (2 * op), sel, BitVec.ofNat 64 e, 0, 0) }

/-- TranslationAndDebug: the three scopes; an entry of either kind written and read; one beyond the last; a context that is not there. -/
theorem witness_TranslationAndDebug :
    (∀ sc < 3, getBit ((tXli sc).die 0).xlistat 0 = true ∧ getField ((tXli sc).die 0).xliRun.1 1 2 = sc) ∧
    getBit (tBase.die 0).xlistat 0 = false ∧
    (∀ op < 2, ∀ e ∈ [7, 8, 11, 12], getBit ((tDbg op e 77).die 0).dbgctl 3 = true ∧
      getBit ((tDbg op e 77).die 0).dbgRun.1 1 = decide (op = 1) ∧ ((tDbg op e 77).die 0).dbgRun.2.2.1.toNat = e) ∧
    (∀ op < 2, ∀ e ∈ [7, 8, 11], (tDbg op e 77).dbgThread 0 = some 0) ∧ (tDbg 0 7 78).dbgThread 0 = none ∧
    ((tDbg 0 7 77).tm ((tDbg 0 7 77).th 0).team).state ≠ .saved := by
  refine ⟨?_, ?_, ?_, ?_, ?_, ?_⟩ <;> decide +kernel

/-- Module 0 of a fabric of order 2, whose neighbours are 4, 5 and 6 at ports 0, 8 and 16; port 0 is in a state. -/
def tFab (st : PortState) : State :=
  { tBase with
    fab := { tBase.fab with fabcfg := 0x20000 }
    ports := tBase.ports.set 0 { Port.reset with state := st, nbr := 4, width := 4 } }
def routeImg : List Byte := bytesOf 8 (2 ^ 63 + 2 ^ 62 + 2 ^ 38) ++ List.replicate 24 0
/-- A routing command with an OP on the entry of module 4, its image at 0x3FF4000. -/
def tRt (op : Nat) (img : List Byte) : State :=
  let s := tFab .up
  { s with mem := Mem.write s.mem 0x3FF4000 img
           fab := { s.fab with rtstat := 1, rtRun := (BitVec.ofNat 64 (op * 4 + 4 * 2 ^ 22), 0x3FF4000) } }
/-- A swap under way at a module that has seen some DRAINED. -/
def tSwap (swap : Bool) (seen : NSet) : State :=
  let s := tFab .up
  { s with fab := { s.fab with rtstat := if swap then 4 else 0, swapStarts := [0], draineds := seen } }

/-- PortsAndRouting. -/
theorem witness_PortsAndRouting :
    (tFab .down).expected 0 = some 4 ∧ (vget (tFab .down).ports 0 Port.reset).state = .down ∧
    ((vget (tFab .up).ports 0 Port.reset).state = .up ∧ (vget (tFab .up).ports 0 Port.reset).queue = [] ∧
      2 < (vget (tFab .up).ports 0 Port.reset).width) ∧
    ((tRt 0 routeImg).rtBusy 0 = true ∧ Mem.read (tRt 0 routeImg).mem (tRt 0 routeImg).fab.rtRun.2.toNat 32 = routeImg ∧
      (tRt 0 routeImg).routeOk (getField (tRt 0 routeImg).fab.rtRun.1 22 10) routeImg = true) ∧
    ((tRt 0 (routeImg.set 4 1)).rtBusy 0 = true ∧
      (tRt 0 (routeImg.set 4 1)).routeOk (getField (tRt 0 (routeImg.set 4 1)).fab.rtRun.1 22 10) (routeImg.set 4 1) = false) ∧
    ((tRt 1 routeImg).rtBusy 1 = true ∧ ∀ e ∈ (tRt 1 routeImg).fab.active, e.2.slots.length ≤ 8) ∧ (tRt 2 routeImg).rtBusy 2 = true ∧
    (NSet.mem 4 (tSwap false [0]).fab.swapStarts = false ∧ NSet.mem 0 (tSwap false [0]).fab.swapStarts = true ∧
      NSet.mem 0 (tSwap false [0]).fab.draineds = true ∧ NSet.mem 4 (tSwap false [0]).fab.draineds = false ∧
      getBit (tSwap false [0]).fab.rtstat 2 = false) ∧
    (NSet.mem 4 (tSwap true [0]).fab.draineds = false ∧ getBit (tSwap true [0]).fab.rtstat 2 = true ∧
      ∀ k ∈ (tSwap true [0]).present, NSet.mem k (NSet.add 4 (tSwap true [0]).fab.draineds) = true) ∧
    (NSet.mem 4 (tSwap true []).fab.draineds = false ∧ ∃ k ∈ (tSwap true []).present, NSet.mem k (NSet.add 4 (tSwap true []).fab.draineds) = false) := by
  refine ⟨?_, ?_, ?_, ?_, ?_, ?_, ?_, ?_, ?_, ⟨?_, 0, ?_⟩⟩ <;> decide +kernel

/-- Ports with empty queues send nothing. -/
theorem transmit_empty (l : List Nat) (s : State) (h : ∀ k < 32, (vget s.ports k Port.reset).queue = []) (hl : ∀ k ∈ l, k < 32) :
    (l.foldl State.transmit s).oldDrained = s.oldDrained := by
  induction l generalizing s with
  | nil => rfl
  | cons k l ih =>
    have hk := h k (hl k (by simp))
    have e : s.transmit k = { s with tick := s.tick + 1 } := by
      have : vset s.ports k (vget s.ports k Port.reset) = s.ports := by
        simp only [vset, vget]
        ext i hi : 1
        simp only [Vector.getElem_setIfInBounds]
        split <;> simp_all
      simp only [State.transmit, hk, List.take_nil, List.drop_nil, List.append_nil]
      have g : ({ vget s.ports k Port.reset with queue := [] } : Port) = vget s.ports k Port.reset := by rw [← hk]
      rw [g, this]
    rw [List.foldl_cons, e]
    exact ih _ h fun x hx => hl x (by simp [hx])

/-- OLD_GENERATION_DRAINED can happen: every SWAPSTART has come and every queue is empty. -/
theorem witness_oldDrained : ((List.range 32).foldl State.transmit (tSwap true [])).oldDrained = true := by
  rw [transmit_empty _ _ (by decide +kernel) fun k hk => List.mem_range.mp hk]
  decide +kernel

/-- A forme 6 of this module that serves every module, one 4-byte element at 0x1800. -/
def tServe : State :=
  { tData with formes := [(6, { parseForme (formeImg 1) with rd := true, wr := true, atom := true, esize := 2, base := 0x1800,
                                                             ext := [4, 1, 1], str := [4, 0, 0] })] }
def tAsk (elem width : Nat) (kind : RemoteKind) : RemoteReq := { src := 1, forme := 6, elem, width, kind }
def tOut (r : RemoteOut) : State := { tRem with remotes := [r] }
def serveForme : Forme := (Tbl.find 6 tServe.formes).getD (parseForme [])

/-- RemoteEvents: an element that waits, and one that has been answered; its module reached and not; a target that serves a load, a store and
an atomic, and each check; a forme that an error has struck, and one whose elements lie beyond the addresses. -/
theorem witness_RemoteEvents :
    ((tOut tReq).remotes.find? (fun x => x.tagno == 0 && x.answer.isNone) = some tReq ∧ tRem.remotes = [] ∧
      (tOut { tReq with retries := 3 }).remotes.find? (fun x => x.tagno == 0 && x.answer.isNone) = some { tReq with retries := 3 } ∧
      (tOut tReq).reaches 1 = true ∧ ({ tOut tReq with fab := { (tOut tReq).fab with active := [] } } : State).reaches 1 = false) ∧
    (let s := { tOut { tReq with answer := some (.val 7) } with nextTag := 1 }
     0 < s.nextTag ∧ ∀ x ∈ s.remotes, x.tagno = 0 → x.answer ≠ none) ∧
    (tReq.eseq = none ∧ tReq.vd = some 3 ∧ tReq.thr < (tOut tReq).threads.length ∧
      ((tOut tReq).tm ((tOut tReq).th tReq.thr).team).state ≠ .saved) ∧
    (tServe.moduleNo = 0 ∧ Tbl.find 7 tServe.formes = none ∧ Tbl.find 6 tServe.formes = some serveForme ∧
      (let u := Upset.table ((tServe.region serveForme.rid).home % 4) 1 6
       tServe.struck u = false ∧ ({ tServe with upsets := [u] } : State).struck u = true)) ∧
    (tServe.srcPermitted serveForme 1 = true ∧ tServe.srcPermitted { serveForme with srcset := 2, mod := 9 } 1 = false ∧
      { serveForme with wr := false }.permits (.store 0) = false ∧ serveForme.permits .load = true ∧ serveForme.permits (.store 5) = true ∧
      serveForme.permits (.amo .add false 5) = true) ∧
    (serveForme.count ≤ 4 ∧ 3 < serveForme.count ∧ (4 : Nat) = 2 ^ serveForme.esize ∧ (8 : Nat) ≠ 2 ^ serveForme.esize ∧
      0 ≤ serveForme.addr 0 ∧ serveForme.addr 0 < (2 ^ 64 : Int) ∧ { serveForme with str := [-0x2000, 0, 0] }.addr 1 < 0) := by
  refine ⟨?_, ?_, ?_, ?_, ?_, ?_⟩ <;> decide +kernel

/-- The access of a served element answers one physical span. -/
theorem witness_served (kind : RemoteKind) (hk : kind = .load ∨ kind = .store 5 ∨ kind = .amo .add false 5) : ∃ s1 a c,
    tServe.access (tServe.formeCtx serveForme) (remoteAKind kind) (decide (remoteAKind kind = .atomic)) (BitVec.ofInt 64 (serveForme.addr 0)) 4 =
      (s1, .ok [⟨.phys a c, 4⟩]) := by
  have : ∀ q : State × Except Trap (List Span), (match q.2 with | .ok [⟨.phys _ _, n⟩] => n == 4 | _ => false) = true →
      ∃ s1 a c, q = (s1, .ok [⟨.phys a c, 4⟩]) := by
    rintro ⟨s1, r⟩ h
    dsimp only at h
    split at h
    · rename_i a c n
      exact ⟨s1, a, c, by rw [eq_of_beq h]⟩
    · exact absurd h (by simp)
  rcases hk with rfl | rfl | rfl <;> exact this _ (by decide +kernel)

/-- A packet of module 1 to module 2, and this module between them with the table of a generation. -/
def tPkt (hop : Nat) : Packet := { src := 1, dst := 2, via := 0x3FF, gen := 0, hop, phase := false, cls := 0, port := 0, body := [] }
def tHop : State :=
  { tFab .up with fab := { (tFab .up).fab with active := [(2, { direct := false, minport := 0, minvia := 4, minw := 1, slots := [] })] } }
def tMsg : Msg := { src := 1, sep := 0, dep := 3, path := 0, tag := 5, len := 4, pseq := 1, fref := 0, payload := [1, 2, 3, 4] }
/-- An MSEND of strand 0 to module 1, and a receive that waits for a payload. -/
def sendCmd (f : Option Nat) (due ph : Nat) : Cmd := { tWalkCmd with eng := 4, body := .send tD 32 1 3 3 9 1 f 0 due ph }
def recvBlkT : RecvBlk := { src := 0, srcmask := 0, tag := 9, tagmask := 0, desc := some tE, maxb := 32, comp := 0x1C00, ep := 3 }
def recvCmd : Cmd := { tWalkCmd with eng := 4, body := .recv 0 recvBlkT (some { tMsg with path := 2, len := 4 }) true false }
def withCmd (c : Cmd) : State := { tData with cmds := [c], nextCmd := 1 }

/-- PacketsAndMessages: a packet with hops left and one without, with a route and without; each message event. -/
theorem witness_PacketsAndMessages :
    ((tPkt 0).dst ≠ tHop.moduleNo ∧ (tPkt 0).cls < 3 ∧ (tPkt 0).hop < 3 ∧ (tPkt 3).hop = 3 ∧
      (Tbl.find 2 (tHop.genTable (tPkt 0).gen)).isSome = true ∧ (vget tHop.ports 0 Port.reset).state = .up) ∧
    (((tFab .up).forward { tPkt 0 with phase := (tPkt 0).phase || (tPkt 0).via == (tFab .up).moduleNo, hop := 1 }).isSome = false ∧
      { tPkt 0 with dst := 0 }.dst = tHop.moduleNo ∧ (tPkt 0).cls < 3) ∧
    (3 ≤ { tPkt 0 with cls := 3 }.cls ∧ { tPkt 0 with cls := 3 }.port < 32) ∧
    (tMsg.src ≠ tServe.moduleNo ∧ { tMsg with src := 0 }.src = tServe.moduleNo ∧ Tbl.find tMsg.dep tBase.endpoints = none) ∧
    ((withCmd (sendCmd none 0 1)).cmd 0 = some (sendCmd none 0 1) ∧ (1 : Nat) ≠ (withCmd (sendCmd none 0 1)).moduleNo ∧
      (sendCmd none 0 1).fault = none ∧ (withCmd (sendCmd none 0 1)).retryDue (sendCmd none 0 1) = false) ∧
    ((withCmd (sendCmd (some 7) 0 2)).cmd 0 = some (sendCmd (some 7) 0 2) ∧
      (withCmd (sendCmd (some 7) 0 2)).retryDue (sendCmd (some 7) 0 2) = false) ∧
    (let s := (withCmd (sendCmd none 5 0)).modDie 0 fun d => { d with sched := 9 }
     s.cmd 0 = some (sendCmd none 5 0) ∧ s.retryDue (sendCmd none 5 0) = true) ∧
    ((withCmd recvCmd).cmd 0 = some recvCmd ∧ ({ tMsg with path := 2, len := 4 } : Msg).path ≠ 0 ∧
      [1, 2, 3, (4 : Byte)].length = min 4 recvBlkT.limit ∧ ([1, 2] : List Byte).length < min 4 recvBlkT.limit) ∧
    (((withCmd (sendCmd none 0 1)).canLend ((withCmd (sendCmd none 0 1)).ridOf 0)).isSome = true ∧
      (let s := withCmd (sendCmd none 0 3)
       let s := { s with regions := Tbl.insert 4095 { s.region 4095 with formes := 0 } s.regions }
       s.cmd 0 = some (sendCmd none 0 3) ∧ s.canLend (s.ridOf 0) = none)) := by
  refine ⟨?_, ?_, ?_, ?_, ?_, ?_, ?_, ?_, ?_⟩ <;> decide +kernel

/-- The page at 0x3FF4000 marked to region 4095. -/
def tMark : State := { tBase with mgmt := { tBase.mgmt with cpmap := NMap.set [] (0x3FF4000 / 4096) 4096 } }

/-- HostAccesses: an unmarked page and a marked one; in and out of recovery; each agent. -/
theorem witness_HostAccesses :
    (hostSpan 0x3FF4FF8 8 = true ∧ tBase.mgmt.recovery = false ∧ tBase.marked 0x3FF4FF8 = false ∧ tBase.physKind 0x3FF4FF8 = .hbm) ∧
    tMark.marked 0x3FF4FF8 = true ∧ hostSpan 0x3FF4FF9 8 = false ∧
    { tBase.mgmt with recovery := true }.recovery = true ∧ (∀ n, RegAgent.mgmt ≠ .host (.vf n)) ∧ (0x2000 ≤ 0x2068) := by
  refine ⟨by decide +kernel, by decide +kernel, by decide +kernel, rfl, ?_, by decide⟩
  intro n h; cases h

/-- A mailbox command of the physical function under way. -/
def tMb (code : Nat) : State :=
  { tBase with mgmt := { tBase.mgmt with pfMbox := { tBase.mgmt.pfMbox with mbcmd := BitVec.ofNat 64 code, mbstat := 1 } } }
def tSvc (act : Nat) (target : Word) : SvcReq := { num := 3, action := act, target, status := 0x3FF4000, state := 0, result := 0 }

/-- MailboxCommands: each command of the physical function under way, its arguments inside and outside their limits; a service request, and
one with a cluster beyond the last; a virtual function. The premises on what the opaque cryptography answers are left open. -/
theorem witness_MailboxCommands :
    (∀ code ∈ [0x01, 0x02, 0x10, 0x11, 0x12, 0x20, 0x33], (tMb code).mbBusy (fnNum .pf) code = true ∧ (tMb code).mgmt.recovery = false) ∧
    (1 ≤ (1 : Word).toNat ∧ (0x43 : Word) &&& ~~~(svcMask 1) = 0 ∧ getField (0x43 : Word) 0 7 < 68 ∧ (0x3FF4000 : Word).toNat % 16 = 0 ∧
      (tMb 1).readable (0x3FF4000 : Word).toNat 16 = true) ∧
    { (tMb 2).mgmt with svc := [tSvc 5 0] }.svc.find? (fun r => r.num == (3 : Word).toNat) = some (tSvc 5 0) ∧
    (tMb 0x11).cpArgs 4095 0x3FF4000 1 = true ∧ (tMb 0x11).cpArgs 4095 0x3FF4001 1 = false ∧
    ((tMb 0x20).readable (0x3FF4000 : Word).toNat 4096 = true ∧ (tMb 0x20).mgmt.bankActive < 2) ∧
    (tMb 0x10).readable (0x3FF4000 : Word).toNat 512 = true ∧
    ({ tBase with mgmt := { tBase.mgmt with vfMbox := [(7, { tBase.mgmt.pfMbox with mbcmd := 0x11, mbstat := 1 })] } } : State).mbBusy
      (fnNum (.vf 7)) 0x11 = true ∧ fnNum (.vf 7) ≠ 0 := by
  refine ⟨?_, ?_, ?_, ?_, ?_, ?_, ?_, ?_, ?_⟩ <;> decide +kernel

/-- A team of a region that may be confidential, with iddify attached or not, halted or not; strand 0 stopped or not. -/
def tIdd (conf dbg halted : Bool) (run : Run) : State :=
  let s := (tBase.modTm 0 fun k => { k with dbg, halted }).modTh 0 fun th => { th with run }
  { s with regions := Tbl.insert 4095 { s.region 4095 with conf, keyidx := 5 } s.regions, mgmt := { s.mgmt with owners := [(5, [1, 2, 3])] } }

/-- AttestationAndDebugger. -/
theorem witness_AttestationAndDebugger :
    tBase.mgmt.recovery = false ∧ (∀ k ∈ [1, 2, 3, 4, 5], (tBase.measurement k).isSome = true) ∧
    (0 < (tIdd false true false .running).teams.length ∧ ((tIdd false true false .running).tm 0).state ≠ .ended ∧
      ((tIdd false true false .running).region ((tIdd false true false .running).tm 0).rid).conf = false) ∧
    (((tIdd true false false .running).region ((tIdd true false false .running).tm 0).rid).conf = true ∧
      Tbl.find ((tIdd true false false .running).region ((tIdd true false false .running).tm 0).rid).keyidx
        (tIdd true false false .running).mgmt.owners = some [1, 2, 3] ∧ ((tIdd true false false .running).mgmt.nonceUsed = true ∨
        (tIdd true false false .running).mgmt.nonceUsed = false)) ∧
    (((tIdd false true false .running).tm 0).dbg = true ∧ ((tIdd false true false .running).tm 0).halted = false ∧
      ((tIdd false true false .running).tm 0).state ≠ .saved) ∧
    ((tIdd false true true .running).tm 0).halted = true ∧
    (∀ t < 2, ((tIdd false true false .running).th t).team < 1 ∧ ((tIdd false true false .running).th t).kind ≠ .supervisor ∧
      ((tIdd false true false .running).th t).stepReq = false ∧ ((tIdd false true false .running).th t).active = true ∧
      ((tIdd false true false .running).th t).run = .running) ∧
    (((tIdd false true false .stopped).th 0).kind = .strand ∧ ((tIdd false true false .stopped).th 0).run = .stopped ∧
      ((tIdd false true false .stopped).th 0).active = true) := by
  refine ⟨?_, ?_, ?_, ?_, ?_, ?_, ?_, ?_⟩ <;> decide +kernel

/-- Every die at step cur within 2 and 12. -/
def tPow (cur : Nat) : State :=
  { tBase with dies := tBase.dies.map fun d => { d with diepwr := BitVec.ofNat 64 (2 + 12 * 2 ^ 8 + cur * 2 ^ 16) }
               mgmt := { tBase.mgmt with pwrcap := 100, thermal := Vector.replicate 4 0 } }
def dirtied (w : Nat) : State := tBase.modDie 0 fun d => { d with dir := Tbl.insert w (.dirty 0) d.dir }

/-- PowerAndScrub: below and at the greatest step; a thermal stop; a power-off; a clean and a DIRTY sector of die 0. -/
theorem witness_PowerAndScrub :
    ((∀ d < 4, (tPow 11).minStep d ≤ (tPow 11).maxStep d ∧ (tPow 11).maxStep d ≤ 16) ∧ (∀ d < 4, vget (tPow 11).mgmt.thermal d 0 = 0) ∧
      (tPow 11).mgmt.thermalStop = false ∧ getBit (tPow 11).mgmt.pwrcap 31 = false ∧ getField (tPow 11).mgmt.pwrcap 0 13 < 101 ∧
      (∀ d < 4, (tPow 11).curStep d < (tPow 11).maxStep d) ∧ (∀ d < 4, (tPow 11).minStep d ≤ (tPow 11).curStep d) ∧
      ∀ d < 4, d ≠ 3 → [5, 6, 7, 8].getD d 0 < [5, 6, 7, 8].getD 3 0) ∧
    { tBase.mgmt with thermalStop := true }.thermalStop = true ∧ tBase.mgmt.restarting = false ∧ tBase.mgmt.powered = true ∧
    (match exec (.thermalPowerOff 1) tBase with | .next _ => true | _ => false) = true ∧ Tbl.find (cluKey 0 0) tBase.clusters ≠ none ∧
    (∃ sl, tBase.homeOf 0x3FF4000 = some (0, sl) ∧ tBase.physKind 0x3FF4000 ≠ .absent ∧ tBase.dirtyIn 0 (0x3FF4000 / 64) = false ∧
      (dirtied (0x3FF4000 / 64)).dirtyIn 0 (0x3FF4000 / 64) = true) := by
  refine ⟨by decide +kernel, by decide +kernel, by decide +kernel, by decide +kernel, by decide +kernel, by decide +kernel,
    ⟨((tBase.homeOf 0x3FF4000).getD (0, 0)).2, by decide +kernel⟩⟩

/-- Service request 3 is the next of its queue; clusters 0 (in use), 1 (not) and 64 (spare) of die 0. -/
def tAct (act : Nat) (target : Word) : State :=
  { State.reset with clusters := (List.range 68).map fun c => (c, { Cluster.reset c with enabled := c != 1 && decide (c < 64) }), threads := []
                     mgmt := { State.reset.mgmt with svc := [tSvc act target] } }

/-- ServiceActions: each action on an empty unit in use, and on one not in use; a cluster that holds a team. -/
theorem witness_ServiceActions :
    (∀ act ∈ [1, 2, 3, 4, 5, 6], (tAct act 0).svcTurn 3 act = some (tSvc act 0)) ∧
    (((tAct 1 0).clu (svcCluster 0)).enabled = true ∧ (tAct 1 0).teamsOn (svcCluster 0) = [] ∧
      ((tAct 1 0).clu (svcCluster 0)).spareUsed.getLsbD (getField 0 12 2) = false) ∧
    ((tAct 2 1).clu (svcCluster 1)).enabled = false ∧
    ((List.range 68).find? (fun c => ((tAct 2 0).clu (cluKey (svcCluster 0 / 128) c)).spare && !((tAct 2 0).clu (cluKey (svcCluster 0 / 128) c)).retired) =
        some 64 ∧ cluKey (svcCluster 0 / 128) 64 ≠ svcCluster 0 ∧ Tbl.find (cluKey (svcCluster 0 / 128) 64) (tAct 2 0).clusters ≠ none) ∧
    (let s := { tBase with mgmt := { tBase.mgmt with svc := [tSvc 2 0] } }
     s.svcTurn 3 2 = some (tSvc 2 0) ∧ (s.clu (svcCluster 0)).enabled = true ∧ 0 ∈ s.teamsOn (svcCluster 0) ∧ (s.tm 0).state = .running ∧
      0 < s.teams.length) ∧
    (NSet.mem (getField 0 20 6) ((tAct 3 0).die (getField 0 8 2)).remap = false ∧
      NSet.mem (getField 0 20 6 ^^^ 32) ((tAct 3 0).die (getField 0 8 2)).remap = false ∧ 2 * ((tAct 3 0).die (getField 0 8 2)).ns ≤ 24) ∧
    (tAct 4 0).regions = [] ∧ (vget (tAct 6 0).mgmt.banks (tAct 6 0).inactiveBank ⟨[], false⟩).valid = true ∧
    (∀ x ∈ (tAct 6 0).mgmt.svc, x.num ≠ 4) := by
  refine ⟨?_, ?_, ?_, ?_, ?_, ?_, ?_, ?_, ?_⟩ <;> decide +kernel

def tGo (a : Agent) (image : List Byte) : State :=
  { State.loadTeam { State.reset with clusters := [(0, Cluster.reset 0)], threads := [] } image with sched := [.agent a] }
def addWord : List Byte := bytesOf 4 (encode (.addi 4 0 7)).head!
def tMarkQ : State := (tGo (.thread 0) [])
/-- The walker of cluster 0 at a word of the loaded page. -/
def tGoW (img : List Byte) : State :=
  let s := tGo (.walker 0) img
  (s.modWalker 0 fun _ => { Walker.reset with state := .running, pc := 0x1000, blk := some tWalkBlk, cmd := some 0 }).modMb 0 id
    |> fun s => { s with cmds := [tWalkCmd], nextCmd := 1 }

/-- StepRunsDecoded: strand 0 at an ADDI and at words of zeros; the control thread and the walker at words of zeros; an event. -/
theorem witness_StepRunsDecoded :
    ((tGo (.thread 0) addWord).nextMove.2 = .agent (.thread 0) ∧ (tGo (.thread 0) addWord).nextMove.1.unanswered 0 = false ∧
      ((tGo (.thread 0) addWord).nextMove.1.th 0).queue = [] ∧
      (match ((tGo (.thread 0) addWord).nextMove.1.fetchUnit 0 ((tGo (.thread 0) addWord).nextMove.1.th 0).pc).2 with
        | .ok (.addi 4 0 7, ws) => !isVector (.addi 4 0 7) && !unitC ws | _ => false) = true ∧
      (((tGo (.thread 0) addWord).nextMove.1.filled 0).th 0).head.units.map (·.instr) = [.addi 4 0 7]) ∧
    ((tGo (.thread 0) []).nextMove.1.fetchUnit 0 ((tGo (.thread 0) []).nextMove.1.th 0).pc).2.toBool = false ∧
    ((tGo (.thread 1) []).nextMove.2 = .agent (.thread 1) ∧ ((tGo (.thread 1) []).nextMove.1.th 1).kind = .control ∧
      ((tGo (.thread 1) []).nextMove.1.fetchCtl 1).2.toOption = some 0 ∧
      (match decodeControl 0 with | .ok _ => true | .error _ => true) = true) ∧
    ((tGoW []).nextMove.2 = .agent (.walker 0) ∧
      (match ((tGoW []).nextMove.1.fetchWalker 0).2 with | .ok w => w == 0 && !(decodeWalker w).toBool | _ => false) = true ∧
      (match ((tGoW (bytesOf 4 (encode .whalt).head!)).nextMove.1.fetchWalker 0).2 with
        | .ok w => (decodeWalker w).toOption == some .whalt | _ => false) = true) ∧
    ({ tBase with sched := [.event], inbox := [.ext .thermalStop] } : State).nextMove.2 = .event (.ext .thermalStop) := by
  refine ⟨?_, ?_, ?_, ?_, ?_⟩ <;> decide +kernel

/-- EncodingStrand and EncodingControlWalker: a well-formed instruction of each length and of each decoder. -/
theorem witness_Encodings :
    (WellFormed (.add 1 2 3) = true ∧ isWalkerWord (.add 1 2 3) = false ∧ (encode (.add 1 2 3)).length = 1 ∧
      fld (encode (.add 1 2 3)).head! 4 7 < 0x30) ∧
    (WellFormed (.vadd pl .i 3 1 2) = true ∧ opOf (.vadd pl .i 3 1 2) = none ∧ (encode (.vadd pl .i 3 1 2)).length = 1 ∧
      0x30 ≤ fld (encode (.vadd pl .i 3 1 2)).head! 4 7) ∧
    (WellFormed (.vadd px .i 3 1 2) = true ∧ (encode (.vadd px .i 3 1 2)).length = 2) ∧
    (WellFormed (.lit 9 0x0123456789ABCDEF) = true ∧ isWalkerWord (.lit 9 0x0123456789ABCDEF) = false ∧
      3 ≤ (encode (.lit 9 0x0123456789ABCDEF)).length) ∧
    ((opOf (.ccAdd ⟨7, 33, 49, 48, 1, 0, 1, 5⟩)).isSome = true ∧ WellFormed (.ccAdd ⟨7, 33, 49, 48, 1, 0, 1, 5⟩) = true) ∧
    isWalkerWord .whalt = true := by
  refine ⟨?_, ?_, ?_, ?_, ?_, ?_⟩ <;> decide +kernel

end Sys2Proof.Tests
end

section
/-! The class masks of 11 R288: the fields of a pattern that fits its format, the datum they decode to, and the class of each
datum. -/

namespace Sys2Proof.Machine

/-! ### The fields of a pattern -/

/-- The top bit of a word of n + 1 bits is set when the word reaches that bit's weight. -/
theorem bitAt_eq_decide_two_pow_le {b n : Nat} (h : b < 2 ^ (n + 1)) : bitAt b n = decide (2 ^ n ≤ b) := by
  have hquot : b / 2 ^ n < 2 := Nat.div_lt_of_lt_mul (by rwa [← Nat.pow_succ])
  have hset : b / 2 ^ n = 1 ↔ 2 ^ n ≤ b := by
    rw [← Nat.one_le_div_iff (Nat.two_pow_pos n)]
    omega
  simp only [bitAt, Nat.mod_eq_of_lt hquot, ← hset, beq_eq_decide]

/-- A field is what stands from its low bit on once the bits above it are taken off. -/
theorem fld_eq_mod_div (b lo n : Nat) : fld b lo n = b % 2 ^ (n + lo) / 2 ^ lo := by
  rw [fld, Nat.add_comm, Nat.pow_add, Nat.mod_mul_right_div_self]

/-! ### The datum of a pattern -/

/-- The fields of 09 R231, read off a pattern that fits its format by arithmetic, decide its datum. -/
theorem fdecode_of_lt_width (F : Fmt) {x : Nat} (hx : x < 2 ^ F.width) :
    fdecode F x =
      if x % F.sign / 2 ^ F.fb = 2 ^ F.eb - 1 then
        if x % 2 ^ F.fb = 0 then .inf (decide (F.sign ≤ x)) else .nan (x % 2 ^ F.fb < 2 ^ (F.fb - 1))
      else if x % F.sign / 2 ^ F.fb = 0 then
        if x % 2 ^ F.fb = 0 then .zero (decide (F.sign ≤ x)) else .fin (decide (F.sign ≤ x)) (x % 2 ^ F.fb) F.qmin
      else .fin (decide (F.sign ≤ x)) (x % 2 ^ F.fb + 2 ^ F.fb) (F.qmin + (x % F.sign / 2 ^ F.fb - 1 : Nat)) := by
  have hsign : bitAt x (F.eb + F.fb) = decide (F.sign ≤ x) := bitAt_eq_decide_two_pow_le hx
  have hexp : fld x F.fb F.eb = x % F.sign / 2 ^ F.fb := fld_eq_mod_div x F.fb F.eb
  simp only [fdecode, Nat.mod_eq_of_lt hx, hsign, hexp]

/-! ### The class of a datum (11 R288) -/

section
variable {F : Fmt} {x m : Nat} {neg sig : Bool} {q : Int}

theorem fclassOf_inf (h : fdecode F x = .inf neg) : fclassOf F x = if neg then 2 ^ 0 else 2 ^ 7 := by
  cases neg <;> simp only [fclassOf, h] <;> rfl

theorem fclassOf_nan (h : fdecode F x = .nan sig) : fclassOf F x = if sig then 2 ^ 8 else 2 ^ 9 := by
  cases sig <;> simp only [fclassOf, h] <;> rfl

theorem fclassOf_zero (h : fdecode F x = .zero neg) : fclassOf F x = if neg then 2 ^ 3 else 2 ^ 4 := by
  cases neg <;> simp only [fclassOf, h] <;> rfl

/-- A significand below the weight of the hidden bit is a subnormal's. -/
theorem fclassOf_subnormal (h : fdecode F x = .fin neg m q) (hm : m < 2 ^ F.fb) :
    fclassOf F x = if neg then 2 ^ 2 else 2 ^ 5 := by
  cases neg <;> simp only [fclassOf, h, if_pos hm] <;> rfl

/-- A significand with its hidden bit is a normal number's. -/
theorem fclassOf_normal (h : fdecode F x = .fin neg (m + 2 ^ F.fb) q) :
    fclassOf F x = if neg then 2 ^ 1 else 2 ^ 6 := by
  have hm : ¬ m + 2 ^ F.fb < 2 ^ F.fb := by omega
  cases neg <;> simp only [fclassOf, h, if_neg hm] <;> rfl

end

/-! ### The class of a pattern -/

/-- The mask by the pattern's own fields: the greatest exponent is an infinity or a NaN, the least a zero or a subnormal, any
other a normal number. -/
theorem fclassOf_of_lt_width (F : Fmt) {x : Nat} (hx : x < 2 ^ F.width) :
    let neg := decide (F.sign ≤ x)
    let e := x % F.sign / 2 ^ F.fb
    let m := x % 2 ^ F.fb
    fclassOf F x =
      if e = 2 ^ F.eb - 1 then
        if m = 0 then if neg then 2 ^ 0 else 2 ^ 7 else if m < 2 ^ (F.fb - 1) then 2 ^ 8 else 2 ^ 9
      else if e = 0 then if m = 0 then if neg then 2 ^ 3 else 2 ^ 4 else if neg then 2 ^ 2 else 2 ^ 5
      else if neg then 2 ^ 1 else 2 ^ 6 := by
  intro neg e m
  have hdatum := fdecode_of_lt_width F hx
  by_cases hmax : e = 2 ^ F.eb - 1
  · rw [if_pos hmax] at hdatum ⊢
    by_cases hfrac : m = 0
    · rw [if_pos hfrac] at hdatum ⊢
      exact fclassOf_inf hdatum
    · rw [if_neg hfrac] at hdatum ⊢
      simpa only [decide_eq_true_eq] using fclassOf_nan hdatum
  rw [if_neg hmax] at hdatum ⊢
  by_cases hmin : e = 0
  · rw [if_pos hmin] at hdatum ⊢
    by_cases hfrac : m = 0
    · rw [if_pos hfrac] at hdatum ⊢
      exact fclassOf_zero hdatum
    · rw [if_neg hfrac] at hdatum ⊢
      exact fclassOf_subnormal hdatum (Nat.mod_lt _ (Nat.two_pow_pos _))
  · rw [if_neg hmin] at hdatum ⊢
    exact fclassOf_normal hdatum

/-- VFCLASS maps the mask of FCLASS over the lane's elements and raises no flag. -/
theorem laneVfclass_eq_mapLane (k : VCtl) (f : FTy) (vd va : VReg) (e : LEnv) (v : NMap) :
    laneVfclass e v k f vd va = mapLane e k.mask v vd.toNat (fmtOf f).width fun i =>
      ⟨fclassOf (fmtOf f) (vget1 v e.cap.lanes (fmtOf f).width va.toNat i), 0⟩ := rfl

/-- Settles O8: by the class of the datum that each kind of exponent decodes to, in every format. -/
theorem classMask : Obligations.ClassMask := fun f _ hx =>
  ⟨fclassOf_of_lt_width (fmtOf f) hx, fun k vd va e v => laneVfclass_eq_mapLane k f vd va e v⟩

end Sys2Proof.Machine
end

section
/-! ACCZERO (15 R391): the sources of its word, the tile of zeros and unmarked rows that it leaves, and what the end of a platen
operation leaves alone. -/

namespace Sys2Proof.Machine

/-! ### The word -/

/-- The OP that an instruction was decoded from is the one it has. -/
theorem opOf_of_ccOf {op : Nat} {c : CW} {i : Instr} (h : ccOf op c = some i) : opOf i = some (op, c) := by
  unfold ccOf at h
  split at h <;> cases h <;> rfl

/-- A control word that decodes has passed check 3 of 10 R265 for its OP. -/
theorem ccSourcesOk_of_decodeControl {n : Nat} {i : Instr} (h : decodeControl n = .ok i) :
    ∃ op c, opOf i = some (op, c) ∧ ccSourcesOk op c = true := by
  unfold decodeControl at h
  split at h
  · cases h
  · dsimp only at h
    split at h
    · cases h
    · next j hop =>
      split at h
      · next hok =>
        cases h
        simp only [Bool.and_eq_true] at hok
        exact ⟨_, _, opOf_of_ccOf hop, hok.1.1⟩
      · cases h

/-- ACCZERO reads none of A, B and C. -/
theorem sources_of_ccSourcesOk_acczero {c : CW} (h : ccSourcesOk 0x87 c = true) : c.a = 48 ∧ c.b = 48 ∧ c.c = 48 := by
  have hfields : (c.d.toNat == 63 && c.a.toNat == 48 && c.b.toNat == 48 && c.c.toNat == 48) = true := h
  simp only [Bool.and_eq_true, beq_iff_eq] at hfields
  obtain ⟨⟨⟨-, ha⟩, hb⟩, hc⟩ := hfields
  exact ⟨BitVec.eq_of_toNat_eq ha, BitVec.eq_of_toNat_eq hb, BitVec.eq_of_toNat_eq hc⟩

/-! ### Poison marks of the rows -/

theorem NSet.mem_del (k j : Nat) : ∀ p : NSet, NSet.mem k (NSet.del j p) = true ↔ k ≠ j ∧ NSet.mem k p = true
  | [] => by simp [NSet.del, NSet.mem]
  | i :: p => by
    have ih := NSet.mem_del k j p
    simp only [NSet.del, NSet.mem]
    by_cases hj : j = i
    · rw [if_pos hj, ih]
      split <;> simp_all
    · rw [if_neg hj, NSet.mem]
      split
      · next hk => simp [hk, Ne.symm hj]
      · exact ih

theorem NSet.mem_foldl_del (f : Nat → Nat) (k : Nat) : ∀ (l : List Nat) (p : NSet),
    NSet.mem k (l.foldl (fun p j => NSet.del (f j) p) p) = true ↔ (∀ j ∈ l, k ≠ f j) ∧ NSet.mem k p = true
  | [], p => by simp
  | j :: l, p => by
    rw [List.foldl_cons, NSet.mem_foldl_del, NSet.mem_del, List.forall_mem_cons]
    tauto

/-- Clearing row i unmarks that row alone. -/
theorem Member.rowPoisoned_markRow_false (m : Member) (t i r : Nat) :
    (m.markRow t i false).rowPoisoned t r = true ↔ r ≠ i ∧ m.rowPoisoned t r = true := by
  have hsectors : (∀ j ∈ List.range 8, t * 1024 + r * 8 ≠ t * 1024 + i * 8 + j) ↔ r ≠ i := by
    constructor
    · rintro h rfl
      exact h 0 (List.mem_range.mpr (by omega)) (Nat.add_zero _).symm
    · intro h j hj
      have := List.mem_range.mp hj
      omega
  rw [← hsectors]
  exact NSet.mem_foldl_del (fun j => t * 1024 + i * 8 + j) _ _ _

theorem Member.rowPoisoned_foldl_markRow_false (t r : Nat) : ∀ (l : List Nat) (m : Member),
    (l.foldl (fun mb i => mb.markRow t i false) m).rowPoisoned t r = true ↔ r ∉ l ∧ m.rowPoisoned t r = true
  | [], m => by simp
  | i :: l, m => by
    rw [List.foldl_cons, Member.rowPoisoned_foldl_markRow_false, Member.rowPoisoned_markRow_false, List.mem_cons]
    tauto

/-- Marking rows leaves all of a member but the marks. -/
theorem Member.foldl_markRow_eq (t : Nat) (b : Bool) : ∀ (l : List Nat) (m : Member),
    ∃ q, l.foldl (fun mb i => mb.markRow t i b) m = { m with accPoison := q }
  | [], m => ⟨m.accPoison, rfl⟩
  | i :: l, m => Member.foldl_markRow_eq t b l (m.markRow t i b)

/-! ### The tile of zeros -/

theorem Tbl.find_append {α : Type} (k : Nat) (b : Tbl α) : ∀ a : Tbl α, Tbl.find k (a ++ b) = (Tbl.find k a).or (Tbl.find k b)
  | [] => rfl
  | (j, v) :: a => by
    simp only [List.cons_append, Tbl.find]
    split
    · rfl
    · exact Tbl.find_append k b a

/-- A tile replaced by no elements: its keys are gone, and the others stay. -/
theorem Member.find_putTile_nil (m : Member) (t k : Nat) :
    Tbl.find k (m.putTile t []).acc = if t * 16384 ≤ k ∧ k < (t + 1) * 16384 then none else Tbl.find k m.acc := by
  have hacc : (m.putTile t []).acc = Tbl.keep (fun j _ => decide (j < t * 16384)) m.acc ++
      Tbl.keep (fun j _ => decide ((t + 1) * 16384 ≤ j)) m.acc := by simp [Member.putTile]
  rw [hacc, Tbl.find_append, Tbl.find_keep (fun j => decide (j < t * 16384)),
    Tbl.find_keep (fun j => decide ((t + 1) * 16384 ≤ j))]
  simp only [decide_eq_true_eq]
  by_cases hlo : k < t * 16384
  · rw [if_pos hlo, if_neg (by omega), if_neg (by omega), Option.or_none]
  · by_cases hhi : (t + 1) * 16384 ≤ k
    · rw [if_neg hlo, if_pos hhi, if_neg (by omega), Option.none_or]
    · rw [if_neg hlo, if_neg hhi, if_pos (by omega), Option.none_or]

/-- ACCZERO changes of a member the tile's elements and the marks. -/
theorem Member.acczero_eq (m : Member) (t : Nat) : ∃ q, m.acczero t = { m.putTile t [] with accPoison := q } :=
  Member.foldl_markRow_eq t false _ _

@[simp] theorem Member.acczero_acc (m : Member) (t : Nat) : (m.acczero t).acc = (m.putTile t []).acc := by
  obtain ⟨q, hq⟩ := m.acczero_eq t
  rw [hq]

@[simp] theorem Member.acczero_tile (m : Member) (t : Nat) : (m.acczero t).tile = m.tile := by
  obtain ⟨q, hq⟩ := m.acczero_eq t
  rw [hq]; rfl

theorem Member.get_acczero_self (m : Member) (t : Nat) {k : Nat} (hk : k < 16384) :
    NMap.get (m.acczero t).acc (t * 16384 + k) = 0 := by
  rw [NMap.get, Member.acczero_acc, Member.find_putTile_nil, if_pos (by omega)]
  rfl

theorem Member.get_acczero_ne (m : Member) {t n k : Nat} (hn : n ≠ t) (hk : k < 16384) :
    NMap.get (m.acczero t).acc (n * 16384 + k) = NMap.get m.acc (n * 16384 + k) := by
  rw [NMap.get, Member.acczero_acc, Member.find_putTile_nil, if_neg (by omega)]
  rfl

theorem Member.rowPoisoned_acczero (m : Member) (t : Nat) {r : Nat} (hr : r < 128) : (m.acczero t).rowPoisoned t r = false := by
  rw [← Bool.not_eq_true, Member.acczero, Member.rowPoisoned_foldl_markRow_false]
  exact fun h => h.1 (List.mem_range.mpr hr)

/-! ### Events posted -/

/-- State b is state a with other events waiting. -/
def State.Posted (a b : State) : Prop := ∃ l, b = { a with inbox := l }

theorem State.Posted.refl (a : State) : State.Posted a a := ⟨a.inbox, rfl⟩

theorem State.Posted.trans {a b c : State} (h : State.Posted a b) (k : State.Posted b c) : State.Posted a c := by
  obtain ⟨l, rfl⟩ := h
  obtain ⟨l', rfl⟩ := k
  exact ⟨l', rfl⟩

theorem State.Posted.foldl {γ : Type} {f : State → γ → State} (h : ∀ a r, State.Posted a (f a r)) :
    ∀ (l : List γ) (a : State), State.Posted a (l.foldl f a)
  | [], a => State.Posted.refl a
  | r :: l, a => (h a r).trans (State.Posted.foldl h l (f a r))

theorem State.Posted.ite {a b : State} {p : Prop} [Decidable p] (h : State.Posted a b) : State.Posted a (if p then b else a) := by
  split
  · exact h
  · exact State.Posted.refl a

theorem State.Posted.mem {a b : State} (h : State.Posted a b) : b.mem = a.mem := by
  obtain ⟨l, rfl⟩ := h; rfl

theorem State.Posted.mb {a b : State} (h : State.Posted a b) (n : Nat) : b.mb n = a.mb n := by
  obtain ⟨l, rfl⟩ := h; rfl

theorem State.Posted.th {a b : State} (h : State.Posted a b) (t : Nat) : b.th t = a.th t := by
  obtain ⟨l, rfl⟩ := h; rfl

theorem State.postOnce_posted (s : State) (k : EvKind) (a b : Nat) : State.Posted s (s.postOnce k a b) := by
  rcases State.postOnce_eq s k a b with h | h <;> rw [h]
  · exact State.Posted.refl s
  · exact ⟨_, rfl⟩

theorem State.kickPlaten_posted (s : State) (t : Nat) : State.Posted s (s.kickPlaten t) := by
  unfold State.kickPlaten
  split
  · exact State.Posted.refl s
  · split <;> exact s.postOnce_posted _ _ _

theorem State.kickChains_posted (s : State) (t : Nat) : State.Posted s (s.kickChains t) :=
  State.Posted.foldl (fun a _ => (a.postOnce_posted _ _ _).ite) _ s

theorem State.kick_posted (s : State) (t : Nat) : State.Posted s (s.kick t) :=
  ((s.kickPlaten_posted t).trans (State.kickChains_posted _ t)).trans
    (State.Posted.foldl (fun a _ => (a.postOnce_posted _ _ _).ite) _ _)

theorem State.postMemberEnd_posted (s : State) (m : Nat) : State.Posted s (s.postMemberEnd m) :=
  (s.postOnce_posted _ _ _).ite

/-! ### The end of a platen operation (15 R382, R383) -/

theorem Thread.x_of_still {a b : Thread} (h : b.still = a.still) : b.x = a.x := by
  have e := congrArg Thread.x h; exact e

theorem Thread.platen_of_still {a b : Thread} (h : b.still = a.still) : b.platen = a.platen := by
  have e := congrArg Thread.platen h; exact e

/-- A change of the head leaves the rest of the queue. -/
@[simp] theorem Thread.modHead_platen_drop (th : Thread) (f : PlatenOp → PlatenOp) :
    (th.modHead f).platen.drop 1 = th.platen.drop 1 := by
  unfold Thread.modHead
  cases th.platen <;> rfl

/-- What a change of one thread leaves alone of every thread, it leaves alone in the state. -/
theorem State.proj_modTh {α : Type} (π : Thread → α) (s : State) (t u : Nat) {f : Thread → Thread}
    (hf : ∀ th, π (f th) = π th) : π ((s.modTh t f).th u) = π (s.th u) := by
  simp only [State.modTh, State.th, List.getD_eq_getElem?_getD, List.getElem?_modify]
  cases s.threads[u]? with
  | none => rfl
  | some th => by_cases h : t = u <;> simp [h, hf]

theorem State.modTh_modTh (s : State) (t : Nat) (f g : Thread → Thread) : (s.modTh t f).modTh t g = s.modTh t (g ∘ f) := by
  simp only [State.modTh, List.modify_modify_eq]

/-- On its cores a thread's completed command changes its counters alone: DONE goes to no save area (08 R210). -/
theorem State.completeEng_of_ne_saved {s : State} {t : Nat} (hs : (s.tm (s.th t).team).state ≠ .saved) (e : Nat) (n : BitVec 32) :
    s.completeEng t e n = s.modTh t fun th => th.completeEng e n := by
  unfold State.completeEng State.writeDone
  have hteam : ((s.modTh t fun th => th.completeEng e n).th t).team = (s.th t).team :=
    State.proj_modTh (·.team) s t t (fun _ => by rfl)
  refine if_neg fun h => hs ?_
  rw [hteam] at h
  exact h.2

/-- Member m with the lives q of its tiles. -/
def Member.withLives (m : Member) (q : Vector TileLife 16) : Member := { m with lives := q }

@[simp] theorem Member.withLives_acc (m : Member) (q : Vector TileLife 16) : (m.withLives q).acc = m.acc := rfl

@[simp] theorem Member.withLives_tile (m : Member) (q : Vector TileLife 16) : (m.withLives q).tile = m.tile := rfl

@[simp] theorem Member.withLives_rowPoisoned (m : Member) (q : Vector TileLife 16) (t i : Nat) :
    (m.withLives q).rowPoisoned t i = m.rowPoisoned t i := rfl

/-- The stamps of lives leave all of a member but its lives. -/
theorem Member.foldl_lives_eq (g : Member → Nat → TileLife) : ∀ (l : List Nat) (m : Member),
    ∃ q, l.foldl (fun mb k => { mb with lives := vset mb.lives k (g mb k) }) m = m.withLives q
  | [], m => ⟨m.lives, rfl⟩
  | k :: l, m => Member.foldl_lives_eq g l { m with lives := vset m.lives k (g m k) }

/-- What changes no more of a member than its lives changes no more of any member of the state. -/
theorem State.mb_modMb_lives (s : State) (m : Nat) {f : Member → Member} (hf : ∀ mb, ∃ q, f mb = mb.withLives q) (n : Nat) :
    ∃ q, (s.modMb m f).mb n = (s.mb n).withLives q := by
  by_cases h : n = m
  · subst h
    simp only [State.modMb, State.mb, List.getD_eq_getElem?_getD, List.getElem?_modify, if_true]
    cases s.members[n]? with
    | none => exact ⟨Member.absent.lives, rfl⟩
    | some mb => exact hf mb
  · exact ⟨(s.mb n).lives, State.mb_modMb_ne s m n f h⟩

/-- State b is state a after the head of thread t's platen queue has left it: memory, thread t's registers, and every member but
the lives of its tiles are as they were. -/
structure State.PlatenLeft (t : Nat) (a b : State) : Prop where
  mem : b.mem = a.mem
  stores : ∀ n, ∃ q, b.mb n = (a.mb n).withLives q
  x : (b.th t).x = (a.th t).x
  platen : (b.th t).platen = (a.th t).platen.drop 1

/-- The end of an operation that retires no tile, in a team on its cores. -/
theorem State.platenDone_left {s : State} {t : Nat} {p : PlatenOp} (z : Nat) (hr : p.retires = false)
    (hl : t < s.threads.length) (hs : (s.tm (s.th t).team).state ≠ .saved) : State.PlatenLeft t s (s.platenDone t p z) := by
  unfold State.platenDone
  extract_lets m now h work wait s1 s2 l s3 s4 s5 s6 s7
  have hkeep : s3 = s2 := if_neg (by rw [hr]; decide)
  have heng : s4 = (s2.freeLocks t p.locks).modTh t fun th => th.completeEng p.eng p.eseq := by
    have hteam : ((s2.freeLocks t p.locks).th t).team = (s.th t).team := State.proj_modTh (·.team) s2 t t (fun _ => by rfl)
    rw [← State.completeEng_of_ne_saved (by rw [hteam]; exact hs), ← hkeep]
  obtain ⟨f, hf, hkept⟩ : ∃ f, s5 = s2.modTh t f ∧ ∀ th, (f th).x = th.x ∧ (f th).platen = th.platen.drop 1 :=
    ⟨_, by simp only [s5, heng, State.freeLocks, State.modTh_modTh]; rfl, fun _ => ⟨by rfl, by rfl⟩⟩
  have hth : s5.th t = f (s.th t) := by rw [hf]; exact State.th_modTh s2 t f hl
  have hstores : ∀ n, ∃ q, s5.mb n = (s.mb n).withLives q := by
    rw [hf]
    exact State.mb_modMb_lives s1 m (Member.foldl_lives_eq _ (opTiles p.op p.cw))
  have hcount : State.Same s5 s6 := by
    simp only [s6]
    split
    · exact State.Same.refl s5
    · exact (s5.count_same t _ _).trans (State.count_same _ t _ _)
  have hpost : State.Posted s6 ((s7.kick t).postMemberEnd m) :=
    ((State.Posted.foldl (fun a u => a.kickPlaten_posted u) _ s6).trans (s7.kick_posted t)).trans
      (State.postMemberEnd_posted _ m)
  have hmb : ∀ n, s6.mb n = s5.mb n := fun n => by rw [State.mb, State.mb, hcount.members]
  exact
    { mem := by rw [hpost.mem, hcount.mem, hf]; rfl
      stores := fun n => by rw [hpost.mb, hmb]; exact hstores n
      x := by rw [hpost.th, Thread.x_of_still (hcount.th t), hth, (hkept _).1]
      platen := by rw [hpost.th, Thread.platen_of_still (hcount.th t), hth, (hkept _).2] }

/-! ### ACCZERO completes -/

theorem tileNo_eq_mod (w : CW) : tileNo w = w.imm.toNat % 16 := by
  simp [tileNo, fld]

theorem exec_platenOpComplete {s b : State} {t : Nat} (hp : s.mgmt.powered = true) (hb : s.platenComplete t = some b) :
    exec (.platenOpComplete t) s = .next b := by
  show eventExec s (s.platenComplete t) = .next b
  rw [hb, eventExec, if_neg (not_not.mpr hp)]

/-- The tile of zeros in the store, the operation still at the head of its queue. -/
def State.acczeroed (s : State) (t : Nat) (p : PlatenOp) : State :=
  ((s.platenOn t).modMb (s.th t).member fun _ => (s.mb (s.th t).member).acczero (tileNo p.cw)).setRunning t 0 0

theorem State.platenComplete_acczero {s : State} {t : Nat} {p : PlatenOp} (h : s.PlatenRuns t p) (hop : p.op = 0x87) :
    s.platenComplete t = some ((s.acczeroed t p).platenDone t p 0) := by
  obtain ⟨l, hhead⟩ := h.head
  have hgo : ¬ (¬ p.started ∨ p.fault.isSome ∨ s.memberStopped (s.th t).member ∨ (s.tm (s.th t).team).state = .saved) := by
    simp [h.started, h.fault, h.runs, h.there]
  unfold State.platenComplete
  rw [hhead]
  dsimp only
  rw [if_neg hgo, hop]
  rfl

/-- ACCZERO's tile leaves alone of the thread what no change of its queue's head reaches. -/
theorem State.proj_acczeroed {α : Type} (π : Thread → α) (hπ : ∀ th f, π (Thread.modHead th f) = π th) (s : State) (t : Nat)
    (p : PlatenOp) : π ((s.acczeroed t p).th t) = π (s.th t) :=
  (State.proj_modTh π _ t t fun th => by exact hπ th _).trans (State.proj_modTh π s t t fun th => by exact hπ th _)

theorem State.acczeroed_mb {s : State} {t : Nat} (p : PlatenOp) (hm : (s.th t).member < s.members.length) :
    (s.acczeroed t p).mb (s.th t).member = (s.mb (s.th t).member).acczero (tileNo p.cw) :=
  State.mb_modMb (s.platenOn t) _ _ hm

/-- What ACCZERO's completion leaves (15 R391). -/
theorem State.acczero_left {s : State} {t : Nat} {p : PlatenOp} (h : s.PlatenRuns t p) (hop : p.op = 0x87) :
    State.PlatenLeft t (s.acczeroed t p) ((s.acczeroed t p).platenDone t p 0) := by
  have hteam : ((s.acczeroed t p).th t).team = (s.th t).team := State.proj_acczeroed (·.team) (fun _ _ => rfl) s t p
  refine State.platenDone_left 0 (by rw [PlatenOp.retires, hop]; rfl) ?_ (by rw [hteam]; exact h.there)
  exact (State.length_modTh _ t _).trans (State.length_modTh s t _) ▸ h.thread

/-- Settles O39: check 3 of 10 R265 fixes the sources of the word, and the end of the operation keeps what the zeroed tile left. -/
theorem accumulatorZero : Obligations.AccumulatorZero := by
  constructor
  · intro n w _ hdec
    obtain ⟨op, c, hword, hok⟩ := ccSourcesOk_of_decodeControl hdec
    cases hword
    exact sources_of_ccSourcesOk_acczero hok
  · intro s t p h hop
    have left := State.acczero_left h hop
    obtain ⟨q, hmb⟩ := left.stores (s.th t).member
    rw [State.acczeroed_mb p h.member, tileNo_eq_mod] at hmb
    refine ⟨_, exec_platenOpComplete h.powered (State.platenComplete_acczero h hop), ?_, ?_, ?_, ?_, left.mem, ?_, ?_⟩
    · intro k hk
      rw [State.accEl, hmb, Member.withLives_acc]
      exact Member.get_acczero_self _ _ hk
    · intro r hr
      rw [hmb, Member.withLives_rowPoisoned]
      exact Member.rowPoisoned_acczero _ _ hr
    · intro n k _ hn hk
      rw [State.accEl, hmb, Member.withLives_acc]
      exact Member.get_acczero_ne _ hn hk
    · rw [hmb, Member.withLives_tile, Member.acczero_tile]
    · exact left.x.trans (State.proj_acczeroed (·.x) (fun _ _ => rfl) s t p)
    · exact left.platen.trans (State.proj_acczeroed (·.platen.drop 1) Thread.modHead_platen_drop s t p)

end Sys2Proof.Machine
end

section
/-! Walker words (16 R402): what one that goes on or halts leaves, the register that one writes, and the word an instruction was
decoded from. -/

namespace Sys2Proof.Machine

/-! ### A changed entry of a table -/

theorem Tbl.find_modify {α : Type} (k : Nat) (f : α → α) : ∀ t : Tbl α, Tbl.find k (Tbl.modify k f t) = (Tbl.find k t).map f
  | [] => rfl
  | (j, v) :: t => by
    by_cases h : k = j
    · simp [Tbl.modify, Tbl.find, h]
    · simp [Tbl.modify, Tbl.find, h, Tbl.find_modify k f t]

theorem Tbl.find_map {α β : Type} (k : Nat) (g : α → β) : ∀ t : Tbl α,
    Tbl.find k (t.map fun e => (e.1, g e.2)) = (Tbl.find k t).map g
  | [] => rfl
  | (j, v) :: t => by
    by_cases h : k = j
    · simp [Tbl.find, h]
    · simp [Tbl.find, h, Tbl.find_map k g t]

/-- Only what a change makes of the entry found counts. -/
theorem Tbl.modify_congr {α : Type} {k : Nat} {f g : α → α} : ∀ {t : Tbl α},
    (∀ v, Tbl.find k t = some v → f v = g v) → Tbl.modify k f t = Tbl.modify k g t
  | [], _ => rfl
  | (j, v) :: t, h => by
    by_cases hk : k = j
    · simp [Tbl.modify, hk, h v (by simp [Tbl.find, hk])]
    · have ih : Tbl.modify k f t = Tbl.modify k g t := Tbl.modify_congr fun u hu => h u (by simp [Tbl.find, hk, hu])
      simp [Tbl.modify, hk, ih]

/-! ### The walker of a cluster -/

theorem State.clu_modClu {s : State} {k : Nat} (f : Cluster → Cluster) (h : (Tbl.find k s.clusters).isSome = true) :
    (s.modClu k f).clu k = f (s.clu k) := by
  obtain ⟨c, hc⟩ := Option.isSome_iff_exists.mp h
  simp [State.clu, State.modClu, Tbl.find_modify, hc]

theorem State.walker_modWalker {s : State} {k : Nat} (f : Walker → Walker) (h : (Tbl.find k s.clusters).isSome = true) :
    ((s.modWalker k f).clu k).walker = f (s.clu k).walker :=
  congrArg Cluster.walker (State.clu_modClu _ h)

/-- A change of a walker keeps its cluster in the table. -/
theorem State.isSome_modWalker {s : State} {k : Nat} (f : Walker → Walker) (h : (Tbl.find k s.clusters).isSome = true) :
    (Tbl.find k (s.modWalker k f).clusters).isSome = true := by
  rw [State.modWalker, State.modClu, Tbl.find_modify, Option.isSome_map, h]

/-- Only what a change makes of the walker as it stands counts. -/
theorem State.modWalker_congr {s : State} {k : Nat} {f g : Walker → Walker} (h : f (s.clu k).walker = g (s.clu k).walker) :
    s.modWalker k f = s.modWalker k g := by
  have hclusters : Tbl.modify k (fun c => { c with walker := f c.walker }) s.clusters =
      Tbl.modify k (fun c => { c with walker := g c.walker }) s.clusters := by
    refine Tbl.modify_congr fun c hc => ?_
    rw [State.clu, hc] at h
    exact congrArg (fun w => { c with walker := w }) h
  rw [State.modWalker, State.modClu, hclusters]; rfl

theorem State.still_clu (s : State) (k : Nat) :
    (s.clu k).still = ((Tbl.find k s.clusters).map Cluster.still).getD (Cluster.reset 127).still := by
  unfold State.clu
  cases Tbl.find k s.clusters <;> rfl

/-- A cluster of states that agree. -/
theorem State.Same.clu {a b : State} (h : State.Same a b) (k : Nat) : (b.clu k).still = (a.clu k).still := by
  have hclusters : b.clusters.map (fun e => (e.1, e.2.still)) = a.clusters.map fun e => (e.1, e.2.still) :=
    congrArg State.clusters h.eq
  rw [State.still_clu, State.still_clu, ← Tbl.find_map, ← Tbl.find_map, hclusters]

/-- The walker keeps no clock and no counter. -/
theorem State.Same.walker {a b : State} (h : State.Same a b) (k : Nat) : (b.clu k).walker = (a.clu k).walker := by
  have e := congrArg Cluster.walker (h.clu k); exact e

theorem State.withTick_same (s : State) (n : Nat) : State.Same s { s with tick := n } := rfl

/-- A step of a walker that passes changes clocks and counters alone. -/
theorem State.tickWalker_same (s : State) (k : Nat) : State.Same s (s.tickWalker k) :=
  (State.passCycles_same s k (Config.freeNat s.tick + 1)).trans (State.withTick_same _ _)

/-! ### A register written -/

section
variable {s : State} {k : Nat} (wd : WReg) (v : Word) (p : Bool)

theorem State.rw_ww (h : (Tbl.find k s.clusters).isSome = true) (r : WReg) :
    ((s.ww k wd v p).clu k).walker.rw r = if r = wd then v else (s.clu k).walker.rw r := by
  rw [State.ww, State.walker_modWalker _ h]
  simp only [Walker.rw, Vector.getElem_set, BitVec.toNat_inj, eq_comm]

theorem State.poison_ww (h : (Tbl.find k s.clusters).isSome = true) (r : WReg) :
    ((s.ww k wd v p).clu k).walker.poison.getLsbD r.toNat = if r = wd then p else (s.clu k).walker.poison.getLsbD r.toNat := by
  have hr : r.toNat < 16 := r.isLt
  have hflag : (1#16 <<< wd.toNat).getLsbD r.toNat = decide (r = wd) :=
    (BitVec.getLsbD_twoPow wd.toNat r.toNat).trans (by simp [wd.isLt, BitVec.toNat_inj, eq_comm])
  rw [State.ww, State.walker_modWalker _ h]
  cases p
  · simp only [Bool.false_eq_true, if_false, BitVec.getLsbD_and, BitVec.getLsbD_not, hflag, hr]
    by_cases heq : r = wd <;> simp [heq]
  · simp only [if_true, BitVec.getLsbD_or, hflag]
    by_cases heq : r = wd <;> simp [heq]

end

/-! ### Words that go on, and words that halt (16 R402, R412) -/

section
variable {s : State} {k : Nat} {c : Cmd} {b : WalkBlk} {uses : List WReg} {f : State → Nat → Walker → Cmd → WalkBlk → WRes} {i : Instr}

/-- A walker that runs stands in the table: a cluster beyond it has an idle one. -/
theorem State.WalkGo.isSome (g : s.WalkGo k c b uses) : (Tbl.find k s.clusters).isSome = true := by
  have hrun := g.running
  unfold State.clu at hrun
  cases hfind : Tbl.find k s.clusters with
  | some _ => rfl
  | none =>
    rw [hfind] at hrun
    cases hrun

theorem State.WalkGo.noPoison (g : s.WalkGo k c b uses) : (uses.any fun r => (s.clu k).walker.poison.getLsbD r.toNat) = false :=
  List.any_eq_false.mpr fun r hr => Bool.eq_false_iff.mp (g.clean r hr)

theorem walkerExec_of_ok {s2 : State} (g : s.WalkGo k c b uses) (h : f s k (s.clu k).walker c b = .ok s2) :
    walkerExec s uses f = .next ((s2.modWalker k fun w => { w with pc := w.pc + 4 }).tickWalker k) := by
  simp [walkerExec, g.powered, g.cur, g.walk, g.running, g.noPoison, h]

theorem walkerExec_of_halt {s2 : State} {sub : BitVec 8} {fa : Option Word} (g : s.WalkGo k c b uses)
    (h : f s k (s.clu k).walker c b = .halt s2 sub fa) :
    walkerExec s uses f = .next ((s2.haltWalker k sub fa).tickWalker k) := by
  simp [walkerExec, g.powered, g.cur, g.walk, g.running, g.noPoison, h]

/-- A word that changes its walker but not the PC, which then goes to the next word. -/
theorem walkDoes_of_modWalker {h : Walker → Walker} (hpc : (h (s.clu k).walker).pc = (s.clu k).walker.pc)
    (hexec : exec i s = walkerExec s uses f) (g : s.WalkGo k c b uses) (hf : f s k (s.clu k).walker c b = .ok (s.modWalker k h)) :
    WalkDoes i s k (s.modWalker k h) (s.walkNext k) := by
  have hwalker := State.walker_modWalker h g.isSome
  have hnext : ((s.modWalker k h).modWalker k fun w => { w with pc := w.pc + 4 }) =
      (s.modWalker k h).modWalker k fun w => { w with pc := s.walkNext k } :=
    State.modWalker_congr (by rw [hwalker, hpc]; rfl)
  refine ⟨_, hexec.trans (walkerExec_of_ok g hf), ?_⟩
  rw [hnext]
  have hsame := State.tickWalker_same ((s.modWalker k h).modWalker k fun w => { w with pc := s.walkNext k }) k
  exact ⟨hsame, by rw [hsame.walker, State.walker_modWalker _ (State.isSome_modWalker h g.isSome)]⟩

theorem walkHalts_of_halt {s2 : State} {sub : BitVec 8} {fa : Option Word} (hexec : exec i s = walkerExec s uses f)
    (g : s.WalkGo k c b uses) (hf : f s k (s.clu k).walker c b = .halt s2 sub fa) : WalkHalts i s k s2 sub fa :=
  ⟨_, hexec.trans (walkerExec_of_halt g hf), State.tickWalker_same _ k⟩

/-- What a word that writes a register leaves of the others, of their flags and of memory. -/
theorem WalkDoes.register_written {wd : WReg} {v pc : Word} {p : Bool} (g : s.WalkGo k c b uses)
    (h : WalkDoes i s k (s.ww k wd v p) pc) :
    Gives (exec i s) fun s' =>
      (∀ r, (s'.clu k).walker.rw r = if r = wd then v else (s.clu k).walker.rw r) ∧
      (∀ r : WReg, (s'.clu k).walker.poison.getLsbD r.toNat = if r = wd then p else (s.clu k).walker.poison.getLsbD r.toNat) ∧
      s'.mem = s.mem ∧ s'.members = s.members ∧ s'.cmds = s.cmds := by
  obtain ⟨s', hexec, hsame, -⟩ := h
  have hwalker : (s'.clu k).walker = { ((s.ww k wd v p).clu k).walker with pc } :=
    (hsame.walker k).trans (State.walker_modWalker _ (State.isSome_modWalker _ g.isSome))
  refine ⟨s', hexec, fun r => ?_, fun r => ?_, hsame.mem, hsame.members, hsame.cmds⟩
  · rw [hwalker]
    exact State.rw_ww wd v p g.isSome r
  · rw [hwalker]
    exact State.poison_ww wd v p g.isSome r

end

/-- A word that writes one register from the walker as it stands, with its flag clear (16 R403, R404). -/
theorem walkResult_of_wreg {i : Instr} {uses : List WReg} {wd : WReg} {v : Walker → Word}
    (hexec : ∀ s, exec i s = walkerExec s uses (wreg wd v)) : WalkResult i uses wd v fun _ => false := by
  intro s k c b g
  have hdoes : WalkDoes i s k (s.ww k wd (v (s.clu k).walker) false) (s.walkNext k) :=
    walkDoes_of_modWalker rfl (hexec s) g rfl
  exact ⟨hdoes, hdoes.register_written g⟩

/-! ### The word that an instruction was decoded from (16 R402) -/

theorem decodeWalker_eq_ok_iff {w : Nat} {i : Instr} : decodeWalker w = .ok i ↔ decWalker w = some i := by
  unfold decodeWalker orIllegal
  cases decWalker w with
  | none => simp
  | some j => simp

theorem bvAt_toNat (n w lo : Nat) : (bvAt n w lo).toNat = fld w lo n := BitVec.toNat_ofNat _ _

theorem bvAt_eq_iff {n w lo : Nat} {r : BitVec n} : bvAt n w lo = r ↔ fld w lo n = r.toNat := by
  rw [← BitVec.toNat_inj, bvAt_toNat]

theorem bitOf_bitAt (w k : Nat) : bitOf (bitAt w k) = fld w k 1 := by
  have hbit := Nat.mod_two_eq_zero_or_one (w / 2 ^ k)
  rcases hbit with h | h <;> simp [bitOf, bitAt, fld, h]

theorem bitAt_eq_true_iff {w k : Nat} : bitAt w k = true ↔ fld w k 1 = 1 := by
  simp [bitAt, fld]

theorem encWCond_decWCond {n : Nat} (h : n < 4) : encWCond (decWCond n) = n := by
  interval_cases n <;> rfl

/-- A walker word that decodes is the one that its instruction encodes to: each op fixes the fields that it does not read. -/
theorem encode_of_decWalker {w : Nat} {i : Instr} (hw : w < 2 ^ 32) (h : decWalker w = some i) : encode i = [w] := by
  have hcond : encWCond (decWCond (fld w 18 2)) = fld w 18 2 := encWCond_decWCond (Nat.mod_lt _ (by decide))
  unfold decWalker at h
  dsimp only at h
  repeat' split at h
  all_goals
    simp only [reduceCtorEq, Option.some.injEq] at h <;>
    (subst h
     refine congrArg (fun n => [n]) (?_ : encW _ _ _ _ _ = w)
     simp only [encW, bvAt_toNat, hcond, bitOf_bitAt, bitAt_eq_true_iff, fld] at *
     omega)

/-- One word decodes to an instruction, if any: the one it encodes to. -/
theorem decodeWalker_eq_ok_iff_of_encode {w n : Nat} {i : Instr} (hw : w < 2 ^ 32) (henc : encode i = [n])
    (hdec : decWalker n = some i) : decodeWalker w = .ok i ↔ w = n := by
  rw [decodeWalker_eq_ok_iff]
  constructor
  · intro h
    have hword := encode_of_decWalker hw h
    rw [henc] at hword
    exact (List.singleton_inj.mp hword).symm
  · rintro rfl
    exact hdec

/-- The fields of a walker word of op, wd and wa alone. -/
theorem fields_encW_registers {op : Nat} (hop : op < 64) (d a : WReg) :
    encW op d.toNat a.toNat 0 0 % 64 = op ∧ bvAt 4 (encW op d.toNat a.toNat 0 0) 6 = d ∧
      bvAt 4 (encW op d.toNat a.toNat 0 0) 10 = a ∧ fld (encW op d.toNat a.toNat 0 0) 14 4 = 0 ∧
      fld (encW op d.toNat a.toNat 0 0) 18 14 = 0 := by
  have hd : d.toNat < 16 := d.isLt
  have ha : a.toNat < 16 := a.isLt
  simp only [bvAt_eq_iff, encW, fld]
  omega

/-- Zero fields of wb and imm14 add nothing to a word. -/
theorem encW_zero_zero (op d a : Nat) : encW op d a 0 0 = op + d * 2 ^ 6 + a * 2 ^ 10 := by
  simp [encW]

theorem encode_wffs (d a : WReg) : encode (.wffs d a) = [encW 0x13 d.toNat a.toNat 0 0] := by rfl

theorem encode_wpopc (d a : WReg) : encode (.wpopc d a) = [encW 0x14 d.toNat a.toNat 0 0] := by rfl

theorem decWalker_wffs (d a : WReg) : decWalker (encW 0x13 d.toNat a.toNat 0 0) = some (.wffs d a) := by
  simp only [decWalker, fields_encW_registers (op := 0x13) (by decide) d a, and_self, if_true]

theorem decWalker_wpopc (d a : WReg) : decWalker (encW 0x14 d.toNat a.toNat 0 0) = some (.wpopc d a) := by
  simp only [decWalker, fields_encW_registers (op := 0x14) (by decide) d a, and_self, if_true]

/-- Op 0x21 is WROW's alone. -/
theorem eq_wrow_of_decWalker {w : Nat} {i : Instr} (hop : w % 64 = 0x21) (h : decWalker w = some i) : i = .wrow := by
  simp only [decWalker, hop, Option.ite_none_right_eq_some, Option.some.injEq] at h
  exact h.2.symm

/-! ### WFFS, WPOPC and WROW (16 R404, R407) -/

theorem exec_wffs (wd wa : WReg) (s : State) : exec (.wffs wd wa) s = execWffs wd wa s := by rfl

theorem exec_wpopc (wd wa : WReg) (s : State) : exec (.wpopc wd wa) s = execWpopc wd wa s := by rfl

theorem exec_wrow (s : State) : exec .wrow s = execWrow s := by rfl

/-- Settles O30: both words write a function of wa, and the word of each holds op, wd and wa and nothing else. -/
theorem walkerBitCounts : Obligations.WalkerBitCounts := by
  intro wd wa
  refine ⟨?_, ?_, fun w hw => ⟨?_, ?_⟩⟩
  · exact walkResult_of_wreg (exec_wffs wd wa)
  · exact walkResult_of_wreg (exec_wpopc wd wa)
  · rw [decodeWalker_eq_ok_iff_of_encode hw (encode_wffs wd wa) (decWalker_wffs wd wa), encW_zero_zero]
  · rw [decodeWalker_eq_ok_iff_of_encode hw (encode_wpopc wd wa) (decWalker_wpopc wd wa), encW_zero_zero]

/-- Settles O32: the bound on ROW decides between the halt and the next row, and op 0x21 decodes to WROW alone. -/
theorem walkerRow : Obligations.WalkerRow := by
  refine ⟨fun s k c b g => ⟨fun hrow => ?_, fun hrow => ?_⟩, fun w hw hop => ⟨?_, ?_⟩⟩
  · exact walkDoes_of_modWalker rfl (exec_wrow s) g (if_neg hrow)
  · exact walkHalts_of_halt (exec_wrow s) g (if_pos hrow)
  · rintro ⟨i, hi⟩
    have hdec := decodeWalker_eq_ok_iff.mp hi
    obtain rfl := eq_wrow_of_decWalker hop hdec
    exact (List.singleton_inj.mp (encode_of_decWalker hw hdec)).symm
  · rintro rfl
    exact ⟨.wrow, rfl⟩

end Sys2Proof.Machine
end
